-- ==== Sys2Proof/Word.lean ====
section
/-! DEFINITION. The words of the model: bytes, byte strings and the sparse byte memories made of them.
Only what every other file rests on stands here; arithmetic on formats is in Machine/Num.lean. -/

namespace Sys2Proof

/-- One byte, the smallest addressable unit of every memory of the device (spec 00, R10). -/
abbrev Byte := BitVec 8

/-- A string of bytes, the byte at the lowest address first (R10). -/
abbrev Bytes := List Byte

/-- A range of device addresses: its first byte and its length. -/
abbrev Range := Nat × Nat

end Sys2Proof
end

