-- ==== Sys2Proof/Syntax.lean ====
section
/-! DEFINITION. The commands of the VT-8824: one constructor per row of spec/opcode_table.json.

Every command carries first `t`, the device time in nanoseconds at which the step happens (assumption 1).
The other operands are what the outside world supplies at that step and the state does not already hold:
unit numbers (R9), the value written to a register, the bytes of a host buffer, a physical reading or outcome.
A command of the Abaop set is its decision point: its 64 bytes are read from the command slot in State (R310).
A descriptor's row reads its bytes from the stream in the slot's stack segment (R343). -/

namespace Sys2Proof

/-- A host input buffer as the device reads it (R333): its bytes from Addr on, or `none` when the transfer fails
beyond PCIe replay (R221). Bytes that are not given read as 0. -/
abbrev HostBuf := Option Bytes

/-- The outcome of an integrity check met by an operation, supplied by the physical world (R216 to R228).
An operation without one met none. -/
inductive CheckErr where
  /-- The chunk written at this device address failed its CRC-32C, once (`twice` false) or on the retry too (R220). -/
  | xfer (addr : Nat) (twice : Bool)
  /-- The tile with this ordinal failed its header Check once, or twice (R220). -/
  | tile (ordinal : Nat) (twice : Bool)
  /-- The pool word at this address had a single-bit error, corrected in line (R222). -/
  | poolCorrected (addr : Nat)
  /-- The pool word at this address was uncorrectable on both reads (R220). -/
  | poolUncorrectable (addr : Nat)
  /-- The 64-byte stack unit at this address was read with `symbols` symbols in error, the first at pin
  `position` (Table 9.3). -/
  | stackSymbols (addr symbols position : Nat)
  /-- A chunk on its way into the unit, read at this device address, failed its CRC-32C once, or on the retry too (R220,
  Table 10.2). -/
  | chunkIn (addr : Nat) (twice : Bool)
  /-- The CXL.mem read at this address arrived poisoned (R221). -/
  | cxlPoisoned (addr : Nat)
  deriving DecidableEq, Repr

/-- What FEC decoding of a received frame found (R235). -/
structure FecOutcome where
  corrected : Nat
  uncorrectable : Bool
  deriving DecidableEq, Repr

/-- Where MESSAGE_FORWARD takes its message from: the router's local port, or a class and VC stream of a
sub-port (R232, R237). -/
inductive MsgSource where
  | localPort
  | port (sp cls vc : Nat)
  deriving DecidableEq, Repr

/-- What a holder answers to RESTORE_ASK (R388): the first 64 bytes of the image record, and the device area. -/
structure RestoreAnswer where
  record : Bytes
  deviceArea : Bytes
  deriving DecidableEq, Repr

/-- The readings of one basin in a 1 ms monitor window (R39, R40): the mean of each of its two monitors in units of
1 M events/s, the highest junction temperature in the window, and the junction temperature at its end, in °C. -/
structure MonitorReading where
  rateA : Nat
  rateB : Nat
  junction : Nat
  junctionEnd : Nat
  deriving DecidableEq, Repr

/-- A shared block of Table 1.4 in which a fault appears (R20). -/
inductive SharedBlock where
  | folhamPort (p : Nat)
  | cxlPort (p : Nat)
  | activeWellhead
  | routerCore
  | hostEndpoint
  | moduleStore
  | securityBlock
  | monitor (b : Nat)
  deriving DecidableEq, Repr

/-- How boot ended (Table 17.2, R392, R415): per image slot whether it verifies, what the image says, and the
basins whose stacks failed training. -/
structure BootResult where
  /-- Steps 1 to 3 of Table 17.2 passed and the helper-data and identity records are valid. -/
  rootOk : Bool
  /-- The header and stage 1 of slot A decrypt and Sig1 verifies (steps 4 and 7), and the rest with Sig2 (step 8). -/
  slotAStage1 : Bool
  slotAImage : Bool
  /-- The same of slot B. -/
  slotBStage1 : Bool
  slotBImage : Bool
  /-- The stacks that failed training (phase 6). -/
  failedStacks : List Nat
  deriving DecidableEq, Repr

/-- The commands: one constructor per row of the table, in the table's order. -/
inductive Instr where
  /-- DOORBELL (R310): A host write to a mailbox Tail register announces new commands, or is refused and counted as an overrun. -/
  | doorbell (t : Nat) (fn mb tail : Nat)
  /-- OVERRUN_CLEAR (R309): A counted-clear write to a mailbox overrun register clears OverrunFlag only if its count matches OverrunCount. -/
  | overrunClear (t : Nat) (fn mb value : Nat)
  /-- EVENT_HEAD_WRITE (R319): A host write to EventHead frees event-ring entries, and waiting fault records then enter the ring. -/
  | eventHeadWrite (t : Nat) (fn mb value : Nat)
  /-- ALERT_REGISTER_WRITE (R326): A counted-clear write to an alert register clears its Flag only if the written count equals Count. -/
  | alertRegisterWrite (t : Nat) (fn a value : Nat)
  /-- REGISTER_WRITE (R306): A write to a BAR0 register that has no behaviour of its own, such as the alert mask or the MSI-X table. -/
  | registerWrite (t : Nat) (fn off : Nat) (bytes : Bytes)
  /-- UNSUPPORTED_ACCESS (R307): A BAR0 access of an unsupported size or alignment completes as an Unsupported Request and changes nothing. -/
  | unsupportedAccess (t : Nat) (fn off size : Nat) (isWrite : Bool)
  /-- UNDEFINED_OPCODE (R314): A command whose opcode is not defined reaches its decision point and completes with BAD_OPCODE. -/
  | undefinedOpcode (t : Nat) (fn mb : Nat)
  /-- DEVICE_QUERY (R338): Returns device time, performance point, open partitions, step counter and the next planned still. -/
  | deviceQuery (t : Nat) (fn mb : Nat)
  /-- HOLD_RELEASE (R339): Moves the device from HELD to READY, after which its ports begin training. -/
  | holdRelease (t : Nat) (fn mb : Nat)
  /-- OPERATING_POINT_SET (R37): Requests a change of performance point by setting a target die voltage. -/
  | operatingPointSet (t : Nat) (fn mb : Nat)
  /-- POINT_SETTLED (R37): The die voltage settles within ±10 mV of the new nominal and OPERATING_POINT_SET completes with DONE. -/
  | pointSettled (t : Nat)
  /-- PARTITION_OPEN (R340): Opens a partition over IDLE basins, held CXL ports and a range of peer contexts. -/
  | partitionOpen (t : Nat) (fn mb : Nat)
  /-- PARTITION_CLOSE (R341): Breaks the partition's instances, clears its basins and erases its tables; completes deferred. -/
  | partitionClose (t : Nat) (fn mb : Nat)
  /-- PARTITION_CLOSE_COMPLETE (R341): The clearing of a closing partition ends and PARTITION_CLOSE completes with DONE. -/
  | partitionCloseComplete (t : Nat) (p : Nat)
  /-- POOL_MODE_SET (R191): Sets a basin's cache size, writing back and zeroing the sections whose mode changes. -/
  | poolModeSet (t : Nat) (fn mb : Nat)
  /-- POOL_MODE_CHANGE_COMPLETE (R191): The cache write-back and section zeroing end and POOL_MODE_SET completes with DONE. -/
  | poolModeChangeComplete (t : Nat) (b : Nat)
  /-- SEGMENT_SET (R192): Writes the four segment records of a task slot. -/
  | segmentSet (t : Nat) (fn mb : Nat) (buf : HostBuf)
  /-- CXL_PORT_ATTACH (R212): Draws keys for a PRESENT CXL port, enables CXL.mem and makes the port ONLINE. -/
  | cxlPortAttach (t : Nat) (fn mb : Nat)
  /-- CXL_PORT_DETACH (R212): Makes an ONLINE port DETACHING, then writes back its cache and drains its accesses. -/
  | cxlPortDetach (t : Nat) (fn mb : Nat)
  /-- CXL_DETACH_COMPLETE (R212): A detaching port finishes its drain, discards its keys, becomes PRESENT and the command completes. -/
  | cxlDetachComplete (t : Nat) (port : Nat)
  /-- PROGRAM_LOAD (R343): Writes a descriptor stream into a slot's stack segment and records its digest. -/
  | programLoad (t : Nat) (fn mb : Nat) (buf : HostBuf)
  /-- PROGRAM_LOAD_COMPLETE (R343): Every byte of the stream is committed; the slot enters State 1 and PROGRAM_LOAD completes with DONE. -/
  | programLoadComplete (t : Nat) (b k : Nat)
  /-- TABLE_LOAD (R344): Loads a table record into a table slot of the named basins. -/
  | tableLoad (t : Nat) (fn mb : Nat) (buf : HostBuf)
  /-- TABLE_LOAD_COMPLETE (R115): The table operations using the slot have completed, all copies hold the new pair, and the load completes. -/
  | tableLoadComplete (t : Nat) (slot : Nat)
  /-- TASK_START (R345): Starts a loaded slot from Position 0 with its seed, crossover, mailbox and owned cells. -/
  | taskStart (t : Nat) (fn mb : Nat)
  /-- TASK_STOP (R346): Stops a slot's task by running the clearing sequence. -/
  | taskStop (t : Nat) (fn mb : Nat)
  /-- CLEARING_COMPLETE (R296): The last issued descriptor of a stopped slot completes, the clearing ends and the slot is freed. -/
  | clearingComplete (t : Nat) (b k : Nat)
  /-- TASK_QUERY (R342): Returns a slot's state, mailbox, runs completed, position and stream digest. -/
  | taskQuery (t : Nat) (fn mb : Nat)
  /-- STILL_PLAN (R347): Sets a partition's still period and first planned still. -/
  | stillPlan (t : Nat) (fn mb : Nat)
  /-- STILL_WINDOW_SET (R298): Selects a partition's still pulse source, its window and the STILL_SYNC_OUT echo. -/
  | stillWindowSet (t : Nat) (fn mb : Nat)
  /-- ROUTE_TABLE_LOAD (R349): Loads the device ID and the group and member route tables. -/
  | routeTableLoad (t : Nat) (fn mb : Nat) (buf : HostBuf)
  /-- PEER_TABLE_LOAD (R244): Writes peer records into contexts of the partition and resets their numbers and credits. -/
  | peerTableLoad (t : Nat) (fn mb : Nat) (buf : HostBuf)
  /-- GROUP_DEFINE (R350): Writes a collective group record into the partition. -/
  | groupDefine (t : Nat) (fn mb : Nat) (buf : HostBuf)
  /-- WEIR_SET (R350): Changes the Weir, WeirFrom and MinJoin of a group. -/
  | weirSet (t : Nat) (fn mb : Nat)
  /-- SYNC_TREE_DEFINE (R292): Writes a sync tree record into the partition. -/
  | syncTreeDefine (t : Nat) (fn mb : Nat)
  /-- GENERATION_CANCEL (R350): Retires dispatch generations in the named basins. -/
  | generationCancel (t : Nat) (fn mb : Nat)
  /-- PORT_MODE_SET (R257): Sets a Folham port's mode and retrains the whole port. -/
  | portModeSet (t : Nat) (fn mb : Nat)
  /-- PORT_RETRAIN (R257): Retrains one Folham sub-port. -/
  | portRetrain (t : Nat) (fn mb : Nat)
  /-- REFLECT_PAIR (R352): Pairs a partition with a reflection partner after a feed check, or removes the partner. -/
  | reflectPair (t : Nat) (fn mb : Nat)
  /-- PARTNER_CONFIRM (R352): The partner confirms the reflection region and REFLECT_PAIR completes with DONE. -/
  | partnerConfirm (t : Nat) (p : Nat) (accepted : Bool)
  /-- REFLECT_INTERVAL_SET (R375): Sets the MTBF source of the Class S reflection interval. -/
  | reflectIntervalSet (t : Nat) (fn mb : Nat)
  /-- SOUNDING_THRESHOLD_SET (R353): Sets the sounding threshold for every partition. -/
  | soundingThresholdSet (t : Nat) (fn mb : Nat)
  /-- FAILURE_NOTICE (R353): Counts a fleet failure and marks the named device lost in every collective group. -/
  | failureNotice (t : Nat) (fn mb : Nat)
  /-- RESTORE_BEGIN (R388): Finds a held image and starts restoring the partition's secured state from it. -/
  | restoreBegin (t : Nat) (fn mb : Nat) (found : Option RestoreAnswer)
  /-- REPLAY_VERIFY (R354): Compares the replay loss of a finished slot with the recorded loss. -/
  | replayVerify (t : Nat) (fn mb : Nat)
  /-- ATTEST_REPORT (R396): Builds and signs an attestation report of the device or a partition. -/
  | attestReport (t : Nat) (fn mb : Nat)
  /-- ATTEST_REPORT_COMPLETE (R396): The signed report is written to the host buffer and ATTEST_REPORT completes. -/
  | attestReportComplete (t : Nat) (outOk : Bool)
  /-- KEY_ACCEPT (R400): Unwraps a key under the partition's ephemeral key and installs it in the key table. -/
  | keyAccept (t : Nat) (fn mb : Nat) (buf : HostBuf)
  /-- WEIGHTS_IMPORT (R404): Opens an import of sealed weight units from a source peer. -/
  | weightsImport (t : Nat) (fn mb : Nat)
  /-- DEBUG_UNLOCK (R411): Verifies a signed unlock and unlocks the debug port for this boot. -/
  | debugUnlock (t : Nat) (fn mb : Nat) (buf : HostBuf)
  /-- TELEMETRY_READ (R357): Writes a telemetry item to a host buffer. -/
  | telemetryRead (t : Nat) (fn mb : Nat) (outOk : Bool)
  /-- COUNTER_READ (R358): Writes live or snapshot statistics counters, or an expert counter snapshot, to a host buffer. -/
  | counterRead (t : Nat) (fn mb : Nat) (outOk : Bool)
  /-- BASIN_DRAIN (R421): Moves an ACTIVE basin to DRAINING and starts the drain sequence. -/
  | basinDrain (t : Nat) (fn mb : Nat)
  /-- DRAIN_COMPLETE (R421): The drain's waits end, the basin is cleared, it enters SERVICE and BASIN_DRAIN completes. -/
  | drainComplete (t : Nat) (b : Nat)
  /-- DRAIN_COLLECTIVE_TIMEOUT (R421): A collective instance of a draining basin that has not ended 100 ms after acceptance is broken. -/
  | drainCollectiveTimeout (t : Nat) (b : Nat)
  /-- BASIN_SERVICE (R360): Moves an IDLE or RETIRED basin to SERVICE. -/
  | basinService (t : Nat) (fn mb : Nat)
  /-- BASIN_RETURN (R423): Returns a basin in SERVICE to ACTIVE or IDLE. -/
  | basinReturn (t : Nat) (fn mb : Nat)
  /-- BASIN_RETIRE (R360): Retires a basin in SERVICE and commits the retirement map. -/
  | basinRetire (t : Nat) (fn mb : Nat)
  /-- CALIBRATE (R360): Retrains a basin's stacks or reloads its sequencer microcode. -/
  | calibrate (t : Nat) (fn mb : Nat)
  /-- CALIBRATION_COMPLETE (R424): The retraining or microcode reload ends, a calibration record is committed and CALIBRATE completes. -/
  | calibrationComplete (t : Nat) (b : Nat) (failedStacks : List Nat)
  /-- FIRMWARE_STAGE (R425): Verifies a firmware image and stores it in the slot that is not running. -/
  | firmwareStage (t : Nat) (fn mb : Nat) (buf : HostBuf)
  /-- FIRMWARE_STAGE_COMPLETE (R425): The standby pair has loaded the staged image and FIRMWARE_STAGE completes. -/
  | firmwareStageComplete (t : Nat)
  /-- FIRMWARE_SWITCH (R426): Requests a handover to the staged image, or a rollback to the other slot. -/
  | firmwareSwitch (t : Nat) (fn mb : Nat)
  /-- HANDOVER_START (R427): The handover starts at the first moment clear of stills and runs its four phases. -/
  | handoverStart (t : Nat)
  /-- HANDOVER_DEADLINE (R428): 100 ms pass without a suitable moment, and the handover is forced after the next still stage 8. -/
  | handoverDeadline (t : Nat)
  /-- HANDOVER_TIMEOUT (R430): Phase 2 of the handover overruns 800 µs; the old pair resumes and the switch completes with HARDWARE_FAULT. -/
  | handoverTimeout (t : Nat)
  /-- STATE_READ (R330): An I3C request that returns the state register and the alert summary. -/
  | stateRead (t : Nat) (request : Bytes)
  /-- SENSOR_READ (R330): An I3C request that returns temperatures, input voltage, current, power and the performance point. -/
  | sensorRead (t : Nat) (request : Bytes)
  /-- ALERT_READ (R330): An I3C request that returns the physical function's 17 alert registers. -/
  | alertRead (t : Nat) (request : Bytes)
  /-- STOP_ARM (R330): An I3C request that arms the emergency stop for 1 s. -/
  | stopArm (t : Nat) (request : Bytes)
  /-- STOP_ARM_EXPIRY (R331): The 1 s arming of the emergency stop lapses. -/
  | stopArmExpiry (t : Nat)
  /-- STOP (R331): An I3C emergency stop, which acts only while the stop is armed. -/
  | stop (t : Nat) (request : Bytes)
  /-- SET_ENDPOINT_ID (R329): An MCTP control message over I3C that sets the endpoint ID. -/
  | setEndpointId (t : Nat) (eid : Nat)
  /-- GET_ENDPOINT_ID (R329): An MCTP control message over I3C that reads the endpoint ID. -/
  | getEndpointId (t : Nat)
  /-- GET_MCTP_VERSION_SUPPORT (R329): An MCTP control message over I3C that reads the supported MCTP versions. -/
  | getMctpVersionSupport (t : Nat)
  /-- GET_MESSAGE_TYPE_SUPPORT (R329): An MCTP control message over I3C that reads the supported message types. -/
  | getMessageTypeSupport (t : Nat)
  /-- SETDASA (R329): An I3C command that assigns the dynamic address from static address 0x3A. -/
  | setdasa (t : Nat) (addr : Nat)
  /-- ENTDAA (R329): An I3C command that assigns the dynamic address by dynamic address assignment. -/
  | entdaa (t : Nat) (addr : Nat)
  /-- FUNCTION_LEVEL_RESET (R318): Resets one PCIe function's mailboxes and event rings and stops the tasks it started. -/
  | functionLevelReset (t : Nat) (fn : Nat)
  /-- UNKNOWN_CLASS_DESCRIPTOR (R27): A descriptor with an illegal Class byte, or one that runs past the stream end, reaches the head of its slot. -/
  | unknownClassDescriptor (t : Nat) (b k : Nat)
  /-- MERE_PASS_STAGE (R89): A mere pass is staged and its stationary set starts to load. -/
  | merePassStage (t : Nat) (b k : Nat) (lanesFree : Bool) (errs : List CheckErr)
  /-- MERE_PASS_ISSUE (R90): A staged pass issues once its set is loaded, its operands are resident and the spacing holds. -/
  | merePassIssue (t : Nat) (b : Nat) (ready : Bool) (lowered : List (Nat × Nat)) (errs : List CheckErr)
  /-- MERE_PASS_COMPLETE (R91): A pass completes in issue order once its results are written, and sets its SetCell. -/
  | merePassComplete (t : Nat) (b : Nat)
  /-- SPMM (R141): Tarn sparse product: tiles are split between tarn and mere, and the tarn accumulates its share. -/
  | spmm (t : Nat) (b k : Nat) (errs : List CheckErr)
  /-- GATHER (R148): Tarn operation that copies indexed rows. -/
  | gather (t : Nat) (b k : Nat) (errs : List CheckErr)
  /-- SCATTER_ADD (R149): Tarn operation that adds weighted rows into indexed destination rows by atomic accumulation. -/
  | scatterAdd (t : Nat) (b k : Nat) (errs : List CheckErr)
  /-- MERGE (R152): Tarn operation that merges up to 64 sorted keyed streams. -/
  | merge (t : Nat) (b k : Nat) (errs : List CheckErr)
  /-- TILE_PACK (R154): Tarn operation that writes dense rows as tiles, choosing each tile's form. -/
  | tilePack (t : Nat) (b k : Nat) (errs : List CheckErr)
  /-- TILE_UNPACK (R154): Tarn operation that writes tiles as dense rows. -/
  | tileUnpack (t : Nat) (b k : Nat) (errs : List CheckErr)
  /-- TARN_OPERATION_COMPLETE (R139): A tarn or route operation completes and sets its SetCell once its writes are visible. -/
  | tarnOperationComplete (t : Nat) (b : Nat)
  /-- RANK (R161): Route operation that writes a ranked expert choice list for each token. -/
  | rank (t : Nat) (b k : Nat) (errs : List CheckErr)
  /-- PLACE (R162): Route operation that places choices under expert quotas and writes results, lists, tags and counters. -/
  | place (t : Nat) (b k : Nat) (errs : List CheckErr)
  /-- COMBINE (R171): Route operation that sums staged expert results into token rows in rank order. -/
  | combine (t : Nat) (b k : Nat) (errs : List CheckErr)
  /-- RETIRE (R173): Route operation that retires dispatch generations. -/
  | retire (t : Nat) (b k : Nat) (errs : List CheckErr)
  /-- MASK_BUILD (R177): Route operation that builds range tables and span bitmaps from a sequence table. -/
  | maskBuild (t : Nat) (b k : Nat) (errs : List CheckErr)
  /-- MASK_APPLY (R178): Route operation that sets scores outside each row's visible keys to −infinity. -/
  | maskApply (t : Nat) (b k : Nat) (errs : List CheckErr)
  /-- ADD (R73): Vector operation a + b. -/
  | add (t : Nat) (b k : Nat) (errs : List CheckErr)
  /-- MUL (R73): Vector operation a × b. -/
  | mul (t : Nat) (b k : Nat) (errs : List CheckErr)
  /-- FMA (R73): Vector operation a × b + d, fused. -/
  | fma (t : Nat) (b k : Nat) (errs : List CheckErr)
  /-- AXPY (R73): Vector operation s × a + b, fused. -/
  | axpy (t : Nat) (b k : Nat) (errs : List CheckErr)
  /-- SCALE (R73): Vector operation s × a. -/
  | scale (t : Nat) (b k : Nat) (errs : List CheckErr)
  /-- CONVERT (R73): Vector operation that converts a to the store format. -/
  | convert (t : Nat) (b k : Nat) (errs : List CheckErr)
  /-- MAX2 (R73): Vector operation giving the larger of a and b. -/
  | max2 (t : Nat) (b k : Nat) (errs : List CheckErr)
  /-- MIN2 (R73): Vector operation giving the smaller of a and b. -/
  | min2 (t : Nat) (b k : Nat) (errs : List CheckErr)
  /-- DIV (R73): Vector operation a / b, correctly rounded. -/
  | div (t : Nat) (b k : Nat) (errs : List CheckErr)
  /-- SQRT (R73): Vector operation √a, correctly rounded. -/
  | sqrt (t : Nat) (b k : Nat) (errs : List CheckErr)
  /-- RSQRT (R73): Vector operation 1 / √a, correctly rounded. -/
  | rsqrt (t : Nat) (b k : Nat) (errs : List CheckErr)
  /-- SUM (R74): Vector reduction Σa, rounded once. -/
  | sum (t : Nat) (b k : Nat) (errs : List CheckErr)
  /-- SUMSQ (R74): Vector reduction Σa², rounded once. -/
  | sumsq (t : Nat) (b k : Nat) (errs : List CheckErr)
  /-- MAX (R74): Vector reduction giving the largest a. -/
  | max (t : Nat) (b k : Nat) (errs : List CheckErr)
  /-- MIN (R74): Vector reduction giving the smallest a. -/
  | min (t : Nat) (b k : Nat) (errs : List CheckErr)
  /-- ARGMAX (R74): Vector reduction giving the lowest index of the largest a. -/
  | argmax (t : Nat) (b k : Nat) (errs : List CheckErr)
  /-- MEAN_VAR (R75): Vector reduction giving a count, mean and M2 state record. -/
  | meanVar (t : Nat) (b k : Nat) (errs : List CheckErr)
  /-- MEAN_VAR_MERGE (R75): Vector operation that merges pairs of mean and variance state records. -/
  | meanVarMerge (t : Nat) (b k : Nat) (errs : List CheckErr)
  /-- VECTOR_OPERATION_COMPLETE (R76): A vector operation completes and sets its SetCell. -/
  | vectorOperationComplete (t : Nat) (b n : Nat)
  /-- FN (R118): Table operation D = f(x). -/
  | fn (t : Nat) (b k : Nat) (errs : List CheckErr)
  /-- FN_SAVE (R118): Table operation D = f(x) that also saves x as BF16 or as a mask. -/
  | fnSave (t : Nat) (b k : Nat) (errs : List CheckErr)
  /-- DERIV (R118): Table operation D = f′(x). -/
  | deriv (t : Nat) (b k : Nat) (errs : List CheckErr)
  /-- GRAD (R118): Table operation D = dy × f′(x) from the saved input. -/
  | grad (t : Nat) (b k : Nat) (errs : List CheckErr)
  /-- GRAD_MASK (R118): Table operation scaling dy by s1 or s0 according to a mask bit. -/
  | gradMask (t : Nat) (b k : Nat) (errs : List CheckErr)
  /-- DROPOUT (R119): Table operation that drops elements by SM4-derived random values and saves the kept mask. -/
  | dropout (t : Nat) (b k : Nat) (errs : List CheckErr)
  /-- MAXSEL (R118): Table operation that selects the larger of a and b and saves a selection mask. -/
  | maxsel (t : Nat) (b k : Nat) (errs : List CheckErr)
  /-- MAXSEL_GRAD (R118): Table operation that routes dy to one of two outputs by mask. -/
  | maxselGrad (t : Nat) (b k : Nat) (errs : List CheckErr)
  /-- TABLE_OPERATION_COMPLETE (R120): A table operation completes and sets its SetCell. -/
  | tableOperationComplete (t : Nat) (b n : Nat)
  /-- COPY (R187): Move that copies rows between segments. -/
  | copy (t : Nat) (b k : Nat) (lowered : List (Nat × Nat)) (errs : List CheckErr)
  /-- ZERO (R187): Move that writes zero rows. -/
  | zero (t : Nat) (b k : Nat) (lowered : List (Nat × Nat)) (errs : List CheckErr)
  /-- MOVE_COMPLETE (R187): A move completes and sets its SetCell once every write is visible. -/
  | moveComplete (t : Nat) (b : Nat)
  /-- SET (R286): Sync operation that adds Value to a cell's Count. -/
  | syncSetCell (t : Nat) (b k : Nat)
  /-- SET_REMOTE (R289): Sync operation that sends SYNC_SET to a cell of another device or basin. -/
  | setRemote (t : Nat) (b k : Nat)
  /-- ARM (R286): Sync operation that sets a cell's Count to 0 and Target to Value. -/
  | arm (t : Nat) (b k : Nat)
  /-- WAIT (R288): Sync operation that holds its slot until the cell is set. -/
  | wait (t : Nat) (b k : Nat)
  /-- BARRIER (R293): Sync operation that enters a tree barrier on a sync tree. -/
  | barrier (t : Nat) (b k : Nat)
  /-- PAIR (R293): Sync operation that enters a neighbour barrier with one peer. -/
  | pair (t : Nat) (b k : Nat)
  /-- WAIT_STEP (R288): Sync operation that holds its slot until the step counter reaches Step. -/
  | waitStep (t : Nat) (b k : Nat)
  /-- LAYER_MARK (R113): Sync operation that opens a layer region, skipped if it is a frozen weight-gradient region. -/
  | layerMark (t : Nat) (b k : Nat)
  /-- SKIPPED_DESCRIPTOR (R113): A descriptor of a frozen region leaves the head without running, setting its SetCell if enabled. -/
  | skippedDescriptor (t : Nat) (b k : Nat)
  /-- TASK_RUN_END (R345): Position reaches Length, and the stream restarts at Position 0 if runs remain. -/
  | taskRunEnd (t : Nat) (b k : Nat)
  /-- TASK_FINISH (R346): The last run's descriptors have completed; the slot enters State 4 and posts an end record. -/
  | taskFinish (t : Nat) (b k : Nat)
  /-- REDUCE_SCATTER (R267): Collective that sums members' tensors in RB16 or BF16 and gives each its shard and its sum of squares. -/
  | reduceScatter (t : Nat) (b k : Nat) (errs : List CheckErr)
  /-- ALL_GATHER (R279): Collective that gives every member every member's shard. -/
  | allGather (t : Nat) (b k : Nat) (errs : List CheckErr)
  /-- NORM (R275): Collective scalar sum that writes the global norm and clip factor. -/
  | norm (t : Nat) (b k : Nat) (errs : List CheckErr)
  /-- RESHARD (R280): Collective that moves regions between members as a transfer table states. -/
  | reshard (t : Nat) (b k : Nat) (errs : List CheckErr)
  /-- DISPATCH (R281): Collective that sends placed token rows to the members hosting their experts. -/
  | dispatch (t : Nat) (b k : Nat) (errs : List CheckErr)
  /-- RETURN (R282): Collective that sends expert results back to the tokens' members. -/
  | collReturn (t : Nat) (b k : Nat) (errs : List CheckErr)
  /-- JOIN (R263): A member's join reaches the root, which may then start the instance. -/
  | join (t : Nat)
  /-- START (R263): A START message tells a joined member who takes part in the instance. -/
  | collStart (t : Nat)
  /-- EXCLUDED (R277): An EXCLUDED message reaches a late member or an adopter, which applies the late policy or forwards the shard. -/
  | excluded (t : Nat) (joined late adopter : Nat)
  /-- DONE (R262): A member's DONE message reaches the root. -/
  | collDone (t : Nat)
  /-- END (R262): An END message makes a member commit its history, write its completion record and set its SetCell. -/
  | collEnd (t : Nat)
  /-- BREAK (R265): A BREAK message breaks the instance; the member completes BROKEN. -/
  | collBreak (t : Nat)
  /-- WEIR_CLOSE (R263): A group's weir deadline expires at the root. -/
  | weirClose (t : Nat) (p gid seq : Nat)
  /-- RS_BLOCKS (R269): Reduce-scatter blocks arrive, are added by the ring adder and are forwarded or written. -/
  | rsBlocks (t : Nat)
  /-- SCALE_ECHO (R272): A member receives per-block exponent bytes for the pre-pass or for its history. -/
  | scaleEcho (t : Nat)
  /-- NORM_VALUE (R275): A member receives S and writes its norm record. -/
  | normValue (t : Nat)
  /-- SHARD_DATA (R279): A member receives gathered, resharded or orphan bytes, or an orphan answer. -/
  | shardData (t : Nat)
  /-- DISPATCH_ROW (R281): A host member receives a dispatched token row and its tag. -/
  | dispatchRow (t : Nat)
  /-- RETURN_ROW (R282): A returning expert row is added, staged or discarded by its generation. -/
  | returnRow (t : Nat)
  /-- SYNC_SET (R289): A remote set arrives and adds Value to a cell. -/
  | syncSet (t : Nat)
  /-- ARRIVE (R293): A child's barrier arrival reaches its parent's sync unit. -/
  | arrive (t : Nat)
  /-- RELEASE (R293): A barrier release arrives, is forwarded to the children and sets the Cell. -/
  | release (t : Nat)
  /-- PAIR_ARRIVE (R293): A pair arrival from the peer reaches the device. -/
  | pairArrive (t : Nat)
  /-- STILL (R298): A tree STILL message arrives, is forwarded to the children and counts as a pulse. -/
  | still (t : Nat)
  /-- STILL_SYNC_IN_PULSE (R442): A pulse on STILL_SYNC_IN is recorded and may start a still. -/
  | stillSyncInPulse (t : Nat)
  /-- PLANNED_STILL (R297): The planned time of a still with its pulse source off arrives, and the still starts. -/
  | plannedStill (t : Nat) (p : Nat)
  /-- STILL_WINDOW_END (R298): A pulse window closes without a pulse; the still starts and STILL_PULSE_MISSING advances. -/
  | stillWindowEnd (t : Nat) (p : Nat)
  /-- STILL_RESUME (R299): The issued PLACE operations complete and the still runs stages 3 to 8. -/
  | stillResume (t : Nat) (p : Nat)
  /-- DATA_FRAME (R234): A data frame is received, checked, accepted or discarded, and its credit taken up. -/
  | dataFrame (t : Nat) (sp : Nat) (raw : Bytes) (fec : FecOutcome)
  /-- DATA_FRAME_NAK (R234): A frame carrying a NAK makes the sender replay from the named frame. -/
  | dataFrameNak (t : Nat) (sp : Nat) (raw : Bytes) (fec : FecOutcome)
  /-- CONTROL_FRAME (R232): A control frame with device times, lane health and meter state is received. -/
  | controlFrame (t : Nat) (sp : Nat) (raw : Bytes) (fec : FecOutcome)
  /-- IDLE_FRAME (R231): An idle frame is received. -/
  | idleFrame (t : Nat) (sp : Nat) (raw : Bytes) (fec : FecOutcome)
  /-- FRAME_SEND (R232): A sub-port fills and sends its next frame from the stream chosen by arbitration. -/
  | frameSend (t : Nat) (sp : Nat)
  /-- CONTROL_FRAME_SEND (R232): Every 256th frame slot of a sub-port sends a control frame. -/
  | controlFrameSend (t : Nat) (sp : Nat)
  /-- MESSAGE_FORWARD (R237): A message header reaches the router, which delivers it locally or forwards it by the route tables. -/
  | messageForward (t : Nat) (src : MsgSource)
  /-- ROUTE_WAIT_EXPIRY (R243): A message waits 1 ms with no eligible candidate and is discarded as NO_ROUTE. -/
  | routeWaitExpiry (t : Nat)
  /-- UNDEFINED_TYPE_MESSAGE (R250): A message of an undefined Type is discarded and its credit is returned. -/
  | undefinedTypeMessage (t : Nat)
  /-- RETURN_MESSAGE (R247): A return message acknowledges peer sequence numbers and returns credit; acknowledged descriptors complete. -/
  | returnMessage (t : Nat)
  /-- RETURN_SEND (R247): A context sends a return message to its peer, at most one per 250 ns. -/
  | returnSend (t : Nat) (ctx : Nat)
  /-- PROBE (R250): A PROBE arrives and is answered at once with a return message. -/
  | probe (t : Nat)
  /-- RESEND_TIMEOUT (R249): A message's resend time expires; it is resent and a PROBE is sent. -/
  | resendTimeout (t : Nat) (ctx cls : Nat)
  /-- PROBE_TIMEOUT (R249): A PROBE goes unanswered for 100 µs; the fourth in a row makes the context LOST. -/
  | probeTimeout (t : Nat) (ctx : Nat)
  /-- LOSS_OF_LOCK (R255): A lane of a sub-port loses signal lock and the sub-port retrains. -/
  | lossOfLock (t : Nat) (sp : Nat)
  /-- TRAINING_COMPLETE (R255): A sub-port training attempt succeeds and the sub-port becomes UP, possibly degraded. -/
  | trainingComplete (t : Nat) (sp : Nat) (failedLanes : List Nat)
  /-- TRAINING_ATTEMPT_FAILED (R255): A training attempt fails or overruns 100 ms; after three in a row the sub-port is FAILED. -/
  | trainingAttemptFailed (t : Nat) (sp : Nat)
  /-- CXL_LINK_UP (R208): A CXL link partner is detected, enumerated and mapped, and the port becomes PRESENT. -/
  | cxlLinkUp (t : Nat) (port capacity gts lanes : Nat) (prsnt : Bool)
  /-- CXL_LINK_DOWN (R213): An ONLINE or DETACHING CXL port's link goes down and its accesses wait. -/
  | cxlLinkDown (t : Nat) (port : Nat)
  /-- CXL_LINK_LOSS (R213): A CXL link stays down for 10 ms; the port enters LOST and raises CXL_LOST. -/
  | cxlLinkLoss (t : Nat) (port : Nat)
  /-- CXL_UNPLUG (R212): A device is unplugged from a CXL port, which becomes ABSENT. -/
  | cxlUnplug (t : Nat) (port : Nat)
  /-- CXL_READ_COMPLETION (R221): A CXL.mem read completes, delivered poisoned if the device set poison. -/
  | cxlReadCompletion (t : Nat) (port addr : Nat) (poison : Bool)
  /-- IMAGE_BEGIN (R368): The holder of a capture clears the target slot's commit word and acknowledges. -/
  | imageBegin (t : Nat)
  /-- IMAGE_PAGE (R369): The holder writes 4 KiB of a captured image into its region. -/
  | imagePage (t : Nat)
  /-- IMAGE_COMMIT (R368): The holder writes the image record and commit word and posts IMAGE_HELD. -/
  | imageCommit (t : Nat)
  /-- CAPTURE_COMMIT (R368): Every page of a capture is acknowledged; the source sends IMAGE_COMMIT and posts IMAGE_COMMITTED. -/
  | captureCommit (t : Nat) (p : Nat) (checkpoint : Bool)
  /-- FEED_QUERY (R380): A feed question is answered with this module's FEED_ID, or the answer is taken. -/
  | feedQuery (t : Nat)
  /-- SAG (R381): A co-fed device's SAG counts as a supply-sag warning in the sounding. -/
  | sag (t : Nat)
  /-- RESTORE_ASK (R388): A holder is asked for a committed image and sends its pages. -/
  | restoreAsk (t : Nat)
  /-- RESTORE_PAGE (R388): A restored page is checked against its digest and written, and the restore completes after the last one. -/
  | restorePage (t : Nat)
  /-- WEIGHT_DATA (R404): A sealed weight unit of an open import is opened and written, and the import completes after the last one. -/
  | weightData (t : Nat)
  /-- SOUNDING_UPDATE (R377): Every 1 ms the sounding is recomputed from its five inputs. -/
  | soundingUpdate (t : Nat)
  /-- MONITOR_WINDOW (R39): A 1 ms monitor window closes; rates are recorded and monitors that disagree make the device FAULT. -/
  | monitorWindow (t : Nat) (readings : List MonitorReading) (voltageOk : Bool)
  /-- P3_TRIM (R446): Every 1 ms at P3 the wellhead moves the die voltage target by up to 5 mV. -/
  | p3Trim (t : Nat) (millivolts : Nat)
  /-- COOLANT_INLET_HIGH (R35): The coolant inlet rises above 30 °C at P3, and the device moves to P2. -/
  | coolantInletHigh (t : Nat) (tenths : Nat)
  /-- JUNCTION_OVER_LIMIT (R35): A junction rises above 105 °C, and the device steps down one point or leaves the envelope. -/
  | junctionOverLimit (t : Nat) (b celsius : Nat)
  /-- THERMAL_TRIP (R35): A junction reaches 115 °C; the datapath supply is cut and the device enters FAULT. -/
  | thermalTrip (t : Nat) (b celsius : Nat)
  /-- REGULATOR_ALARM (R35): The die voltage stays outside ±10 mV for 10 µs outside a ramp. -/
  | regulatorAlarm (t : Nat)
  /-- SUPPLY_WARNING (R35): The input supply leaves 48 to 54 V; SUPPLY is raised and SAG is sent to co-fed devices. -/
  | supplyWarning (t : Nat) (centivolts : Nat)
  /-- COUNTER_POLL (R303): The wellhead polls each statistics counter at least every 60 s and extends it to 64 bits. -/
  | counterPoll (t : Nat) (scope idx pos : Nat)
  /-- PATROL_SCRUB (R203): Patrol scrub reads one stack unit and rewrites it corrected or poisoned. -/
  | patrolScrub (t : Nat) (stack symbols position : Nat)
  /-- STACK_RECALIBRATION (R204): Every 128 ms a stack is recalibrated in line for at most 500 ns. -/
  | stackRecalibration (t : Nat) (stack : Nat) (restored : Bool)
  /-- BASIN_FAULT (R323): A basin fault retires the basin and abandons its issued work. -/
  | basinFault (t : Nat) (b : Nat)
  /-- OSCILLATOR_LOSS (R43): Loss of the reference oscillator makes the device enter FAULT. -/
  | oscillatorLoss (t : Nat)
  /-- POWER_ON (R412): The input rises above the lockout threshold, and the rails and the oscillator come up. -/
  | powerOn (t : Nat)
  /-- PERST_L_RELEASE (R412): PERST_L is released, and boot starts at t0. -/
  | perstLRelease (t : Nat) (feed : Nat) (hold : Bool)
  /-- PERST_L_ASSERT (R414): PERST_L held low for 100 µs returns the device to BOOT and loses all volatile state. -/
  | perstLAssert (t : Nat)
  /-- BOOT_COMPLETE (R413): Boot phases end, and the device enters READY or HELD, or FAULT on failure. -/
  | bootComplete (t : Nat) (boot : BootResult)
  /-- UNDERVOLTAGE_LOCKOUT (R434): The input stays below 42 V for 1 ms and the device goes to OFF. -/
  | undervoltageLockout (t : Nat)
  /-- OVERVOLTAGE_CUT (R434): The input stays above 58 V for 10 µs; all rails go off and the device goes to OFF. -/
  | overvoltageCut (t : Nat)
  /-- POWER_OFF (R441): Input power is removed and the device goes to OFF. -/
  | powerOff (t : Nat)
  /-- RAIL_OUT_OF_REGULATION (R441): A rail leaves regulation and PWR_GOOD is pulled low. -/
  | railOutOfRegulation (t : Nat)
  /-- SHARED_BLOCK_FAULT (R20): A fault in a shared block (one Folham port, one CXL port, the active wellhead pair, the router core, host endpoint, module store controller or security block) removes the port from use or puts the device in FAULT. -/
  | sharedBlockFault (t : Nat) (block : SharedBlock)
  /-- CXL_LINK_RETRAIN_RECOVERY (R213): A CXL link that went down recovers within 10 ms; it is not a loss and the accesses that waited for it proceed. -/
  | cxlLinkRetrainRecovery (t : Nat) (port : Nat)
  /-- STACK_WIPE_COMPLETE (R407): The 52.4 ms zero wipe of a basin's stack windows reaches its end; held accesses are all released and patrol scrub resumes. -/
  | stackWipeComplete (t : Nat) (b : Nat)
  /-- TEST_ACCESS_PORT_CLOCK (R443): A DBG_TCK edge advances the IEEE 1149.1 test access port, which while locked offers only BYPASS and drives DBG_TDO only in Shift-DR. -/
  | testAccessPortClock (t : Nat) (tms tdi : Bool)
  /-- CONFIGURATION_REQUEST (R413): A PCIe configuration request reaches the host endpoint and, before phase 7 of power-up, receives a Configuration Request Retry Status completion. -/
  | configurationRequest (t : Nat) (fn reg : Nat) (write : Option Nat)
  deriving DecidableEq, Repr

/-- The device time at which the command happens. -/
def Instr.time : Instr → Nat
  | .doorbell t _ _ _ => t
  | .overrunClear t _ _ _ => t
  | .eventHeadWrite t _ _ _ => t
  | .alertRegisterWrite t _ _ _ => t
  | .registerWrite t _ _ _ => t
  | .unsupportedAccess t _ _ _ _ => t
  | .undefinedOpcode t _ _ => t
  | .deviceQuery t _ _ => t
  | .holdRelease t _ _ => t
  | .operatingPointSet t _ _ => t
  | .pointSettled t => t
  | .partitionOpen t _ _ => t
  | .partitionClose t _ _ => t
  | .partitionCloseComplete t _ => t
  | .poolModeSet t _ _ => t
  | .poolModeChangeComplete t _ => t
  | .segmentSet t _ _ _ => t
  | .cxlPortAttach t _ _ => t
  | .cxlPortDetach t _ _ => t
  | .cxlDetachComplete t _ => t
  | .programLoad t _ _ _ => t
  | .programLoadComplete t _ _ => t
  | .tableLoad t _ _ _ => t
  | .tableLoadComplete t _ => t
  | .taskStart t _ _ => t
  | .taskStop t _ _ => t
  | .clearingComplete t _ _ => t
  | .taskQuery t _ _ => t
  | .stillPlan t _ _ => t
  | .stillWindowSet t _ _ => t
  | .routeTableLoad t _ _ _ => t
  | .peerTableLoad t _ _ _ => t
  | .groupDefine t _ _ _ => t
  | .weirSet t _ _ => t
  | .syncTreeDefine t _ _ => t
  | .generationCancel t _ _ => t
  | .portModeSet t _ _ => t
  | .portRetrain t _ _ => t
  | .reflectPair t _ _ => t
  | .partnerConfirm t _ _ => t
  | .reflectIntervalSet t _ _ => t
  | .soundingThresholdSet t _ _ => t
  | .failureNotice t _ _ => t
  | .restoreBegin t _ _ _ => t
  | .replayVerify t _ _ => t
  | .attestReport t _ _ => t
  | .attestReportComplete t _ => t
  | .keyAccept t _ _ _ => t
  | .weightsImport t _ _ => t
  | .debugUnlock t _ _ _ => t
  | .telemetryRead t _ _ _ => t
  | .counterRead t _ _ _ => t
  | .basinDrain t _ _ => t
  | .drainComplete t _ => t
  | .drainCollectiveTimeout t _ => t
  | .basinService t _ _ => t
  | .basinReturn t _ _ => t
  | .basinRetire t _ _ => t
  | .calibrate t _ _ => t
  | .calibrationComplete t _ _ => t
  | .firmwareStage t _ _ _ => t
  | .firmwareStageComplete t => t
  | .firmwareSwitch t _ _ => t
  | .handoverStart t => t
  | .handoverDeadline t => t
  | .handoverTimeout t => t
  | .stateRead t _ => t
  | .sensorRead t _ => t
  | .alertRead t _ => t
  | .stopArm t _ => t
  | .stopArmExpiry t => t
  | .stop t _ => t
  | .setEndpointId t _ => t
  | .getEndpointId t => t
  | .getMctpVersionSupport t => t
  | .getMessageTypeSupport t => t
  | .setdasa t _ => t
  | .entdaa t _ => t
  | .functionLevelReset t _ => t
  | .unknownClassDescriptor t _ _ => t
  | .merePassStage t _ _ _ _ => t
  | .merePassIssue t _ _ _ _ => t
  | .merePassComplete t _ => t
  | .spmm t _ _ _ => t
  | .gather t _ _ _ => t
  | .scatterAdd t _ _ _ => t
  | .merge t _ _ _ => t
  | .tilePack t _ _ _ => t
  | .tileUnpack t _ _ _ => t
  | .tarnOperationComplete t _ => t
  | .rank t _ _ _ => t
  | .place t _ _ _ => t
  | .combine t _ _ _ => t
  | .retire t _ _ _ => t
  | .maskBuild t _ _ _ => t
  | .maskApply t _ _ _ => t
  | .add t _ _ _ => t
  | .mul t _ _ _ => t
  | .fma t _ _ _ => t
  | .axpy t _ _ _ => t
  | .scale t _ _ _ => t
  | .convert t _ _ _ => t
  | .max2 t _ _ _ => t
  | .min2 t _ _ _ => t
  | .div t _ _ _ => t
  | .sqrt t _ _ _ => t
  | .rsqrt t _ _ _ => t
  | .sum t _ _ _ => t
  | .sumsq t _ _ _ => t
  | .max t _ _ _ => t
  | .min t _ _ _ => t
  | .argmax t _ _ _ => t
  | .meanVar t _ _ _ => t
  | .meanVarMerge t _ _ _ => t
  | .vectorOperationComplete t _ _ => t
  | .fn t _ _ _ => t
  | .fnSave t _ _ _ => t
  | .deriv t _ _ _ => t
  | .grad t _ _ _ => t
  | .gradMask t _ _ _ => t
  | .dropout t _ _ _ => t
  | .maxsel t _ _ _ => t
  | .maxselGrad t _ _ _ => t
  | .tableOperationComplete t _ _ => t
  | .copy t _ _ _ _ => t
  | .zero t _ _ _ _ => t
  | .moveComplete t _ => t
  | .syncSetCell t _ _ => t
  | .setRemote t _ _ => t
  | .arm t _ _ => t
  | .wait t _ _ => t
  | .barrier t _ _ => t
  | .pair t _ _ => t
  | .waitStep t _ _ => t
  | .layerMark t _ _ => t
  | .skippedDescriptor t _ _ => t
  | .taskRunEnd t _ _ => t
  | .taskFinish t _ _ => t
  | .reduceScatter t _ _ _ => t
  | .allGather t _ _ _ => t
  | .norm t _ _ _ => t
  | .reshard t _ _ _ => t
  | .dispatch t _ _ _ => t
  | .collReturn t _ _ _ => t
  | .join t => t
  | .collStart t => t
  | .excluded t _ _ _ => t
  | .collDone t => t
  | .collEnd t => t
  | .collBreak t => t
  | .weirClose t _ _ _ => t
  | .rsBlocks t => t
  | .scaleEcho t => t
  | .normValue t => t
  | .shardData t => t
  | .dispatchRow t => t
  | .returnRow t => t
  | .syncSet t => t
  | .arrive t => t
  | .release t => t
  | .pairArrive t => t
  | .still t => t
  | .stillSyncInPulse t => t
  | .plannedStill t _ => t
  | .stillWindowEnd t _ => t
  | .stillResume t _ => t
  | .dataFrame t _ _ _ => t
  | .dataFrameNak t _ _ _ => t
  | .controlFrame t _ _ _ => t
  | .idleFrame t _ _ _ => t
  | .frameSend t _ => t
  | .controlFrameSend t _ => t
  | .messageForward t _ => t
  | .routeWaitExpiry t => t
  | .undefinedTypeMessage t => t
  | .returnMessage t => t
  | .returnSend t _ => t
  | .probe t => t
  | .resendTimeout t _ _ => t
  | .probeTimeout t _ => t
  | .lossOfLock t _ => t
  | .trainingComplete t _ _ => t
  | .trainingAttemptFailed t _ => t
  | .cxlLinkUp t _ _ _ _ _ => t
  | .cxlLinkDown t _ => t
  | .cxlLinkLoss t _ => t
  | .cxlUnplug t _ => t
  | .cxlReadCompletion t _ _ _ => t
  | .imageBegin t => t
  | .imagePage t => t
  | .imageCommit t => t
  | .captureCommit t _ _ => t
  | .feedQuery t => t
  | .sag t => t
  | .restoreAsk t => t
  | .restorePage t => t
  | .weightData t => t
  | .soundingUpdate t => t
  | .monitorWindow t _ _ => t
  | .p3Trim t _ => t
  | .coolantInletHigh t _ => t
  | .junctionOverLimit t _ _ => t
  | .thermalTrip t _ _ => t
  | .regulatorAlarm t => t
  | .supplyWarning t _ => t
  | .counterPoll t _ _ _ => t
  | .patrolScrub t _ _ _ => t
  | .stackRecalibration t _ _ => t
  | .basinFault t _ => t
  | .oscillatorLoss t => t
  | .powerOn t => t
  | .perstLRelease t _ _ => t
  | .perstLAssert t => t
  | .bootComplete t _ => t
  | .undervoltageLockout t => t
  | .overvoltageCut t => t
  | .powerOff t => t
  | .railOutOfRegulation t => t
  | .sharedBlockFault t _ => t
  | .cxlLinkRetrainRecovery t _ => t
  | .stackWipeComplete t _ => t
  | .testAccessPortClock t _ _ => t
  | .configurationRequest t _ _ _ => t

end Sys2Proof
end

