-- ==== Sys2Proof/Decode.lean ====
section
/-! DEFINITION. Reading a command from the bits of the opcode table. No row of spec/opcode_table.json gives bits
(every "fields" list is empty): the commands of this block are accesses, messages, pulses and events, and what the
specification encodes in bytes (mailbox slots, descriptors, messages, frames) is read where State holds it. -/

namespace Sys2Proof

/-- The command that a word of `nbits` bits spells by the table's bits: none, since no row gives bits. -/
def decodeTableWord (_nbits _w : Nat) : Option Instr := none

end Sys2Proof
end

