-- ==== Sys2Proof/Machine/Num.lean ====
section
/-! DEFINITION. Number formats and exact arithmetic (spec 03): format codes, element encodings, decoding, rounding,
conversion on store, MX blocks and RB16 values. A decoded value is exact: a NaN, an infinity, or a signed dyadic
number. Every operation is formed exactly and rounded once, as R61, R73 and R118 say. -/

namespace Sys2Proof.Machine

/-! ### Byte strings -/

/-- The little-endian number of a byte string (R10). -/
def leNat : Bytes → Nat
  | [] => 0
  | b :: bs => b.toNat + 256 * leNat bs

/-- `n` bytes of a number, little-endian (R10). -/
def toLE : Nat → Nat → Bytes
  | 0, _ => []
  | n + 1, v => BitVec.ofNat 8 v :: toLE n (v / 256)

/-- `n` zero bytes. -/
def zeros (n : Nat) : Bytes := List.replicate n 0

/-- Bytes `off` to `off + n - 1` of a structure; bytes beyond its end read 0. -/
def sliceB (bs : Bytes) (off n : Nat) : Bytes :=
  let t := (bs.drop off).take n
  t ++ zeros (n - t.length)

/-- The little-endian field of `n` bytes at `off`. -/
def fieldB (bs : Bytes) (off n : Nat) : Nat := leNat ((bs.drop off).take n)

/-- Bits `hi` to `lo` of a number. -/
def bits (v hi lo : Nat) : Nat := (v >>> lo) % 2 ^ (hi + 1 - lo)

/-- Bit `i` of a number. -/
def bit (v i : Nat) : Bool := v.testBit i

/-- Every byte of the list is 0. -/
def allZero (bs : Bytes) : Bool := bs.all (· == 0)

/-- The ceiling of a quotient. -/
def ceilDiv (a b : Nat) : Nat := (a + b - 1) / b

/-- The smallest multiple of `b` not below `a`. -/
def alignUp (a b : Nat) : Nat := ceilDiv a b * b

/-- The first position at which a byte is not 0. -/
def firstNonZero : Bytes → Option Nat
  | [] => none
  | b :: bs => if b == 0 then (firstNonZero bs).map (· + 1) else some 0

/-! ### Format codes (Table 3.1) -/

/-- The formats of Table 3.1 (R51). -/
inductive Fmt where
  | fp32 | bf16 | fp16 | e4m3 | e5m2
  | mxE4m3 | mxE5m2 | mxE2m3 | mxE3m2 | mxE2m1 | mxInt8
  | int8 | int4 | int32 | rb16 | mask1
  deriving DecidableEq, Repr

/-- The format named by a code of Table 3.1, or none for an illegal code (R51). -/
def fmtOf : Nat → Option Fmt
  | 0x00 => some .fp32 | 0x01 => some .bf16 | 0x02 => some .fp16 | 0x03 => some .e4m3
  | 0x04 => some .e5m2 | 0x05 => some .mxE4m3 | 0x06 => some .mxE5m2 | 0x07 => some .mxE2m3
  | 0x08 => some .mxE3m2 | 0x09 => some .mxE2m1 | 0x0A => some .mxInt8 | 0x0B => some .int8
  | 0x0C => some .int4 | 0x0D => some .int32 | 0x0E => some .rb16 | 0x0F => some .mask1
  | _ => none

/-- The code of a format (Table 3.1). -/
def Fmt.code : Fmt → Nat
  | .fp32 => 0 | .bf16 => 1 | .fp16 => 2 | .e4m3 => 3 | .e5m2 => 4 | .mxE4m3 => 5 | .mxE5m2 => 6 | .mxE2m3 => 7
  | .mxE3m2 => 8 | .mxE2m1 => 9 | .mxInt8 => 0x0A | .int8 => 0x0B | .int4 => 0x0C | .int32 => 0x0D | .rb16 => 0x0E
  | .mask1 => 0x0F

/-- Bits per element (Table 3.1); an RB16 block has no element width of its own. -/
def Fmt.width : Fmt → Nat
  | .fp32 | .int32 => 32
  | .bf16 | .fp16 => 16
  | .e4m3 | .e5m2 | .mxE4m3 | .mxE5m2 | .mxInt8 | .int8 => 8
  | .mxE2m3 | .mxE3m2 => 6
  | .mxE2m1 | .int4 => 4
  | .rb16 => 16
  | .mask1 => 1

/-- The microscaling formats (R54). -/
def Fmt.isMX : Fmt → Bool
  | .mxE4m3 | .mxE5m2 | .mxE2m3 | .mxE3m2 | .mxE2m1 | .mxInt8 => true
  | _ => false

/-- The plain integer formats (R53). -/
def Fmt.isInt : Fmt → Bool
  | .int8 | .int4 | .int32 => true
  | _ => false

/-- Bytes of `n` packed elements (R53). -/
def Fmt.bytesFor (f : Fmt) (n : Nat) : Nat := ceilDiv (n * f.width) 8

/-- Split three bytes into `24 / w` codes, lowest bits first. -/
def splitWord (w : Nat) : Nat → Nat → List Nat
  | 0, _ => []
  | n + 1, v => v % 2 ^ w :: splitWord w n (v >>> w)

/-- Cut a byte string into numbers of `k` bytes; `fuel` bounds their count. -/
def chunksLE (k : Nat) : Nat → Bytes → List Nat
  | 0, _ => []
  | fuel + 1, bs => leNat (bs.take k) :: chunksLE k fuel (bs.drop k)

/-- The first `n` element codes of `w` bits packed from bit 0 upward (R53). -/
def unpackCodes (w n : Nat) (bs : Bytes) : List Nat :=
  if w % 8 = 0 then chunksLE (w / 8) n bs
  else ((chunksLE 3 (ceilDiv (n * w) 24) bs).flatMap (splitWord w (24 / w))).take n

/-- Join codes of `w` bits into one number, lowest first. -/
def joinWord (w : Nat) : List Nat → Nat
  | [] => 0
  | c :: cs => c % 2 ^ w + (joinWord w cs <<< w)

/-- Pack sub-byte codes three bytes at a time. -/
def packSub (w : Nat) : Nat → List Nat → Bytes
  | 0, _ => []
  | fuel + 1, cs => toLE 3 (joinWord w (cs.take (24 / w))) ++ packSub w fuel (cs.drop (24 / w))

/-- Pack element codes of `w` bits from bit 0 upward (R53); the last byte is filled with 0 bits. -/
def packCodes (w : Nat) (cs : List Nat) : Bytes :=
  if w % 8 = 0 then cs.flatMap (toLE (w / 8))
  else (packSub w (ceilDiv (cs.length * w) 24) cs).take (ceilDiv (cs.length * w) 8)

/-! ### Exact values -/

/-- An exact value: `fin neg m e` is (−1)^neg · m · 2^e, so that `m = 0` is a signed zero. -/
inductive Val where
  | nan
  | inf (neg : Bool)
  | fin (neg : Bool) (m : Nat) (e : Int)
  deriving DecidableEq, Repr

namespace Val

/-- Positive zero. -/
def zero : Val := .fin false 0 0

/-- One. -/
def one : Val := .fin false 1 0

/-- The value of an integer. -/
def ofInt (i : Int) : Val := .fin (i < 0) i.natAbs 0

/-- The opposite of a value. -/
def neg : Val → Val
  | .nan => .nan
  | .inf s => .inf (!s)
  | .fin s m e => .fin (!s) m e

/-- The magnitude. -/
def abs : Val → Val
  | .nan => .nan
  | .inf _ => .inf false
  | .fin _ m e => .fin false m e

/-- A NaN. -/
def isNaN : Val → Bool
  | .nan => true
  | _ => false

/-- A NaN or an infinity. -/
def isSpecial : Val → Bool
  | .fin .. => false
  | _ => true

/-- A zero of either sign. -/
def isZero : Val → Bool
  | .fin _ 0 _ => true
  | _ => false

/-- The exact product; infinity × 0 is NaN (R62). -/
def mul : Val → Val → Val
  | .nan, _ => .nan
  | _, .nan => .nan
  | .inf s, .inf t => .inf (s != t)
  | .inf s, .fin t m _ => if m = 0 then .nan else .inf (s != t)
  | .fin s m _, .inf t => if m = 0 then .nan else .inf (s != t)
  | .fin s m e, .fin t n f => .fin (s != t) (m * n) (e + f)

/-- The signed mantissa of a finite value at exponent `q ≤ e`. -/
def mantAt (q : Int) : Val → Int
  | .fin s m e => (if s then -1 else 1) * ((m <<< (e - q).toNat : Nat) : Int)
  | _ => 0

/-- The smallest exponent among finite addends. -/
def minExp : List Val → Int → Int
  | [], q => q
  | .fin _ m e :: vs, q => minExp vs (if m = 0 then q else min e q)
  | _ :: vs, q => minExp vs q

/-- The sum of the mantissas at exponent `q`. -/
def sumMants (q : Int) : List Val → Int → Int
  | [], acc => acc
  | v :: vs, acc => sumMants q vs (acc + v.mantAt q)

/-- A negative zero. -/
def isNegZero : Val → Bool
  | .fin true 0 _ => true
  | _ => false

/-- A positive infinity, or a negative one. -/
def isInf (sign : Bool) : Val → Bool
  | .inf s => s == sign
  | _ => false

/-- The exact sum of a non-empty list of addends under R61 and R62: NaN and opposite infinities give NaN, a total of
exactly 0 is +0 unless every addend is −0. -/
def sum (vs : List Val) : Val :=
  if vs.any isNaN then .nan
  else
    let p := vs.any (isInf false)
    let n := vs.any (isInf true)
    if p && n then .nan
    else if p then .inf false
    else if n then .inf true
    else
      let q := minExp vs 0
      let t := sumMants q vs 0
      if t = 0 then .fin (!vs.isEmpty && vs.all isNegZero) 0 0
      else .fin (t < 0) t.natAbs q

/-- The exact sum of two values. -/
def add (a b : Val) : Val := sum [a, b]

/-- Order of finite and infinite values: `a < b`, zeros of both signs equal, false with a NaN. -/
def lt : Val → Val → Bool
  | .nan, _ => false
  | _, .nan => false
  | .inf s, .inf t => s && !t
  | .inf s, .fin .. => s
  | .fin .., .inf t => !t
  | a@(.fin _ _ e), b@(.fin _ _ f) => let q := min e f; a.mantAt q < b.mantAt q

/-- Equal as numbers; false with a NaN. -/
def numEq (a b : Val) : Bool := !a.isNaN && !b.isNaN && !lt a b && !lt b a

/-- The sign bit of a value (NaN: positive). -/
def signBit : Val → Bool
  | .nan => false
  | .inf s => s
  | .fin s _ _ => s

end Val

/-! ### Rounding -/

/-- Round `m · 2^e` to a multiple of `2^q`, to nearest, ties to even: the multiple. -/
def rneAt (m : Nat) (e q : Int) : Nat :=
  if q ≤ e then m <<< (e - q).toNat
  else
    let sh := (q - e).toNat
    let lo := m >>> sh
    let rem := m - (lo <<< sh)
    let half := 1 <<< (sh - 1)
    if rem > half || (rem == half && lo % 2 == 1) then lo + 1 else lo

/-- Round `m · 2^e` to a multiple of `2^q` stochastically with the random value `r` (R70). -/
def stochAt (r m : Nat) (e q : Int) : Nat :=
  if q ≤ e then m <<< (e - q).toNat
  else
    let sh := (q - e).toNat
    let lo := m >>> sh
    let t := ((m - (lo <<< sh)) <<< 16) >>> sh
    if t + r ≥ 65536 then lo + 1 else lo

/-- Rounding modes of the store control word (Table 3.5): nearest even, or stochastic with an element's 16 bits. -/
inductive Rounding where
  | nearest
  | stochastic (r : Nat)
  deriving DecidableEq, Repr

/-- Round to a multiple of `2^q` under a mode. -/
def roundAt (mode : Rounding) (m : Nat) (e q : Int) : Nat :=
  match mode with
  | .nearest => rneAt m e q
  | .stochastic r => stochAt r m e q

/-- Parameters of a floating-point element (Table 3.2). -/
structure FloatParams where
  expBits : Nat
  manBits : Nat
  bias : Int
  /-- Largest finite value: mantissa and exponent. -/
  maxM : Nat
  maxE : Int

/-- The parameters of Table 3.2; MX formats have those of their elements. -/
def Fmt.params : Fmt → Option FloatParams
  | .fp32 => some ⟨8, 23, 127, 2 ^ 24 - 1, 104⟩
  | .bf16 => some ⟨8, 7, 127, 2 ^ 8 - 1, 120⟩
  | .fp16 => some ⟨5, 10, 15, 2 ^ 11 - 1, 5⟩
  | .e4m3 | .mxE4m3 => some ⟨4, 3, 7, 14, 5⟩
  | .e5m2 | .mxE5m2 => some ⟨5, 2, 15, 7, 13⟩
  | .mxE2m3 => some ⟨2, 3, 1, 15, -1⟩
  | .mxE3m2 => some ⟨3, 2, 3, 7, 2⟩
  | .mxE2m1 => some ⟨2, 1, 1, 3, 1⟩
  | _ => none

/-- The quantum at which a magnitude is rounded in a format: the unit of the last place of its binade, not below the
smallest subnormal. -/
def FloatParams.quantum (p : FloatParams) (m : Nat) (e : Int) : Int :=
  max ((m.log2 : Int) + e - p.manBits) (1 - p.bias - p.manBits)

/-- A magnitude is beyond the largest finite value of the format. -/
def FloatParams.exceeds (p : FloatParams) (m : Nat) (e : Int) : Bool :=
  let q := min e p.maxE
  m <<< (e - q).toNat > p.maxM <<< (p.maxE - q).toNat

/-- The code of a magnitude that the format represents exactly. -/
def FloatParams.encode (p : FloatParams) (neg : Bool) (m : Nat) (e : Int) : Nat :=
  let s := if neg then 1 <<< (p.expBits + p.manBits) else 0
  if m = 0 then s
  else
    let top := (m.log2 : Int) + e
    if top < 1 - p.bias then s + rneAt m e (1 - p.bias - p.manBits)
    else s + ((top + p.bias).toNat <<< p.manBits) + (rneAt m e (top - p.manBits) - (1 <<< p.manBits))

/-- The exponent field of all ones, in place. -/
def FloatParams.expMask (p : FloatParams) : Nat := (2 ^ p.expBits - 1) <<< p.manBits

/-- Has infinities (Table 3.2). -/
def Fmt.hasInf : Fmt → Bool
  | .fp32 | .bf16 | .fp16 | .e5m2 => true
  | _ => false

/-- The canonical NaN of a format (Table 3.2). -/
def Fmt.canonNaN : Fmt → Nat
  | .fp32 => 0x7FC00000
  | .bf16 => 0x7FC0
  | .fp16 => 0x7E00
  | .e4m3 => 0x7F
  | .e5m2 => 0x7E
  | _ => 0

/-- A code of `n` bits as a two's complement integer (R53). -/
def signed (n v : Nat) : Int := if v % 2 ^ n < 2 ^ (n - 1) then (v % 2 ^ n : Nat) else ((v % 2 ^ n : Nat) : Int) - 2 ^ n

/-- The two's complement code of an integer. -/
def unsigned (n : Nat) (i : Int) : Nat := (i % (2 ^ n : Nat)).toNat

/-- The exact value of a floating-point element's code (R52). -/
def decodeFloat (f : Fmt) (p : FloatParams) (c : Nat) : Val :=
  let neg := bit c (p.expBits + p.manBits)
  let ex := bits c (p.expBits + p.manBits - 1) p.manBits
  let man := c % 2 ^ p.manBits
  if f == .e4m3 && c % 128 == 127 then .nan
  else if f == .mxE4m3 && c % 128 == 127 then .nan
  else if (f.hasInf || f == .mxE5m2) && ex == 2 ^ p.expBits - 1 then (if man = 0 then .inf neg else .nan)
  else if ex = 0 then .fin neg man (1 - p.bias - p.manBits)
  else .fin neg (man + 2 ^ p.manBits) ((ex : Int) - p.bias - p.manBits)

/-- The exact value of an element without its block scale (R52, R53). -/
def decodeElem (f : Fmt) (c : Nat) : Val :=
  match f.params with
  | some p => decodeFloat f p c
  | none =>
    match f with
    | .int8 => Val.ofInt (signed 8 c)
    | .int4 => Val.ofInt (signed 4 c)
    | .int32 => Val.ofInt (signed 32 c)
    | .mxInt8 => let i := signed 8 c; .fin (i < 0) i.natAbs (-6)
    | .mask1 => Val.ofInt (c % 2 : Nat)
    | _ => .nan

/-- Multiply a finite value by a power of two. -/
def Val.scale (k : Int) : Val → Val
  | .fin s m e => .fin s m (e + k)
  | v => v

/-- The exact value of an MX element under its scale byte (R55); a scale of 255 reads as NaN. -/
def decodeMX (f : Fmt) (scale c : Nat) : Val :=
  if scale = 255 then .nan else (decodeElem f c).scale ((scale : Int) - 127)

/-- Round a value to FP32, to nearest, ties to even, with overflow to infinity (R61, R62, R73). -/
def rn32 : Val → Val
  | .fin s m e =>
    if m = 0 then .fin s 0 0
    else
      let p : FloatParams := ⟨8, 23, 127, 2 ^ 24 - 1, 104⟩
      let q := p.quantum m e
      let r := rneAt m e q
      if p.exceeds r q then .inf s else .fin s r q
  | v => v

/-- The FP32 code of a value that FP32 represents (R52). -/
def toF32 (v : Val) : Nat :=
  match rn32 v with
  | .nan => 0x7FC00000
  | .inf s => if s then 0xFF800000 else 0x7F800000
  | .fin s m e => FloatParams.encode ⟨8, 23, 127, 2 ^ 24 - 1, 104⟩ s m e

/-- The value of an FP32 code. -/
def f32 (c : Nat) : Val := decodeElem .fp32 c

/-- Decode an element to FP32: exact except for MX values beyond or below FP32's normal range (R55) and INT32
magnitudes above 2^24 (R69). -/
def decode32 (f : Fmt) (scale c : Nat) : Val :=
  if f.isMX then rn32 (decodeMX f scale c) else rn32 (decodeElem f c)

/-- Round and convert to a floating-point format under a mode and Overflow (R68, Table 3.6). -/
def storeFloat (f : Fmt) (p : FloatParams) (mode : Rounding) (nonsat : Bool) (v : Val) : Nat :=
  let big (s : Bool) : Nat := p.encode s p.maxM p.maxE
  let infCode (s : Bool) : Nat := (if s then 1 <<< (p.expBits + p.manBits) else 0) + p.expMask
  match v with
  | .nan => f.canonNaN
  | .inf s => if f.hasInf then infCode s else if nonsat then f.canonNaN else big s
  | .fin s m e =>
    if m = 0 then p.encode s 0 0
    else
      let q := p.quantum m e
      let r := roundAt mode m e q
      if p.exceeds r q then
        if nonsat then (if f.hasInf then infCode s else f.canonNaN) else big s
      else p.encode s r q

/-- Round to an integer under a mode and clamp (R69); NaN gives 0. -/
def storeInt (n : Nat) (mode : Rounding) (v : Val) : Nat :=
  let lo : Int := -(2 ^ (n - 1) : Nat)
  let hi : Int := (2 ^ (n - 1) : Nat) - 1
  match v with
  | .nan => 0
  | .inf s => unsigned n (if s then lo else hi)
  | .fin s m e =>
    let r : Int := (if s then -1 else 1) * (roundAt mode m e 0 : Nat)
    unsigned n (max lo (min hi r))

/-- The code stored for an FP32 value in a format without block scale (R68, R69). -/
def storeElem (f : Fmt) (mode : Rounding) (nonsat : Bool) (v : Val) : Nat :=
  match f with
  | .fp32 => toF32 v
  | .int8 => storeInt 8 mode v
  | .int4 => storeInt 4 mode v
  | .int32 => storeInt 32 mode v
  | .mask1 => if v.isZero then 0 else 1
  | _ =>
    match f.params with
    | some p => storeFloat f p mode nonsat v
    | none => 0

/-- emax of an MX element format (R56). -/
def Fmt.emax : Fmt → Int
  | .mxE4m3 => 8
  | .mxE5m2 => 15
  | .mxE2m3 => 2
  | .mxE3m2 => 4
  | .mxE2m1 => 2
  | _ => 0

/-- floor(log2 |v|) of a finite non-zero value. -/
def Val.log2 : Val → Int
  | .fin _ m e => (m.log2 : Int) + e
  | _ => 0

/-- The larger magnitude of two finite values. -/
def maxMag (a b : Val) : Val := if Val.lt a.abs b.abs then b.abs else a.abs

/-- One element of an MX block: the scaled value rounded, saturated at the largest finite element (R56 step 4). -/
def storeMXElem (f : Fmt) (mode : Rounding) (v : Val) : Nat :=
  match f with
  | .mxInt8 =>
    match v with
    | .fin s m e =>
      let r : Int := (if s then -1 else 1) * (roundAt mode m (e + 6) 0 : Nat)
      unsigned 8 (max (-127) (min 127 r))
    | _ => 0
  | _ =>
    match f.params, v with
    | some p, .fin s m e =>
      if m = 0 then p.encode s 0 0
      else
        let q := p.quantum m e
        let r := roundAt mode m e q
        if p.exceeds r q then p.encode s p.maxM p.maxE else p.encode s r q
    | _, _ => 0

/-- Encode up to 32 FP32 values into an MX block: the scale byte and the element codes (R56). -/
def encodeMX (f : Fmt) (modes : List Rounding) (vs : List Val) : Nat × List Nat :=
  if vs.any Val.isSpecial then (0xFF, vs.map fun _ => 0)
  else
    let a := vs.foldl maxMag Val.zero
    if a.isZero then (0x7F, vs.map fun _ => 0)
    else
      let ex : Int := max (-127) (min 127 (a.log2 - f.emax))
      ((ex + 127).toNat, (vs.zip modes).map fun x => storeMXElem f x.2 (x.1.scale (-ex)))

/-! ### Quotients and roots, with a sticky bit below the last place that any format keeps -/

/-- `num / den · 2^e` with at least 64 significant bits and a sticky bit; `den` is not 0. -/
def quotient (neg : Bool) (num den : Nat) (e : Int) : Val :=
  if num = 0 then .fin neg 0 0
  else
    let sh := 66 + den.log2 - num.log2
    let n := num <<< sh
    let q := n / den
    .fin neg (2 * q + (if n % den = 0 then 0 else 1)) (e - sh - 1)

/-- a / b, to be rounded once (R73), with the special cases of IEEE 754. -/
def divVal : Val → Val → Val
  | .nan, _ => .nan
  | _, .nan => .nan
  | .inf _, .inf _ => .nan
  | .inf s, .fin t _ _ => .inf (s != t)
  | .fin s _ _, .inf t => .fin (s != t) 0 0
  | .fin s m e, .fin t n f =>
    if n = 0 then (if m = 0 then .nan else .inf (s != t))
    else quotient (s != t) m n (e - f)

/-- The integer square root, two bits of the radicand a step. -/
def isqrt : Nat → Nat → Nat
  | 0, _ => 0
  | fuel + 1, n =>
    if n = 0 then 0
    else
      let r := 2 * isqrt fuel (n / 4)
      if (r + 1) * (r + 1) ≤ n then r + 1 else r

/-- √v, to be rounded once: NaN for v < 0, −0 for −0 (Table 3.8). -/
def sqrtVal : Val → Val
  | .nan => .nan
  | .inf s => if s then .nan else .inf false
  | .fin s m e =>
    if m = 0 then .fin s 0 0
    else if s then .nan
    else
      let odd : Nat := if e % 2 = 0 then 0 else 1
      let n := m <<< (100 + odd)
      let r := isqrt (n.log2 / 2 + 2) n
      .fin false (2 * r + (if r * r = n then 0 else 1)) ((e - odd - 100) / 2 - 1)

/-- 1 / √v, to be rounded once: +infinity for ±0, NaN for v < 0 (Table 3.8). -/
def rsqrtVal : Val → Val
  | .nan => .nan
  | .inf s => if s then .nan else .fin false 0 0
  | .fin s m e =>
    if m = 0 then .inf false
    else if s then .nan
    else
      let odd : Nat := if e % 2 = 0 then 0 else 1
      let n := m <<< odd
      let k := n.log2 + 80
      let t := (1 <<< (2 * k)) / n
      let r := isqrt (t.log2 / 2 + 2) t
      .fin false (2 * r + (if r * r = t && t * n == 1 <<< (2 * k) then 0 else 1)) (-(k : Int) - 1 - (e - odd) / 2)

/-- The larger of two values: NaN if either is NaN, +0 over −0 (Table 3.8). -/
def max2 (a b : Val) : Val :=
  if a.isNaN || b.isNaN then .nan
  else if Val.lt a b then b
  else if Val.lt b a then a
  else if a.signBit then b else a

/-- The smaller of two values: NaN if either is NaN, −0 under +0 (Table 3.8). -/
def min2 (a b : Val) : Val :=
  if a.isNaN || b.isNaN then .nan
  else if Val.lt a b then a
  else if Val.lt b a then b
  else if a.signBit then a else b

/-- Round to BF16, to nearest, ties to even, with overflow to infinity (R118, R273): its value. -/
def rnBF16 (v : Val) : Val := decodeElem .bf16 (storeElem .bf16 .nearest true v)

/-- Round a value to a destination format of the atomic-accumulate unit and back (R149): FP32 or BF16, overflow to
infinity. -/
def rnTo (f : Fmt) (v : Val) : Val :=
  match f with
  | .bf16 => rnBF16 v
  | _ => rn32 v

/-- The two halves of an FP32 element as BF16 codes (R64, R82): x with its low 16 bits cleared, and x − hi rounded to BF16.
An infinity or a NaN, which is not split, keeps its low bits in the second. -/
def halvesOf (c : Nat) : Nat × Nat :=
  let hi := c / 65536
  (hi, if (f32 c).isSpecial then c % 65536
       else storeElem .bf16 .nearest false (Val.add (f32 c) (f32 (hi * 65536)).neg))

/-- The halves are those of an infinity or a NaN. -/
def halvesSpecial (x : Nat × Nat) : Bool := (f32 (x.1 * 65536)).isSpecial

/-- The value of an element that is not split. -/
def halvesVal (x : Nat × Nat) : Val :=
  if halvesSpecial x then f32 (x.1 * 65536 + x.2) else Val.add (decodeElem .bf16 x.1) (decodeElem .bf16 x.2)

end Sys2Proof.Machine
end

