-- ==== Sys2Proof/Machine/Crypto.lean ====
section
/-! DEFINITION. The checks and ciphers the specification names by their standards: CRC-32C (R217), CRC-32 and CRC-16
(R231), SM3, SM4, SM4-GCM (R402) and SM2 (R390 to R411). The specification cites the standards and does not repeat
them; their algorithms are PRESUMED from the published standards (assumption 20). -/

namespace Sys2Proof.Machine

/-! ### Cyclic redundancy checks -/

/-- `n` bit steps of a reflected CRC with polynomial `poly`. -/
def crcBits (poly : Nat) : Nat → Nat → Nat
  | 0, c => c
  | n + 1, c => crcBits poly n (if c % 2 = 1 then (c / 2) ^^^ poly else c / 2)

/-- A reflected CRC register after the bytes. -/
def crcBytes (poly : Nat) : Bytes → Nat → Nat
  | [], c => c
  | b :: bs, c => crcBytes poly bs (crcBits poly 8 (c ^^^ b.toNat))

/-- CRC-32C of R217: Castagnoli, reflected, initial value and final XOR 0xFFFF_FFFF. -/
def crc32c (bs : Bytes) : Nat := crcBytes 0x82F63B78 bs 0xFFFFFFFF ^^^ 0xFFFFFFFF

/-- CRC-32 of R231: polynomial 0x04C1_1DB7, reflected, initial value and final XOR 0xFFFF_FFFF. -/
def crc32 (bs : Bytes) : Nat := crcBytes 0xEDB88320 bs 0xFFFFFFFF ^^^ 0xFFFFFFFF

/-- CRC-16 over the `n` low bits of `v`, most significant bit first: polynomial 0x1021 (R231). -/
def crc16 (v : Nat) : Nat → Nat → Nat
  | 0, c => c
  | n + 1, c =>
    let fb := (bit c 15) != (bit v n)
    crc16 v n (((2 * c) % 65536) ^^^ (if fb then 0x1021 else 0))

/-- HeaderCheck of a frame header whose bits 63:16 are `v` (R231). -/
def headerCheck (v : Nat) : Nat := crc16 v 48 0xFFFF

/-! ### 32-bit words -/

/-- A sum modulo 2^32. -/
def add32 (a b : Nat) : Nat := (a + b) % 4294967296

/-- Rotate a 32-bit word left. -/
def rotl32 (x n : Nat) : Nat :=
  let k := n % 32
  ((x <<< k) % 4294967296) ||| (x >>> (32 - k))

/-- The complement of a 32-bit word. -/
def not32 (x : Nat) : Nat := 0xFFFFFFFF - x

/-- The big-endian number of a byte string. -/
def beNat (bs : Bytes) : Nat := bs.foldl (fun a b => a * 256 + b.toNat) 0

/-- `n` bytes of a number, big-endian. -/
def toBE (n v : Nat) : Bytes := (toLE n v).reverse

/-- Byte-wise exclusive or. -/
def xorB (a b : Bytes) : Bytes := List.zipWith (· ^^^ ·) a b

/-! ### SM3 -/

/-- The eight words of the SM3 state. -/
structure Sm3State where
  a : Nat
  b : Nat
  c : Nat
  d : Nat
  e : Nat
  f : Nat
  g : Nat
  h : Nat

/-- The initial value. -/
def sm3Init : Sm3State :=
  ⟨0x7380166F, 0x4914B2B9, 0x172442D7, 0xDA8A0600, 0xA96F30BC, 0x163138AA, 0xE38DEE4D, 0xB0FB0E4E⟩

/-- P1 of the message expansion. -/
def sm3P1 (x : Nat) : Nat := x ^^^ rotl32 x 15 ^^^ rotl32 x 23

/-- P0 of the compression. -/
def sm3P0 (x : Nat) : Nat := x ^^^ rotl32 x 9 ^^^ rotl32 x 17

/-- Expand the message words; the list holds them newest first. -/
def sm3Expand : Nat → List Nat → List Nat
  | 0, w => w
  | n + 1, w =>
    let x := sm3P1 (w.getD 15 0 ^^^ w.getD 8 0 ^^^ rotl32 (w.getD 2 0) 15) ^^^ rotl32 (w.getD 12 0) 7 ^^^ w.getD 5 0
    sm3Expand n (x :: w)

/-- One round of the compression with `w = W_j` and `w' = W_j xor W_(j+4)`. -/
def sm3Round (j w w' : Nat) (s : Sm3State) : Sm3State :=
  let t := if j < 16 then 0x79CC4519 else 0x7A879D8A
  let a12 := rotl32 s.a 12
  let ss1 := rotl32 (add32 (add32 a12 s.e) (rotl32 t j)) 7
  let ss2 := ss1 ^^^ a12
  let ff := if j < 16 then s.a ^^^ s.b ^^^ s.c else (s.a &&& s.b) ||| (s.a &&& s.c) ||| (s.b &&& s.c)
  let gg := if j < 16 then s.e ^^^ s.f ^^^ s.g else (s.e &&& s.f) ||| (not32 s.e &&& s.g)
  let tt1 := add32 (add32 ff s.d) (add32 ss2 w')
  let tt2 := add32 (add32 gg s.h) (add32 ss1 w)
  ⟨tt1, s.a, rotl32 s.b 9, s.c, sm3P0 tt2, s.e, rotl32 s.f 19, s.g⟩

/-- The rounds from `j` on over the words W_j, W_(j+1), … -/
def sm3Rounds : Nat → Nat → List Nat → Sm3State → Sm3State
  | 0, _, _, s => s
  | n + 1, j, ws, s =>
    match ws with
    | w0 :: w1 :: w2 :: w3 :: w4 :: tl => sm3Rounds n (j + 1) (w1 :: w2 :: w3 :: w4 :: tl) (sm3Round j w0 (w0 ^^^ w4) s)
    | _ => s

/-- Cut a byte string into big-endian 32-bit words. -/
def words32 : Bytes → List Nat
  | a :: b :: c :: d :: tl => (((a.toNat * 256 + b.toNat) * 256 + c.toNat) * 256 + d.toNat) :: words32 tl
  | _ => []

/-- Compress one 64-byte block. -/
def sm3Block (s : Sm3State) (block : Bytes) : Sm3State :=
  let ws := (sm3Expand 52 (words32 block).reverse).reverse
  let r := sm3Rounds 64 0 ws s
  ⟨s.a ^^^ r.a, s.b ^^^ r.b, s.c ^^^ r.c, s.d ^^^ r.d, s.e ^^^ r.e, s.f ^^^ r.f, s.g ^^^ r.g, s.h ^^^ r.h⟩

/-- The blocks of a padded message. -/
def sm3Blocks : Nat → Bytes → Sm3State → Sm3State
  | 0, _, s => s
  | n + 1, bs, s => sm3Blocks n (bs.drop 64) (sm3Block s (bs.take 64))

/-- The SM3 digest of a byte string: 32 bytes. -/
def sm3 (m : Bytes) : Bytes :=
  let l := m.length
  let pad := (119 - l % 64) % 64
  let p := m ++ (0x80 :: zeros pad) ++ toBE 8 (8 * l)
  let s := sm3Blocks (p.length / 64) p sm3Init
  [s.a, s.b, s.c, s.d, s.e, s.f, s.g, s.h].flatMap (toBE 4)

/-- The SM3 key derivation function: `n` bytes from counters 1, 2, … -/
def sm3Kdf (z : Bytes) (n : Nat) : Bytes :=
  ((List.range (ceilDiv n 32)).flatMap fun i => sm3 (z ++ toBE 4 (i + 1))).take n

/-! ### SM4 -/

/-- The S-box, 32 entries a row, entry i of a row at bits 8i. -/
def sm4Sbox : Nat → Nat
  | 0 => 0x99068649261344AAC304BE2A769A672B052CFB28C214B616B73DE1CCFEE990D6
  | 1 => 0xA63F8F75FA94DF8095E808C9A91CB3E462ACCFED430B54337A98EF91F450429C
  | 2 => 0x359D56704B0FEBF88BDA6471B2816B68A84F85E6193C5983BA1773F3FCA70747
  | 3 => 0x9EC8C4A0E702364C5227D39F574600D4877821013B7C2225A2D158635E0E241E
  | 4 => 0xE3B18CF5303293AD551A349BA45DAEE0A11561F9CEF2F7A3B538C740D28ABFEA
  | 5 => 0x515B6C6D726AFF032F8EFDDE4537DBD56F4E530DAB2329C060CA66822EE2F61D
  | 6 => 0xB0B4E5B812D0742DBD7BCDA58831C10AD85A101F415CD9117FBCDDBB92AF1B8D
  | _ => 0x4839CBD73E5FEE79204DDC3AEC7DF01884C66EC509F1B9657E77960C4A976989

/-- The S-box on one byte. -/
def sm4Sub (x : Nat) : Nat := (sm4Sbox (x / 32) >>> (8 * (x % 32))) % 256

/-- The S-box on the four bytes of a word. -/
def sm4Tau (x : Nat) : Nat :=
  sm4Sub (x % 256) + 256 * sm4Sub (x / 256 % 256) + 65536 * sm4Sub (x / 65536 % 256) + 16777216 * sm4Sub (x / 16777216 % 256)

/-- The transform of a round. -/
def sm4T (x : Nat) : Nat :=
  let b := sm4Tau x
  b ^^^ rotl32 b 2 ^^^ rotl32 b 10 ^^^ rotl32 b 18 ^^^ rotl32 b 24

/-- The transform of the key schedule. -/
def sm4T' (x : Nat) : Nat :=
  let b := sm4Tau x
  b ^^^ rotl32 b 13 ^^^ rotl32 b 23

/-- The constant CK_i of the key schedule: bytes (4i + j) · 7. -/
def sm4CK (i : Nat) : Nat := beNat ((List.range 4).map fun j => BitVec.ofNat 8 ((4 * i + j) * 7))

/-- Round keys i to 31 from the four key words. -/
def sm4Keys : Nat → Nat → Nat → Nat → Nat → Nat → List Nat
  | 0, _, _, _, _, _ => []
  | n + 1, i, k0, k1, k2, k3 =>
    let k := k0 ^^^ sm4T' (k1 ^^^ k2 ^^^ k3 ^^^ sm4CK i)
    k :: sm4Keys n (i + 1) k1 k2 k3 k

/-- The 32 round keys of a 16-byte key. -/
def sm4Schedule (key : Bytes) : List Nat :=
  match words32 key with
  | [a, b, c, d] => sm4Keys 32 0 (a ^^^ 0xA3B1BAC6) (b ^^^ 0x56AA3350) (c ^^^ 0x677D9197) (d ^^^ 0xB27022DC)
  | _ => []

/-- The rounds over the round keys. -/
def sm4Rounds : List Nat → Nat → Nat → Nat → Nat → List Nat
  | [], a, b, c, d => [d, c, b, a]
  | k :: ks, a, b, c, d => sm4Rounds ks b c d (a ^^^ sm4T (b ^^^ c ^^^ d ^^^ k))

/-- Encrypt one 16-byte block under round keys. -/
def sm4Block (keys : List Nat) (x : Bytes) : Bytes :=
  match words32 x with
  | [a, b, c, d] => (sm4Rounds keys a b c d).flatMap (toBE 4)
  | _ => zeros 16

/-- Encrypt one 16-byte block under a 16-byte key. -/
def sm4Encrypt (key x : Bytes) : Bytes := sm4Block (sm4Schedule key) x

/-- SM4 decryption of one block: the round keys in reverse. -/
def sm4Decrypt (key x : Bytes) : Bytes := sm4Block (sm4Schedule key).reverse x

/-- A tweak multiplied by α in the XTS manner: one bit up, little-endian, reduced by 0x87 (assumption 20). -/
def xtsDouble (t : Bytes) : Bytes :=
  let n := leNat t
  toLE 16 ((2 * n) % 2 ^ 128 ^^^ (if n < 2 ^ 127 then 0 else 0x87))

/-- The tweak of block `j` of a data unit (R210): its address, encrypted and multiplied by α^j. -/
def xtsTweak (key : Bytes) (unit j : Nat) : Bytes :=
  (List.range j).foldl (fun t _ => xtsDouble t) (sm4Encrypt key (toLE 16 (unit % 2 ^ 48)))


/-! ### SM4-GCM -/

/-- Multiplication in GF(2^128) of GCM, bit by bit from the most significant bit of `x`. -/
def gfMul : Nat → Nat → Nat → Nat → Nat
  | 0, _, _, z => z
  | n + 1, x, v, z =>
    let z' := if bit x n then z ^^^ v else z
    gfMul n x (if v % 2 = 1 then (v / 2) ^^^ (0xE1 <<< 120) else v / 2) z'

/-- GHASH over a byte string whose length is a multiple of 16. -/
def ghash (h : Nat) : Nat → Bytes → Nat → Nat
  | 0, _, y => y
  | n + 1, bs, y => ghash h n (bs.drop 16) (gfMul 128 (y ^^^ beNat (bs.take 16)) h 0)

/-- Pad with zeros to a multiple of 16. -/
def pad16 (bs : Bytes) : Bytes := bs ++ zeros (alignUp bs.length 16 - bs.length)

/-- Counter-mode key stream of `n` blocks from counter `c`. -/
def ctrStream (keys : List Nat) (iv : Bytes) : Nat → Nat → Bytes
  | 0, _ => []
  | n + 1, c => sm4Block keys (iv ++ toBE 4 c) ++ ctrStream keys iv n (c + 1)

/-- The key stream part of GCM: encryption and decryption of the payload. -/
def gcmCrypt (key iv data : Bytes) : Bytes :=
  xorB data (ctrStream (sm4Schedule key) iv (ceilDiv data.length 16) 2)

/-- The GCM tag over additional data and ciphertext. -/
def gcmTag (key iv aad cipher : Bytes) : Bytes :=
  let keys := sm4Schedule key
  let h := beNat (sm4Block keys (zeros 16))
  let text := pad16 aad ++ pad16 cipher ++ toBE 8 (8 * aad.length) ++ toBE 8 (8 * cipher.length)
  xorB (toBE 16 (ghash h (text.length / 16) text 0)) (sm4Block keys (iv ++ toBE 4 1))

/-! ### SM2 -/

/-- The prime of the SM2 curve. -/
def sm2p : Nat := 0xFFFFFFFEFFFFFFFFFFFFFFFFFFFFFFFFFFFFFFFF00000000FFFFFFFFFFFFFFFF

/-- Coefficient a of the curve. -/
def sm2a : Nat := sm2p - 3

/-- Coefficient b of the curve. -/
def sm2b : Nat := 0x28E9FA9E9D9F5E344D5A9E4BCF6509A7F39789F515AB8F92DDBCBD414D940E93

/-- The order of the group. -/
def sm2n : Nat := 0xFFFFFFFEFFFFFFFFFFFFFFFFFFFFFFFF7203DF6B21C6052B53BBF40939D54123

/-- The base point. -/
def sm2G : Nat × Nat :=
  (0x32C4AE2C1F1981195F9904466A39C9948FE30BBFF2660BE1715A4589334C74C7,
   0xBC3736A2F4F6779C59BDCEE36B692153D0A9877CC62A474002DF32E52139F0A0)

/-- `a − b` modulo `m`. -/
def subMod (m a b : Nat) : Nat := (a + m - b % m) % m

/-- Modular power, the exponent's bits from the top. -/
def powMod (m b e : Nat) : Nat → Nat → Nat
  | 0, acc => acc
  | n + 1, acc =>
    let sq := acc * acc % m
    powMod m b e n (if bit e n then sq * b % m else sq)

/-- The inverse modulo a prime. -/
def invMod (m a : Nat) : Nat := powMod m (a % m) (m - 2) 256 1

/-- A point in Jacobian coordinates; `z = 0` is the point at infinity. -/
structure JPoint where
  x : Nat
  y : Nat
  z : Nat

/-- Double a point. -/
def jDouble (q : JPoint) : JPoint :=
  if q.z = 0 || q.y = 0 then ⟨1, 1, 0⟩
  else
    let yy := q.y * q.y % sm2p
    let s := 4 * q.x * yy % sm2p
    let zz := q.z * q.z % sm2p
    let m := (3 * q.x * q.x + sm2a * (zz * zz % sm2p)) % sm2p
    let x := subMod sm2p (m * m) (2 * s)
    ⟨x, subMod sm2p (m * subMod sm2p s x) (8 * (yy * yy % sm2p)), 2 * q.y * q.z % sm2p⟩

/-- Add two points. -/
def jAdd (q r : JPoint) : JPoint :=
  if q.z = 0 then r
  else if r.z = 0 then q
  else
    let z1 := q.z * q.z % sm2p
    let z2 := r.z * r.z % sm2p
    let u1 := q.x * z2 % sm2p
    let u2 := r.x * z1 % sm2p
    let s1 := q.y * (z2 * r.z % sm2p) % sm2p
    let s2 := r.y * (z1 * q.z % sm2p) % sm2p
    if u1 = u2 then (if s1 = s2 then jDouble q else ⟨1, 1, 0⟩)
    else
      let h := subMod sm2p u2 u1
      let w := subMod sm2p s2 s1
      let hh := h * h % sm2p
      let hhh := hh * h % sm2p
      let v := u1 * hh % sm2p
      let x := subMod sm2p (w * w) (hhh + 2 * v)
      ⟨x, subMod sm2p (w * subMod sm2p v x) (s1 * hhh), h * q.z % sm2p * r.z % sm2p⟩

/-- Multiply a point by the low `n` bits of `k`. -/
def jMul (q : JPoint) (k : Nat) : Nat → JPoint → JPoint
  | 0, acc => acc
  | n + 1, acc =>
    let d := jDouble acc
    jMul q k n (if bit k n then jAdd d q else d)

/-- The affine point, none at infinity. -/
def jAffine (q : JPoint) : Option (Nat × Nat) :=
  if q.z = 0 then none
  else
    let zi := invMod sm2p q.z
    let zz := zi * zi % sm2p
    some (q.x * zz % sm2p, q.y * (zz * zi % sm2p) % sm2p)

/-- k · P. -/
def sm2Mul (k : Nat) (q : Nat × Nat) : JPoint := jMul ⟨q.1, q.2, 1⟩ k 256 ⟨1, 1, 0⟩

/-- The affine point k · P, (0, 0) at infinity. -/
def sm2Point (k : Nat) (q : Nat × Nat) : Nat × Nat := (jAffine (sm2Mul k q)).getD (0, 0)

/-- A point lies on the curve. -/
def sm2OnCurve (q : Nat × Nat) : Bool :=
  q.1 < sm2p && q.2 < sm2p && q.2 * q.2 % sm2p == (q.1 * q.1 % sm2p * q.1 + sm2a * q.1 + sm2b) % sm2p

/-- The digest that SM2 signs: SM3(Z ‖ M) with the default distinguishing identifier (R393). -/
def sm2Digest (pub : Nat × Nat) (m : Bytes) : Nat :=
  let id : Bytes := [0x31, 0x32, 0x33, 0x34, 0x35, 0x36, 0x37, 0x38, 0x31, 0x32, 0x33, 0x34, 0x35, 0x36, 0x37, 0x38]
  let z := sm3 (toBE 2 128 ++ id ++ toBE 32 sm2a ++ toBE 32 sm2b ++ toBE 32 sm2G.1 ++ toBE 32 sm2G.2 ++
    toBE 32 pub.1 ++ toBE 32 pub.2)
  beNat (sm3 (z ++ m))

/-- Verify an SM2 signature (r, s). -/
def sm2Verify (pub : Nat × Nat) (m : Bytes) (r s : Nat) : Bool :=
  let t := (r + s) % sm2n
  if r = 0 || s = 0 || r ≥ sm2n || s ≥ sm2n || t = 0 || !sm2OnCurve pub then false
  else
    match jAffine (jAdd (sm2Mul s sm2G) (sm2Mul t pub)) with
    | none => false
    | some q => (sm2Digest pub m + q.1) % sm2n == r

/-- Sign with private key `d` and nonce `k`: r then s, 64 bytes, each little-endian as every field of a report (R10). -/
def sm2Sign (d k : Nat) (m : Bytes) : Bytes :=
  let pub := sm2Point d sm2G
  let r := (sm2Digest pub m + (sm2Point k sm2G).1) % sm2n
  let s := invMod sm2n (1 + d) * subMod sm2n k (r * d) % sm2n
  toLE 32 r ++ toLE 32 s

/-- Decrypt an SM2 ciphertext in the order C1, C3, C2 with private key `d`; none when it does not decrypt. -/
def sm2Decrypt (d : Nat) (c : Bytes) : Option Bytes :=
  let x := beNat (sliceB c 1 32)
  let y := beNat (sliceB c 33 32)
  if c.length < 97 || c.take 1 != [0x04] || !sm2OnCurve (x, y) then none
  else
    match jAffine (sm2Mul d (x, y)) with
    | none => none
    | some q =>
      let c2 := c.drop 97
      let m := xorB c2 (sm3Kdf (toBE 32 q.1 ++ toBE 32 q.2) c2.length)
      if sm3 (toBE 32 q.1 ++ m ++ toBE 32 q.2) == sliceB c 65 32 then some m else none

end Sys2Proof.Machine
end

