-- ==== Sys2Proof/Config.lean ====
section
/-! DEFINITION. What one module fixes and the specification does not give (constants without a body), and the
free values: results that the specification leaves open. Nothing in Lean can see a value of these, so a theorem
holds whatever they are. Each is named in notes/assumptions. -/

namespace Sys2Proof.Config

/-- FREE VALUE (assumption 10). The `n`-th byte string of a given length drawn by the security block's random
source (R210, R399, R396): CXL keys, ephemeral SM2 private keys, SM2 signature nonces. -/
opaque randomNat : Nat → Nat

/-- The 256-bit root secret that the SRAM PUF and the helper data give (R390). Fixed for one module. -/
opaque rootSecret : Nat

/-- FREE VALUE (assumption 11). What a byte of CXL port `p` at offset `o` reads as in key epoch `e` before anything
was written in that epoch (R210: data under earlier keys is unintelligible, media contents are not stated). -/
opaque cxlByte : (p e o : Nat) → BitVec 8

/-- FREE VALUE (assumption 12). A byte whose content the specification leaves undefined: `n` is the free-value
counter of the state, `a` the address. -/
opaque freeByte : (n a : Nat) → BitVec 8

/-- FREE VALUE (assumption 13). A number the specification leaves open, drawn at counter `n`. -/
opaque freeNat : Nat → Nat

/-- FREE VALUE (assumption 13). Which of the destination rows that cover byte `i` of a COPY with descriptor `d` writes it
last (R187); a function of the program alone (R15). -/
opaque rowChoice : (d : Bytes) → (i : Nat) → Nat

/-- FREE VALUE (assumption 13). Which of the positions of an N:M group that are not ascending a stored element takes: a
function of the group's codes and positions (R102, R15). -/
opaque groupChoice : (codes positions : List Nat) → (i : Nat) → Nat

/-- FREE VALUE (assumption 12). Byte `o` of the sync and control space where Table 13.2 puts task slot state, counters and
tree records without saying how they stand there. -/
opaque controlSpace : (o : Nat) → BitVec 8

/-- The PCI vendor ID (R329) and device ID of the module; the specification gives no value. -/
opaque vendorId : Nat

/-- A register of configuration space whose content the specification does not give, of function `fn` (R304). -/
opaque configWord : (fn reg : Nat) → Nat

/-- Where a capability stands in configuration space: 0 PCI Express, 1 MSI-X, 2 SR-IOV (R304 gives no offsets). -/
opaque capability : (which : Nat) → Nat

/-- FREE VALUE (assumption 14). Byte `i` of the payload of a control frame that carries the device's own time, the far
end's time, the working lanes and the TC0 meter state (R232): the layout is not stated. -/
opaque controlByte : (time farTime lanes meter i : Nat) → BitVec 8

/-- FREE VALUE (assumption 14). What a received control frame says: field 0 the far end's device time, 1 the echo of
this end's device time, 2 the far end's working lanes, 3 its TC0 meter state (R232). -/
opaque controlField : (field : Nat) → Bytes → Nat

end Sys2Proof.Config
end

