-- ==== Sys2Proof/Machine/State.lean ====
section
/-! DEFINITION. The state of the VT-8824: every register, memory, queue, table, pin and mode the specification
gives it, as plain data, and the queue of waiting commands. Types and reset values only; what changes them stands in
the other files of Machine/. A register's value at reset is the one of its Reset column (the values at READY), and
where the specification gives none, the value notes/assumptions/3.md names. -/

namespace Sys2Proof.Machine

/-! ### Stops -/

/-- Why the machine stops with a fault. -/
inductive Fault where
  /-- Raised by nobody in this model: the device generates no access to an unmapped address (R196). Safe. -/
  | unmappedAccess
  deriving DecidableEq, Repr

/-- Why a command has no meaning. -/
inductive Refusal where
  /-- Raised only by an arm of `exec` whose meaning is not written yet. Safe: the model stops. -/
  | notModelled (mnemonic : String)
  deriving DecidableEq, Repr

/-! ### Alerts, mailboxes and the host endpoint (chapter 14) -/

/-- One alert register (Table 14.12). -/
structure AlertReg where
  flag : Bool := false
  count : BitVec 16 := 0
  detail : BitVec 8 := 0
  deriving DecidableEq, Repr

/-- A response slot (Table 14.5): bytes 0 to 63 as fields. -/
structure RespSlot where
  opcode : BitVec 16 := 0
  tag : BitVec 16 := 0
  status : BitVec 16 := 0
  index : BitVec 16 := 0
  deviceState : BitVec 4 := 0
  basinStates : BitVec 32 := 0
  result : Bytes := []
  deriving DecidableEq, Repr

/-- Who posted a record: it decides which waiting record a newer one replaces (R383) and which slot waits (R319). -/
inductive RecordSource where
  | slot (b k : Nat)
  | capture (p code : Nat)
  deriving DecidableEq, Repr

/-- An event record (Table 14.7 and its kinds) with its poster. -/
structure EventRec where
  source : RecordSource
  bytes : Bytes
  deriving DecidableEq, Repr

/-- One mailbox: control registers (Table 14.4), slots and event ring (Table 14.2). -/
structure Mailbox where
  tail : BitVec 16 := 0
  head : BitVec 16 := 0
  oldestOpen : BitVec 16 := 0
  overrunFlag : Bool := false
  overrunCount : BitVec 16 := 0
  eventTail : BitVec 16 := 0
  eventHead : BitVec 16 := 0
  /-- The 16 KiB of command slots; an unlisted byte is 0. -/
  commands : List Host.Cell := []
  /-- Response slots by number; an unlisted slot holds its reset value (Index 0xFF00 + slot). -/
  responses : List (Nat × RespSlot) := []
  /-- Event ring entries by number (0 to 127); an unlisted entry is 64 zero bytes. -/
  ring : List (Nat × EventRec) := []
  /-- Records waiting in the wellhead for a full ring, in posting order (R319). -/
  waiting : List EventRec := []
  deriving DecidableEq, Repr

/-- One PCIe function: 0 physical, 1 to 8 virtual (R305). -/
structure Func where
  mailboxes : List Mailbox := List.replicate 4 {}
  /-- This function's copies of alerts 0 to 16 (R325). -/
  alerts : List AlertReg := List.replicate 17 {}
  /-- Alert mask register (Table 14.2), reset 0. -/
  mask : BitVec 64 := 0
  /-- MSI-X table, 8 entries of 16 bytes, and the pending bits (Table 14.2, R317). -/
  msixTable : List Host.Cell := (List.range 8).map fun i => (16 * i + 12, 1)
  msixPending : BitVec 64 := 0
  /-- What was last written to registers of configuration space, by DWORD number (R304). -/
  config : List (Nat × Nat) := []
  deriving DecidableEq, Repr

/-- The completion that the host endpoint last returned on PCIe (an output; R307, R413). -/
inductive HostCompletion where
  | none
  | unsupportedRequest
  | retryStatus
  | success (value : Nat)
  deriving DecidableEq, Repr

/-- A command past its decision point with status ACCEPTED: where its final response goes. -/
structure Ticket where
  fn : Nat
  mb : Nat
  index : BitVec 16
  opcode : BitVec 16
  tag : BitVec 16
  /-- A function level reset came between: the response is discarded (R318). -/
  discarded : Bool := false
  deriving DecidableEq, Repr

/-- What an open deferred command is waiting for, with what its completion needs. -/
inductive OpenKind where
  | operatingPoint
  /-- `failed`: hardware moved one of its basins while the command was open (R324). -/
  | partitionClose (p : Nat) (failed : Bool)
  | poolMode (b n : Nat)
  | cxlDetach (port : Nat)
  | programLoad (b k off addr : Nat) (stream : Bytes)
  | tableLoad (basins slot : Nat) (record : Bytes) (failed : Bool)
  | taskStop (b k : Nat)
  | portMode (port : Nat)
  | portRetrain (sp : Nat)
  | reflectAsk (p partner part regionOff regionSize : Nat) (coFed : Bool)
  | reflectPair (p partner part regionOff regionSize : Nat) (coFed : Bool) (feed : Nat)
  | restore (p holder : Nat) (record deviceArea : Bytes)
  /-- `p`: the partition, none for a device report; `addr`: the host buffer. -/
  | attest (p : Option Nat) (addr : Nat) (report : Bytes)
  | weights (p source : Nat)
  | drain (b acceptedAt : Nat)
  | calibrate (b : Nat) (hbm microcode : Bool)
  | firmwareStage (slot : Nat) (image : Bytes)
  | firmwareSwitch (rollback : Bool) (acceptedAt : Nat) (deadlinePassed : Bool)
  deriving DecidableEq, Repr

/-- An open command (R335): deferred, or waiting for stage 8 of a still (R301). -/
structure OpenCmd where
  ticket : Ticket
  kind : OpenKind
  deriving DecidableEq, Repr

/-! ### Task slots, sync cells and in-flight descriptors (chapters 1, 8, 13) -/

/-- A segment record (Table 8.5); `size = 0` is absent. -/
structure SegRec where
  base : Nat := 0
  size : Nat := 0
  write : Bool := false
  read : Bool := false
  deriving DecidableEq, Repr

/-- Task slot States 0 to 4 (R345). -/
inductive SlotState where
  | empty | loaded | running | halted | finished
  deriving DecidableEq, Repr

/-- One task slot of a sequencer (R25, R343, R345). -/
structure Slot where
  state : SlotState := .empty
  /-- Pool, stack, CXL and shared records, in that order (R192). -/
  segs : List SegRec := List.replicate 4 {}
  streamOff : Nat := 0
  length : Nat := 0
  digest : Bytes := []
  position : Nat := 0
  /-- The function that started the task and the mailbox TASK_START named (R319). -/
  fn : Nat := 0
  mailbox : Nat := 0
  repeatCount : Nat := 0
  runsDone : Nat := 0
  seed : BitVec 64 := 0
  crossover : Nat := 0
  /-- Part and Frozen of the region that the last layer mark opened (R112); Part 3 before the first mark. -/
  regionPart : Nat := 3
  regionFrozen : Bool := false
  /-- The clearing of R296 is running: step 1 has stopped the slot, step 2 waits for its issued descriptors. -/
  clearing : Bool := false
  /-- The slot's Position when the clearing stopped it, or 0 (Table 15.4). -/
  stoppedAt : Nat := 0
  deriving DecidableEq, Repr

/-- One sync cell word (Table 13.1). -/
structure SyncCell where
  count : BitVec 16 := 0
  target : BitVec 16 := 1
  owned : Bool := false
  owner : BitVec 4 := 0
  deriving DecidableEq, Repr

/-- The unit that executes an issued descriptor (Table 1.6). -/
inductive UnitKind where
  | mere | tarn | vector | table | move | remoteSet | collective
  deriving DecidableEq, Repr

/-- A fault that a descriptor raises after it has issued (R153, R157, R227): code, and details of Table 14.8. -/
structure LateFault where
  code : Nat
  detail0 : Nat
  detail1 : Nat
  detail2 : Nat
  detail3 : Nat
  /-- The Position the slot halts at. -/
  position : Nat
  deriving DecidableEq, Repr

/-- A descriptor that has issued and not yet completed. -/
structure Flight where
  id : Nat
  unit : UnitKind
  basin : Nat
  slot : Nat
  /-- SetCell, with SetEn 1 (R286). -/
  setCell : Option Nat
  /-- The device address ranges it writes: the pending-write marks of R185 and the PartOut reservation of R90. -/
  writes : List Range
  /-- Every basin whose units or pools it uses (gang members, move ends; R323, R421). -/
  basins : List Nat
  /-- The partition's step counter when it issued (R300). -/
  step : Nat
  isPlace : Bool
  lateFault : Option LateFault
  /-- Granules whose last write is visible already, so that its counts there are lowered (R185). -/
  lowered : List Nat := []
  /-- Of a mere pass of an SPMM: the flight of the SPMM (R145). -/
  parent : Option Nat := none
  /-- The table slot that a table operation uses (R115). -/
  table : Option Nat := none
  deriving DecidableEq, Repr

/-! ### Units of a basin (chapters 4 to 8) -/

/-- The tag of a stationary set (R80). -/
structure SetTag where
  slot : Nat
  segB : Nat
  srcB : Nat
  strideB : Nat
  gangStrideB : Nat
  fmtB : Nat
  shape : Nat
  gang : Nat
  kUse : Nat
  nUse : Nat
  transB : Bool
  nm : Nat
  metaB : Nat
  scaleB : Nat
  deriving DecidableEq, Repr

/-- A stationary register set of a mere (R80): what a load put there, column by column in depth order as element
codes (zeros restored under R102; of an FP32 load the hi halves in set 0 and the lo halves in set 1), the E8M0 scales of
each column, and whether any byte read was poisoned. -/
structure StatSet where
  tag : Option SetTag := none
  columns : List (List Nat) := []
  scales : List (List Nat) := []
  poisoned : Bool := false
  deriving DecidableEq, Repr

/-- A mere pass that an SPMM stages for one tile (R145): the tile's ordinal, the pass as a descriptor, and whether its rows
are marked whatever they are computed from (R226). -/
structure SpmmItem where
  ordinal : Nat
  desc : Bytes
  marked : Bool
  deriving DecidableEq, Repr

/-- What is left of an SPMM whose tarn part is done (R145): its slot, its flight, the passes not yet staged, and whether
its POISON_MARKED has been counted. -/
structure SpmmWork where
  slot : Nat
  flight : Nat
  items : List SpmmItem
  counted : Bool
  deriving DecidableEq, Repr

/-- A staged pass (R89): its slot's basin (the lead) and number, the descriptor, the set its load fills, and the tile of an
SPMM that it serves. -/
structure StagedPass where
  lead : Nat
  slot : Nat
  desc : Bytes
  set : Nat
  item : Option SpmmItem := none
  deriving DecidableEq, Repr

/-- The mere of a basin. -/
structure Mere where
  sets : List StatSet := List.replicate 2 {}
  /-- The set that the last staged pass computes from; the other one is idle. -/
  lastSet : Nat := 0
  staged : Option StagedPass := none
  /-- The previous pass on this mere was a gang pass led by another basin (R84). -/
  gangLast : Bool := false
  /-- The pass issued last is an FP32 pass, which uses both sets (R80). -/
  fp32Last : Bool := false
  deriving DecidableEq, Repr

/-- The states of a tarn's inlets (Table 6.1). -/
inductive InletState where
  | empty | flowing | full | zeroed
  deriving DecidableEq, Repr

/-- An entry of an inlet: an element of A and up to 256 bytes of B (R129). -/
structure InletEntry where
  element : Nat
  data : Bytes
  deriving DecidableEq, Repr

/-- The inlet of a gather lane: up to 32 entries; zeroed by a clearing until the next operation issues (R129, R155). -/
structure Inlet where
  zeroed : Bool := true
  entries : List InletEntry := []
  deriving DecidableEq, Repr

/-- The state of an inlet (Table 6.1). -/
def Inlet.state (x : Inlet) : InletState :=
  if x.entries.isEmpty then (if x.zeroed then .zeroed else .empty) else if x.entries.length < 32 then .flowing else .full

/-- The dispatch generations of a basin (R172, R173). -/
structure Generations where
  outstanding : List Nat := []
  /-- Generations that were outstanding and have been retired (R151). -/
  retired : List Nat := []
  /-- Outstanding generations that retire at the next still. -/
  atStill : List Nat := []
  deriving DecidableEq, Repr

/-- One expert's three counters (R166). -/
structure ExpertCount where
  placed : Nat := 0
  movedIn : Nat := 0
  dropped : Nat := 0
  deriving DecidableEq, Repr

/-- An expert counter set: experts that are not listed have counters 0. -/
structure ExpertSet where
  saturated : Bool := false
  counts : List (Nat × ExpertCount) := []
  deriving DecidableEq, Repr

/-- A snapshot of an expert counter set (R167). -/
structure ExpertSnap where
  step : Nat := 0
  set : ExpertSet := {}
  deriving DecidableEq, Repr

/-- A line of the home cache (R190). Its byte values stand in the memory, from which it never differs; what differs until
a write-back is the marking of its 256 bytes (R224) and the stored units, numbered 0 to 3, that a scrub left with other
bytes than the line (R203). -/
structure CacheLine where
  line : Nat
  way : Nat
  dirty : Bool
  poison : Bool := false
  damaged : List Nat := []
  deriving DecidableEq, Repr

/-- The home cache of a basin (R189, R190): lines by set, and the replacement tree of each touched set. -/
structure HomeCache where
  size : Nat := 0
  lines : List (Nat × CacheLine) := []
  trees : List (Nat × BitVec 15) := []
  deriving DecidableEq, Repr

/-- Basin states (Table 14.9). -/
inductive BasinState where
  | idle | active | draining | service | retired
  deriving DecidableEq, Repr

/-- One basin. -/
structure Basin where
  state : BasinState := .idle
  /-- In SERVICE: entered from RETIRED, and no CALIBRATE with Stacks has completed since (R360). -/
  needsCalibration : Bool := false
  slots : List Slot := List.replicate 16 {}
  cells : List SyncCell := List.replicate 256 {}
  mere : Mere := {}
  /-- The inlets of the tarn's 64 lanes, and the SPMM whose mere passes are still to be staged. -/
  inlets : List Inlet := List.replicate 64 {}
  spmm : Option SpmmWork := none
  generations : Generations := {}
  /-- The 16 live expert counter sets and their snapshots (R166, R167). -/
  experts : List ExpertSet := List.replicate 16 {}
  expertSnaps : List ExpertSnap := List.replicate 16 {}
  /-- The 8 table slots (R114): a loaded record's 24,640 bytes, trailing zeros left out. -/
  tables : List (Option Bytes) := List.replicate 8 none
  cache : HomeCache := {}
  /-- The slot most recently granted on the mere, tarn, vector strip, table units, move engine (R26). -/
  lastGrant : List (Option Nat) := List.replicate 5 none
  /-- Version of the sequencer microcode loaded (R424, R429). -/
  microcode : Nat := 0
  /-- A wipe of the populated stack windows is in progress, and since when (R407). -/
  wiping : Bool := false
  wipeStart : Nat := 0
  deriving DecidableEq, Repr

/-- A stack (R202 to R205): patrol position, and what the fault rules count. -/
structure Stack where
  patrol : Nat := 0
  /-- Device times of uncorrectable reads in the last second (R205). -/
  ueTimes : List Nat := []
  /-- (device time, symbol position, unit) of corrections in the last hour (R205). -/
  ceUnits : List (Nat × Nat × Nat) := []
  lastRecal : Nat := 0
  deriving DecidableEq, Repr

/-! ### Folham links, router and peer contexts (chapter 11) -/

/-- A message (Table 11.4): header, data extension and payload. TC0 messages carry no extension. -/
structure Msg where
  dst : Nat
  src : Nat
  cls : Nat
  type : Nat
  hops : Nat := 0
  encrypted : Bool := false
  peerSeq : Nat := 0
  stamp : Nat := 0
  place : Nat := 0
  poisonMask : Nat := 0
  payload : Bytes := []
  /-- The 16-byte tag of a sealed message (R233). -/
  tag : Bytes := []
  deriving DecidableEq, Repr

/-- The operation that a sent message belongs to: it completes once its messages are acknowledged (R248). -/
inductive MsgOwner where
  | none
  | flight (id : Nat)
  | instance_ (p gid seq : Nat)
  | capture (p : Nat) (checkpoint : Bool)
  | orphan (p gid seq rank : Nat)
  deriving DecidableEq, Repr

/-- A sent message that is not yet acknowledged (R249). -/
structure Unacked where
  msg : Msg
  owner : MsgOwner
  lastSent : Nat
  deriving DecidableEq, Repr

/-- One class of a peer context: both directions (R245, R246). -/
structure CtxClass where
  /-- Credit the sender side holds, and the figure of the record (also the receive window). -/
  credit : Nat := 0
  window : Nat := 0
  /-- Number of the next message, extended: PeerSeq in the low 32 bits, its wraps above (R402). -/
  nextSeq : Nat := 0
  unacked : List Unacked := []
  /-- Messages waiting for credit, first in first out. -/
  queue : List (Msg × MsgOwner) := []
  /-- The next expected number (extended to 64 bits) and the marks of numbers accepted within the window. -/
  expected : Nat := 0
  accepted : List Nat := []
  /-- TC0 only: accepted messages that wait for a gap to fill. -/
  held : List Msg := []
  /-- Credit to return in the next return message. -/
  owed : Nat := 0
  deriving DecidableEq, Repr

/-- A peer record's fields that are not per class (Table 11.6). -/
structure PeerCtx where
  index : Nat
  peerId : Nat := 0
  encrypt : Bool := false
  keyRef : Nat := 0
  /-- The 32 bytes of the record as loaded (PeerDigest, R396). -/
  record : Bytes := []
  lost : Bool := false
  /-- The partition that the messages sent last named at the peer (assumption 30). -/
  peerPart : Option Nat := none
  classes : List CtxClass := List.replicate 4 {}
  pairNumber : Nat := 0
  /-- The Cell of a PAIR issued and not completed: (basin, slot, cell, number), and the numbers of arrivals received. -/
  pairOut : List (Nat × Nat × Option Nat × Nat) := []
  pairIn : List Nat := []
  /-- Stamp of the newest message covered by the next return, and whether it came after the last one (R247, R251). -/
  newestStamp : Nat := 0
  uncovered : Bool := false
  needReturn : Bool := false
  lastReturn : Option Nat := none
  /-- Send times of PROBEs not answered, oldest first, and how many in a row went unanswered (R249). -/
  probes : List Nat := []
  probesMissed : Nat := 0
  /-- When the last PROBE was sent: one goes out at each moment (R249). -/
  lastProbe : Option Nat := none
  roundTrip : Nat := 0
  deriving DecidableEq, Repr

/-- Sub-port states (Table 11.8). -/
inductive SubState where
  | off | training | up | retraining | failed
  deriving DecidableEq, Repr

/-- A received byte stream of one class and VC (R232): whole messages and the beginning of the next, in order. -/
structure Stream where
  bytes : Bytes := []
  /-- The next header is the First of a later frame (R235). -/
  resync : Bool := false
  /-- Poisoned ranges of `bytes`: (start, length) (R235). -/
  poison : List (Nat × Nat) := []
  /-- Bytes of buffer freed and not yet turned into link credit, and the units of 256 bytes that the stream holds of the
  port's shared buffer (R238). -/
  freed : Nat := 0
  borrowed : Nat := 0
  deriving DecidableEq, Repr

/-- Receive buffer that a message takes up until it is framed again or delivered: sub-port, stream, bytes (R238). -/
structure HeldInput where
  sp : Nat
  ix : Nat
  bytes : Nat
  deriving DecidableEq, Repr

/-- A data frame in the replay buffer (R234): number, class, VC, First and payload. -/
structure SentFrame where
  seq : Nat
  cls : Nat
  vc : Nat
  first : Nat
  payload : Bytes
  /-- Sends so far; a frame is sent once and again on each NAK. -/
  sends : Nat
  deriving DecidableEq, Repr

/-- A message handed to a sub-port whose bytes are not all acknowledged (R256): its VC and the one it had at the router,
whether it waits in the TC0 excess queue (R47), how many of its bytes are still to be framed, the first and the last frame
that carry any of them, whether TC0_RETRY2 has counted it, and the receive buffer that it still takes up. -/
structure PortMsg where
  msg : Msg
  vc : Nat
  routerVc : Nat
  excess : Bool
  toSend : Nat
  firstSeq : Option Nat := none
  lastSeq : Option Nat := none
  retry2 : Bool := false
  origin : Option HeldInput := none
  deriving DecidableEq, Repr

/-- One sub-port of a Folham port: index 4p + s (R229). -/
structure SubPort where
  state : SubState := .off
  lanes : Nat := 0
  /-- Failed training attempts in a row (R255). -/
  attempts : Nat := 0
  /-- Transmit side: next data frame number, number of the data frame sent last, replay buffer, resend position, messages
  in order of arrival. -/
  txSeq : Nat := 0
  lastSent : Nat := 4095
  replay : List SentFrame := []
  resendFrom : Option Nat := none
  outgoing : List PortMsg := []
  framesSent : Nat := 0
  nakOwed : Bool := false
  /-- The frame sent last: bytes 0 to 641 (an output). -/
  sent : Bytes := []
  /-- Link credit held per (class, VC), in 256-byte units; credit to return (R238). -/
  credit : List Nat := List.replicate 8 64
  creditOwed : List Nat := List.replicate 8 0
  /-- Bytes served of TC1 and TC2 for the 3 : 1 round-robin (R44). -/
  served1 : Nat := 0
  served2 : Nat := 0
  /-- Receive side: the number of the awaited frame, streams per (class, VC), failures of that frame (R235). -/
  rxNext : Nat := 0
  rx : List Stream := List.replicate 8 {}
  crcFails : Nat := 0
  hdrFails : Nat := 0
  hdrFailsRow : Nat := 0
  /-- Device times of CRC-32 failures in the last 1 ms (R255). -/
  crcTimes : List Nat := []
  /-- What the last control frame told: the far end's device time, lane health and meter state (R232). -/
  farTime : Nat := 0
  farLanes : Nat := 0
  farMeter : Nat := 0
  roundTrip : Nat := 0
  deriving DecidableEq, Repr

/-- A route entry (Table 11.5). -/
structure RouteEntry where
  stay : BitVec 48 := 0
  up : BitVec 48 := 0
  valid : Bool := false
  deriving DecidableEq, Repr

/-- A message waiting at the router with no eligible candidate (R243). -/
structure WaitingMsg where
  msg : Msg
  vc : Nat
  since : Nat
  origin : Option HeldInput := none
  deriving DecidableEq, Repr

/-- The router: tables, waiting messages, choices, the local port's queue towards the links, and what it delivered
to this device (R237 to R243). -/
structure Router where
  groupTable : List RouteEntry := List.replicate 256 {}
  memberTable : List RouteEntry := List.replicate 64 {}
  lastChoice : Option Nat := none
  waiting : List WaitingMsg := []
  localQueue : List Msg := []
  /-- Bytes of TC1 and TC2 served from the local port's queue for the 3 : 1 round-robin (R44). -/
  served1 : Nat := 0
  served2 : Nat := 0
  /-- Messages accepted from the local port by a context, in order of arrival. -/
  inbox : List (Nat × Nat × Msg) := []
  deriving DecidableEq, Repr

/-! ### Sync trees, groups and instances (chapters 12, 13) -/

/-- A sync tree record (Table 13.5). -/
structure TreeRec where
  treeId : Nat
  parent : Option Nat
  parentPart : Nat
  children : List Nat
  childParts : List Nat
  height : Nat
  /-- The 40 bytes as loaded (GroupDigest, R396). -/
  record : Bytes
  /-- Barrier number of the next barrier, the outstanding one's issuer, arrivals received per child (R293). -/
  number : Nat := 0
  /-- The outstanding barrier: basin, slot and Cell to set; no Cell when it was abandoned (R296). -/
  outstanding : Option (Nat × Nat × Option Nat) := none
  arrivals : List (Nat × Nat) := []
  arriveSent : Bool := false
  deriving DecidableEq, Repr

/-- An expert map entry (Table 12.2). -/
structure ExpertMapEntry where
  rank : Nat
  cap : Nat
  recvOff : Nat
  deriving DecidableEq, Repr

/-- A group record (Table 12.1). -/
structure GroupRec where
  gid : Nat
  hasMap : Bool
  weirFromStill : Bool
  lateAdd : Bool
  algorithm : Nat
  members : List Nat
  ownRank : Nat
  inner : Nat
  weir : Nat
  minJoin : Nat
  headroom : Nat
  tree : Nat
  /-- Expert map entries of hosted experts; an unlisted expert has Rank 0xFFFF. -/
  map : List (Nat × ExpertMapEntry)
  /-- The record's bytes as loaded, without the expert map's trailing zeros (GroupDigest, R396). -/
  record : Bytes
  /-- Device IDs that FAILURE_NOTICE marked lost (R263). -/
  lost : List Nat := []
  deriving DecidableEq, Repr

/-- An RB16 block (R57), without its mantissa byte packing. -/
structure Block where
  exp : Nat
  mants : List Int
  nonfinite : Bool := false
  raised : Bool := false
  /-- A contribution or the arriving block was poisoned (R278). -/
  poisoned : Bool := false
  /-- A block that went into it was received with Raised set (R269). -/
  seen : Bool := false
  deriving DecidableEq, Repr

/-- A block or BF16 group kept until the next outer step can use it (hierarchical algorithm, R267). -/
structure HeldBlock where
  ord : Nat
  /-- 0 after the inner ring; t + 1 after outer step t. -/
  level : Nat
  arrived : Bool
  block : Block
  deriving DecidableEq, Repr

/-- Status of a completion record (Table 12.8). -/
inductive CollStatus where
  | done | excluded | broken | stale
  deriving DecidableEq, Repr

/-- A member's part of an instance: its descriptor and what it has gathered so far. -/
structure MemberPart where
  basin : Nat
  slot : Nat
  flight : Nat
  desc : Bytes
  /-- A late contribution is held and reported in JOIN (R277). -/
  lateHeld : Bool := false
  started : Bool := false
  /-- From START: joined count, absent ranks so far, LateFolded, the root's device ID, the step counter then. -/
  joinedCount : Nat := 0
  absent : List Nat := []
  lateFolded : Nat := 0
  root : Nat := 0xFFFF
  startStep : Nat := 0
  /-- Joined ranks in rank order, once every START has arrived. -/
  joined : List Nat := []
  /-- EXCLUDED has arrived and the adopter's answer has not (R268). -/
  excluded : Bool := false
  adopter : Option Nat := none
  raisedBlocks : Nat := 0
  /-- A block that this member wrote as its holder is raised (Flags bit 0 of Table 12.8). -/
  raised : Bool := false
  nonfinite : Bool := false
  historyEmpty : Bool := false
  poisonOut : Bool := false
  missing : Nat := 0
  /-- Sum of squares of the held values, in units of 2^-298; an infinity or a NaN among them (R274). -/
  sumSq : Nat := 0
  sumInf : Bool := false
  sumNan : Bool := false
  /-- Blocks begun as their start member; blocks, units or rows received; blocks finished as their holder. -/
  begun : Nat := 0
  received : Nat := 0
  finals : Nat := 0
  /-- History values received: (block, exponent), 255 for none (R272). -/
  echoes : List (Nat × Nat) := []
  /-- Pre-pass: (block, MAX so far, receptions). -/
  prepass : List (Nat × Nat × Nat) := []
  held : List HeldBlock := []
  /-- S of R275: code and whether it is poisoned. -/
  normValue : Option (Nat × Bool) := none
  /-- Check outcomes that its reads and writes met (R216). -/
  errs : List CheckErr := []
  doneSent : Bool := false
  deriving DecidableEq, Repr

/-- The root's part of an instance (R262, R263). -/
structure RootPart where
  /-- (rank, LateHeld) of the members that joined, in order of arrival. -/
  joins : List (Nat × Bool) := []
  firstJoin : Nat := 0
  started : Bool := false
  /-- Joined ranks in rank order, once started. -/
  joined : List Nat := []
  dones : List Nat := []
  /-- (rank, value, poisoned) of a NORM. -/
  norms : List (Nat × Nat × Bool) := []
  ended : Bool := false
  /-- The group record's Weir, WeirFrom and MinJoin when the first JOIN arrived (R258). -/
  weir : Nat := 0
  weirFromStill : Bool := false
  minJoin : Nat := 0
  deriving DecidableEq, Repr

/-- An instance of a group in flight on this device, keyed by partition, GroupId, Seq and step (R262). -/
structure Inst where
  part : Nat
  gid : Nat
  seq : Nat
  step : Nat
  member : Option MemberPart := none
  root : Option RootPart := none
  deriving DecidableEq, Repr

/-- A late contribution (R277): held for GroupId and Seq from a still on, kept at Aux2 of its slot. -/
structure LateStore where
  part : Nat
  gid : Nat
  seq : Nat
  basin : Nat
  slot : Nat
  desc : Bytes
  heldFrom : Option Nat
  foldedIn : Bool := false
  deriving DecidableEq, Repr

/-- An adopted shard in an orphan area (R268): whether it was dropped for its bound, is complete, was released by
stage 4, and the excluded owner (rank) that asked for it. -/
structure Orphan where
  part : Nat
  gid : Nat
  seq : Nat
  step : Nat
  basin : Nat
  slot : Nat
  shard : Nat
  /-- Rank and device ID of the shard's owner. -/
  owner : Nat
  ownerDev : Nat
  addr : Nat
  length : Nat
  dropped : Bool := false
  ready : Bool := false
  released : Bool := false
  asked : Bool := false
  deriving DecidableEq, Repr

/-! ### Partitions (chapters 8, 13, 15, 16, 17) -/

/-- Pulse source of a partition's stills (R298). -/
inductive PulseSource where
  | off | pin | tree (t : Nat)
  deriving DecidableEq, Repr

/-- Where a partition's still stands (Table 13.8): none running; waiting in stage 2; or due to start after it. -/
inductive StillPhase where
  | idle
  | waitingPlace
  deriving DecidableEq, Repr

/-- A still plan and its window, kept when a window is open while a new plan is loaded (R347). -/
structure StillPlan where
  period : Nat := 0
  next : Nat := 0
  source : PulseSource := .off
  window : Nat := 1000
  deriving DecidableEq, Repr

/-- A key of a partition's key table (R401). -/
structure KeyEntry where
  ref : Nat
  kind : Nat
  key : Bytes
  /-- PeerIds that peer records written since the key was installed name with it (R401). -/
  usedBy : List Nat := []
  deriving DecidableEq, Repr

/-- An open WEIGHTS_IMPORT (R404). -/
structure Import where
  basin : Nat
  slot : Nat
  seg : Nat
  keyRef : Nat
  dstOff : Nat
  length : Nat
  source : Nat
  /-- Units written: (offset, SM3 digest). -/
  units : List (Nat × Bytes) := []
  deriving DecidableEq, Repr

/-- The reflection partner of a partition (R352, R380). -/
structure Partner where
  id : Nat
  part : Nat
  regionOff : Nat
  regionSize : Nat
  coFed : Bool
  /-- Committed Step of slot A and slot B at the partner (R367). -/
  slotA : Option Nat := none
  slotB : Option Nat := none
  /-- Start of the last committed non-flush reflection, and its measured time R (R374). -/
  lastStart : Option Nat := none
  measured : Option Nat := none
  /-- Interval I in effect, in ns (R374, R375). -/
  interval : Nat := 0
  deriving DecidableEq, Repr

/-- Kinds of capture (R368). -/
inductive CaptureKind where
  | reflection | flush | checkpoint
  deriving DecidableEq, Repr

/-- A capture in progress at the source (R365 to R369). -/
structure Capture where
  kind : CaptureKind
  startTime : Nat
  step : Nat
  /-- The holder, its partition, the offset of the region, and in it of the target slot's record and image area. -/
  holder : Nat
  holderPart : Nat
  slot : Nat
  regionOff : Nat
  recordOff : Nat
  imageOff : Nat
  imageSize : Nat
  /-- Flags of the image record (R373). -/
  flags : Nat
  /-- Pages of all manifest entries (N of R370). -/
  pageCount : Nat
  /-- Image offset 0 on: the device area and the digest table, bytes that are not 0. -/
  front : List Host.Cell
  /-- Pages still to be handed to the context: ordinal and bytes at T that are not 0. -/
  pages : List (Nat × List Host.Cell)
  /-- Pages that have not been read yet, with their ordinals: a write to one waits until it is copied (R365). -/
  unread : List (Nat × Nat)
  /-- The shadow of the manifest: its first address and its pages. -/
  shadowBase : Nat
  shadowPages : Nat
  /-- SM3 over the device area followed by the digest table. -/
  digest : Bytes
  /-- The holder has acknowledged IMAGE_BEGIN and the pages have been handed to the context. -/
  begun : Bool := false
  /-- Payload bytes of IMAGE_PAGE handed to the context. -/
  bytesGiven : Nat := 0
  commitSent : Bool := false
  /-- Its pages travel on TC2 (R368, R379). -/
  onTC2 : Bool
  /-- A flush starts at once when it commits (R379). -/
  flushNext : Bool := false
  deriving DecidableEq, Repr

/-- An image slot that this device holds for a source (R368, R371): where it lies in the holder partition's region, and
whether a capture into it is under way. Whether it is committed stands in the memory, in the record's commit word. -/
structure HeldImage where
  part : Nat
  source : Nat
  sourcePart : Nat
  isCheckpoint : Bool
  slot : Nat
  regionOff : Nat
  recordOff : Nat
  imageOff : Nat
  imageSize : Nat
  step : Nat
  filling : Bool
  deriving DecidableEq, Repr

/-- A region this device confirmed as a holder (R364). -/
structure HeldRegion where
  part : Nat
  source : Nat
  sourcePart : Nat
  off : Nat
  size : Nat
  coFed : Bool
  deriving DecidableEq, Repr

/-- A restore in progress (R388): 4 KiB pieces of the image received, by number, their bytes that are not 0 by image
offset, the pieces that arrived poisoned, whether the digest table has passed, and the pages written. -/
structure Restore where
  got : List Nat := []
  cells : List Host.Cell := []
  bad : List Nat := []
  tableOk : Bool := false
  written : List Nat := []
  deriving DecidableEq, Repr

/-- One partition (R18, R340). -/
structure Partition where
  isOpen : Bool := false
  closing : Bool := false
  basins : BitVec 8 := 0
  ports : BitVec 8 := 0
  peerBase : Nat := 0
  peerCount : Nat := 0
  openedAt : Nat := 0
  step : Nat := 0
  plan : StillPlan := {}
  /-- The plan under which an open window and its still run (R347); none outside. -/
  windowPlan : Option StillPlan := none
  stillPhase : StillPhase := .idle
  /-- A further still is due as soon as the running one ends (R297). -/
  stillQueued : Bool := false
  stillTime : Option Nat := none
  /-- Still time of the still that opened the current step (R263, R299). -/
  openStill : Option Nat := none
  lastStillEnd : Option Nat := none
  groups : List GroupRec := []
  trees : List TreeRec := []
  keys : List KeyEntry := []
  /-- Ephemeral SM2 private key (security block only) and public point (R399). -/
  ephemeral : Nat := 0
  ephemeralPub : Nat × Nat := (0, 0)
  reportDigests : List Bytes := []
  imports : List Import := []
  /-- Report entries of completed imports, oldest first, and the chain digest (R405). -/
  importEntries : List Bytes := []
  importChain : Bytes := List.replicate 32 0
  importCount : Nat := 0
  lates : List LateStore := []
  /-- JOINs that this device passed up its tree in the current step: GroupId, Seq and the child they came from (R262). -/
  climbed : List (Nat × Nat × Nat) := []
  partner : Option Partner := none
  /-- MTBF source of the interval formula: seconds, or 0 to count notices since the command (R375). -/
  mtbf : Nat := 0
  mtbfSince : Nat := 0
  mtbfNotices : Nat := 0
  capture : Option Capture := none
  checkpoint : Option Capture := none
  flushPending : Bool := false
  /-- Dirty bits: pages whose bit for slot A, or B, is clear (R366); every other page is dirty. -/
  cleanA : List Nat := []
  cleanB : List Nat := []
  /-- 64 KiB pages (address / 65,536) of stacks and CXL written since stage 8 of the still that opened the step (R373). -/
  writtenPages : List Nat := []
  /-- Pages pending in a capture that the shadow holds, in the order of their copies; and those that the command at hand
  wrote before their values were taken (R365). -/
  shadowed : List Nat := []
  touched : List Nat := []
  manifestDigest : Bytes := []
  restore : Option Restore := none
  /-- COUNTER_READ Set 1: the snapshot of the last still: (scope, index, position, value) and its step (R299). -/
  snapshot : List (Nat × Nat × Nat × Nat) := []
  snapshotStep : Nat := 0
  /-- The step of each basin's part of the snapshot: a basin that takes no part in a still keeps its last one (R299, R358). -/
  basinSnapSteps : List Nat := List.replicate 8 0
  deriving DecidableEq, Repr

/-! ### CXL ports (chapter 9) -/

/-- CXL port states (Table 9.5). -/
inductive CxlState where
  | absent | present | online | detaching | lost
  deriving DecidableEq, Repr

/-- One CXL port and the Type 3 device behind it. -/
structure CxlPort where
  state : CxlState := .absent
  plain : Bool := false
  /-- The two keys of SM4-XTS, for the data and for the tweak, while the port is attached (R210). -/
  keys : Option (Nat × Nat) := none
  /-- Counts the keys drawn and the devices found: it tells free values apart. -/
  epoch : Nat := 0
  mapped : Nat := 0
  gts : Nat := 0
  lanes : Nat := 0
  /-- Since when the link has been down, while ONLINE or DETACHING (R213). -/
  downSince : Option Nat := none
  linkUp : Bool := false
  /-- Bytes written under the present keys, by offset in the port's range, in the clear. -/
  bytes : List Host.Cell := []
  /-- Blocks of 16 bytes that earlier keys, or none, left on the device, as they stand there, by offset / 16; and the
  number under which the device's other bytes are free values. -/
  media : List (Nat × Bytes) := []
  medium : Nat := 0
  /-- Poisoned 64-byte units, by offset / 64, ascending. -/
  poison : List Nat := []
  /-- The port left service by a fault of the block (R20). -/
  failed : Bool := false
  /-- The partition that held the port when it was lost: its accesses complete as R213 states. -/
  lastHolder : Option Nat := none
  /-- The host has cleared CXL_LOST since the port was lost (R208). -/
  acked : Bool := false
  /-- CXLp_PRSNT_L reads high; until when a hot reset drives CXLp_PERST_L low (R438). -/
  prsntHigh : Bool := false
  resetUntil : Nat := 0
  deriving DecidableEq, Repr

/-! ### Counters, telemetry, security, module store, service, I3C and debug (chapters 2, 13 to 19) -/

/-- A statistics counter (R303): 48-bit raw value and carry bit in hardware, high part and extended value in the
wellhead. -/
structure StatCounter where
  scope : Nat
  idx : Nat
  pos : Nat
  raw : Nat := 0
  carry : Bool := false
  high : Nat := 0
  ext : Nat := 0
  deriving DecidableEq, Repr

/-- A monitor record (Table 2.3). -/
structure MonitorRec where
  point : Nat := 1
  ramping : Bool := false
  inEnvelope : Bool := true
  junction : Nat := 0
  rate : Nat := 0
  window : Nat := 0
  deriving DecidableEq, Repr

/-- A firmware image slot of the module store (R395, Table 17.3). -/
structure ImageSlot where
  present : Bool := false
  version : Nat := 0
  floor : Nat := 0
  vendorKey : Nat × Nat := (0, 0)
  stage1Digest : Bytes := List.replicate 32 0
  imageDigest : Bytes := List.replicate 32 0
  deriving DecidableEq, Repr

/-- A record of the module store's log (Tables 18.3, 18.4), committed or not. -/
structure StoreRecord where
  type : Nat
  version : Nat
  payload : Bytes
  committed : Bool
  deriving DecidableEq, Repr

/-- States of the IEEE 1149.1 test access port controller (R443). -/
inductive TapState where
  | testLogicReset | runTestIdle
  | selectDr | captureDr | shiftDr | exit1Dr | pauseDr | exit2Dr | updateDr
  | selectIr | captureIr | shiftIr | exit1Ir | pauseIr | exit2Ir | updateIr
  deriving DecidableEq, Repr

/-- Power and boot (Table 14.10, Table 18.1). -/
inductive Power where
  /-- OFF: no input power, nothing answers. -/
  | off
  /-- BOOT: power is up and PERST_L is asserted, or boot has not finished. -/
  | boot
  /-- HELD until HOLD_RELEASE. -/
  | held
  /-- READY, RUNNING or SERVICE, as R322 derives from partitions and basins. -/
  | up
  deriving DecidableEq, Repr

/-- A change of performance point in progress (R36, R37). -/
structure Ramp where
  target : Nat
  /-- False for an automatic step-down of R35. -/
  byHost : Bool
  deriving DecidableEq, Repr

/-- What bounds the input power (R30, R31, R50), in W: the mean of the preceding second, the sum and number of the windows
of the running one, the point they were drawn at (0 for none), and what the basins out of use lowered it by. -/
structure PowerRecord where
  mean : Nat := 0
  sum : Nat := 0
  windows : Nat := 0
  point : Nat := 0
  idle : Nat := 0
  deriving DecidableEq, Repr

/-- The state of the machine. -/
structure State where
  /-- Commands waiting, first in, first out. -/
  pending : List Instr
  /-- Device time in ns since power-up (Table 13.9). -/
  time : Nat
  power : Power
  /-- With FAULT: FaultCause of Table 14.9. -/
  faultCause : Option (BitVec 8)
  /-- PERST_L is held low. -/
  perst : Bool
  pwrGood : Bool
  /-- The datapath supply was cut (Table 2.2, R331). -/
  datapathCut : Bool
  /-- Shared blocks that have failed and put the device in FAULT (R20). -/
  failedBlocks : List SharedBlock
  /-- Straps as sampled at t0 (R416, R440), and t0 of the running boot (R412). -/
  feed : Nat
  bootHold : Bool
  bootStart : Nat
  /-- Performance point in effect, change in progress, die voltage target in mV (R36, R446). -/
  point : Nat
  ramp : Option Ramp
  milliVolts : Nat
  /-- The die voltage stands more than 10 mV off its nominal, outside a ramp (R34); when the next trim step is due (R446). -/
  voltageOff : Bool
  nextTrim : Nat
  /-- Sensor readings (Table 14.14): junction per basin °C, inlet and outlet 0.1 °C, input 10 mV and 10 mA, W. -/
  junction : List Nat
  inlet : Nat
  outlet : Nat
  inputVoltage : Nat
  inputCurrent : Nat
  inputPower : Nat
  powerRecord : PowerRecord
  /-- The device was within its rated envelope for the whole window so far (R40). -/
  inEnvelope : Bool
  rampInWindow : Bool
  monitors : List MonitorRec
  /-- Sums of rates over the running second, for the tenant's record (R40), and that record. -/
  tenantSums : List Nat
  tenantMonitors : List MonitorRec
  /-- Monitor windows closed since READY or HELD, and what the running second has seen of ramps and of the envelope. -/
  windows : Nat
  tenantRamping : Bool
  tenantInEnvelope : Bool
  /-- Identity (Table 14.3). -/
  serial : Nat
  firmware : Nat
  abaopMinor : Nat
  imageSlot : Nat
  deviceId : Nat
  funcs : List Func
  /-- 64-bit totals of the 17 alerts, physical function's view and each virtual function's (R326). -/
  alertTotals : List (List Nat)
  /-- The function and mailbox served last in the round-robin of R315. -/
  lastServed : Nat × Nat
  opens : List OpenCmd
  /-- Outputs to the host: MSI-X messages (function, vector), buffer writes (address, bytes), last completion. -/
  msix : List (Nat × Nat)
  hostWrites : List (Nat × Bytes)
  completion : HostCompletion
  /-- The host link as trained: its rate as PCIe codes it (1: 2.5 to 6: 64 GT/s) and its lanes (Table 14.1). -/
  hostRate : Nat
  hostWidth : Nat
  partitions : List Partition
  basins : List Basin
  flights : List Flight
  nextFlight : Nat
  /-- Pools and stack windows: bytes that are not 0, by ascending device address. -/
  mem : List Host.Cell
  /-- Poisoned units: 256-byte units of the pools and 64-byte units of the stacks, by first address, ascending. -/
  poison : List Nat
  hbm : List Stack
  cxl : List CxlPort
  counters : List StatCounter
  /-- Folham: port modes (0 ×8, 1 ×4, 2 ×2), ports out of service, sub-ports 4p + s. -/
  portModes : List Nat
  portFailed : List Bool
  /-- Per port the TC0 messages injected in the last 1 µs: (time, source ID) (R47). -/
  portMeters : List (List (Nat × Nat))
  subPorts : List SubPort
  router : Router
  /-- Contexts with a valid record, by ascending index (R244). -/
  contexts : List PeerCtx
  instances : List Inst
  orphans : List Orphan
  /-- Sounding (R377): input events with their times, the last value and scores, armed for a crossing. -/
  ceEvents : List Nat
  linkEvents : List Nat
  regulatorTimes : List Nat
  sagTimes : List Nat
  sounding : Nat
  scores : List Nat
  /-- Threshold in force since the last sounding update, and the one that SOUNDING_THRESHOLD_SET set for the next. -/
  threshold : Nat
  thresholdSet : Nat
  soundingArmed : Bool
  /-- Failure notices accepted in the last 60 s: (time, ID) (R353). -/
  notices : List (Nat × Nat)
  /-- As holder of images (R364, R368). -/
  regions : List HeldRegion
  images : List HeldImage
  /-- Security (chapter 17); first SM3 of the vendor key, held in the mask ROM (Table 17.2). -/
  vendorDigest : Bytes
  bootCount : Nat
  versionFloor : Nat
  imageA : ImageSlot
  imageB : ImageSlot
  staged : Option ImageSlot
  fallbackBoot : Bool
  debugUnlocked : Bool
  chain : Bytes
  randomCount : Nat
  freeCount : Nat
  /-- Module store records (R418). -/
  store : List StoreRecord
  /-- Still pulse echo: the partition whose stills STILL_SYNC_OUT echoes, and the pulses sent (R298, R442). -/
  echo : Option Nat
  echoPulses : List Nat
  /-- I3C target (R329 to R331): dynamic address, endpoint ID, arming time, last response, in-band interrupts. -/
  dynAddr : Option Nat
  endpointId : Nat
  stopArmed : Option Nat
  i3cReply : Bytes
  ibis : Nat
  /-- Debug port (R443). -/
  tap : TapState
  tapBypass : Bool
  tapOut : Option Bool
  deriving DecidableEq, Repr

/-- Sub-port `i` at READY: its port is in mode ×8, so sub-port 0 of each port exists and has begun training (R413). -/
def SubPort.atReady (i : Nat) : SubPort :=
  if i % 4 = 0 then { state := .training } else { state := .off }

/-- The state at READY with no strap tied: the values of the Reset columns (R13, Table 18.2), and for what has none
the values of notes/assumptions/3.md. -/
def State.reset : State where
  pending := []
  time := 0
  power := .up
  faultCause := none
  perst := false
  pwrGood := true
  datapathCut := false
  failedBlocks := []
  feed := 0
  bootHold := false
  bootStart := 0
  point := 1
  ramp := none
  milliVolts := 720
  voltageOff := false
  nextTrim := 0
  junction := List.replicate 8 0
  inlet := 250
  outlet := 250
  inputVoltage := 5000
  inputCurrent := 0
  inputPower := 0
  powerRecord := {}
  inEnvelope := true
  rampInWindow := false
  monitors := List.replicate 8 {}
  tenantSums := List.replicate 8 0
  tenantMonitors := List.replicate 8 {}
  windows := 0
  tenantRamping := false
  tenantInEnvelope := true
  serial := 0
  firmware := 0
  abaopMinor := 0
  imageSlot := 0
  deviceId := 0xFFFF
  funcs := List.replicate 9 {}
  alertTotals := List.replicate 9 (List.replicate 17 0)
  lastServed := (8, 3)
  opens := []
  msix := []
  hostWrites := []
  completion := .none
  hostRate := 6
  hostWidth := 4
  partitions := List.replicate 8 {}
  basins := List.replicate 8 {}
  flights := []
  nextFlight := 0
  mem := []
  poison := []
  hbm := List.replicate 24 {}
  cxl := List.replicate 8 {}
  counters := []
  portModes := List.replicate 12 0
  portFailed := List.replicate 12 false
  portMeters := List.replicate 12 []
  subPorts := (List.range 48).map SubPort.atReady
  router := {}
  contexts := []
  instances := []
  orphans := []
  ceEvents := []
  linkEvents := []
  regulatorTimes := []
  sagTimes := []
  sounding := 0
  scores := List.replicate 5 0
  threshold := 160
  thresholdSet := 160
  soundingArmed := true
  notices := []
  regions := []
  images := []
  vendorDigest := [0x46, 0xB5, 0x85, 0x71, 0xBE, 0x41, 0x68, 0x5C, 0x25, 0x31, 0x94, 0xD2, 0x0E, 0xC7, 0xF8, 0x2B,
    0x65, 0x9C, 0xC8, 0xC6, 0xB7, 0x53, 0xF2, 0x6D, 0x4E, 0x9E, 0xC8, 0x5B, 0xC9, 0x1C, 0x23, 0x1E]
  bootCount := 0
  versionFloor := 0
  imageA := { present := true }
  imageB := {}
  staged := none
  fallbackBoot := false
  debugUnlocked := false
  chain := []
  randomCount := 0
  freeCount := 0
  store := [⟨1, 0, [], true⟩, ⟨3, 0, List.replicate 8 0, true⟩]
  echo := none
  echoPulses := []
  dynAddr := none
  endpointId := 0
  stopArmed := none
  i3cReply := []
  ibis := 0
  tap := .testLogicReset
  tapBypass := false
  tapOut := none

end Sys2Proof.Machine
end

