-- ==== Sys2Proof/Machine/Ops.lean ====
section
/-! DEFINITION. The shared operations over the state: accessors of units, the memories with their poison markings
(spec 08, 09, 10), statistics counters (13), alerts and interrupts (14), event records and responses (14), sync cells
(13) and the derived device state (14). Everything a meaning reads or changes goes through them. -/

namespace Sys2Proof.Machine

/-! ### Units -/

/-- Basin `b`. -/
def State.basin (s : State) (b : Nat) : Basin := s.basins.getD b {}

/-- Change basin `b`. -/
def State.modBasin (s : State) (b : Nat) (f : Basin → Basin) : State := { s with basins := s.basins.modify b f }

/-- Task slot `k` of basin `b`. -/
def State.slot (s : State) (b k : Nat) : Slot := (s.basin b).slots.getD k {}

/-- Change task slot `k` of basin `b`. -/
def State.modSlot (s : State) (b k : Nat) (f : Slot → Slot) : State :=
  s.modBasin b fun x => { x with slots := x.slots.modify k f }

/-- Partition `p`. -/
def State.partition (s : State) (p : Nat) : Partition := s.partitions.getD p {}

/-- Change partition `p`. -/
def State.modPartition (s : State) (p : Nat) (f : Partition → Partition) : State :=
  { s with partitions := s.partitions.modify p f }

/-- PCIe function `f`. -/
def State.func (s : State) (f : Nat) : Func := s.funcs.getD f {}

/-- Change PCIe function `n`. -/
def State.modFunc (s : State) (n : Nat) (f : Func → Func) : State := { s with funcs := s.funcs.modify n f }

/-- Mailbox `m` of function `f`. -/
def State.mailbox (s : State) (f m : Nat) : Mailbox := (s.func f).mailboxes.getD m {}

/-- Change mailbox `m` of function `n`. -/
def State.modMailbox (s : State) (n m : Nat) (f : Mailbox → Mailbox) : State :=
  s.modFunc n fun x => { x with mailboxes := x.mailboxes.modify m f }

/-- CXL port `p`. -/
def State.port (s : State) (p : Nat) : CxlPort := s.cxl.getD p {}

/-- Change CXL port `p`. -/
def State.modPort (s : State) (p : Nat) (f : CxlPort → CxlPort) : State := { s with cxl := s.cxl.modify p f }

/-- Sub-port `i` = 4p + s. -/
def State.sub (s : State) (i : Nat) : SubPort := s.subPorts.getD i {}

/-- Change sub-port `i`. -/
def State.modSub (s : State) (i : Nat) (f : SubPort → SubPort) : State := { s with subPorts := s.subPorts.modify i f }

/-- Change stack `i`. -/
def State.modStack (s : State) (i : Nat) (f : Stack → Stack) : State := { s with hbm := s.hbm.modify i f }

/-- Partition `p` holds basin `b` (R18). -/
def State.holdsBasin (s : State) (p b : Nat) : Bool := (s.partition p).isOpen && (s.partition p).basins.getLsbD b

/-- Partition `p` holds CXL port `c` (R209). -/
def State.holdsPort (s : State) (p c : Nat) : Bool := (s.partition p).isOpen && (s.partition p).ports.getLsbD c

/-- The open partition that holds basin `b`. -/
def State.partitionOf (s : State) (b : Nat) : Option Nat := (List.range 8).find? fun p => s.holdsBasin p b

/-- The open partition that holds CXL port `c`. -/
def State.holderOf (s : State) (c : Nat) : Option Nat := (List.range 8).find? fun p => s.holdsPort p c

/-- The step counter seen by basin `b`: its partition's, 0 outside any. -/
def State.stepOf (s : State) (b : Nat) : Nat := match s.partitionOf b with
  | some p => (s.partition p).step
  | none => 0

/-! ### Serial numbers -/

/-- `a` is later than `b` among `w`-bit serial numbers (R302). -/
def serialLater (w a b : Nat) : Bool :=
  let d := (a + 2 ^ w - b % 2 ^ w) % 2 ^ w
  1 ≤ d && d ≤ 2 ^ (w - 1) - 1

/-- `a − b` modulo 2^w. -/
def serialDiff (w a b : Nat) : Nat := (a + 2 ^ w - b % 2 ^ w) % 2 ^ w

/-! ### Device address map (R196, R197, R181) -/

/-- What a device address names (Table 9.1), with the offset inside it. -/
inductive Place where
  | pool (b o : Nat)
  | stack (b o : Nat)
  | cxl (p o : Nat)
  | syncSpace (o : Nat)
  | unmapped
  deriving DecidableEq, Repr

/-- Decode a device address (Table 9.1). -/
def placeOf (a : Nat) : Place :=
  if a < 0x40000000 then .pool (a / 0x08000000) (a % 0x08000000)
  else if a < 0x80000000 then .syncSpace (a - 0x40000000)
  else if a < 0x20000000000 then .unmapped
  else if a < 0x40000000000 then .stack ((a - 0x20000000000) / 0x4000000000) (a % 0x4000000000)
  else if a < 0x100000000000 then .unmapped
  else if a < 0x200000000000 then .cxl ((a - 0x100000000000) / 0x20000000000) (a % 0x20000000000)
  else .unmapped

/-- The first address of basin `b`'s pools. -/
def poolBase (b : Nat) : Nat := b * 0x08000000

/-- Bytes of a basin's pools. -/
def poolSize : Nat := 0x08000000

/-- The near group: the first 32 MiB of a basin's pools (R181). -/
def nearSize : Nat := 0x02000000

/-- The first address of basin `b`'s stack window. -/
def windowBase (b : Nat) : Nat := 0x20000000000 + b * 0x4000000000

/-- Populated bytes of a stack window (R197). -/
def windowSize : Nat := 0x3C00000000

/-- The first address of CXL port `p`'s range. -/
def cxlBase (p : Nat) : Nat := 0x100000000000 + p * 0x20000000000

/-- Offset `o` of basin `b`'s window: the stack and the address within it (R197). -/
def stackOf (b o : Nat) : Nat × Nat :=
  let g := o / 4096
  (3 * b + g % 3, g / 3 * 4096 + o % 4096)

/-- Pseudo-channel of a stack address (R197). -/
def pseudoChannel (stAddr : Nat) : Nat := stAddr / 256 % 32

/-- The pool bank of offset `o` within a basin's pools (R181). -/
def bankOf (o : Nat) : Nat :=
  let s := o / 0x01000000
  if s < 2 then o / 256 % 16 else 16 + 8 * (s - 2) + o / 256 % 8

/-- The marking unit at an address: 256 bytes in the pools, 64 in stacks and the CXL tier (R224, R225). -/
def poisonUnit (a : Nat) : Nat := if a < 0x40000000 then 256 else 64

/-! ### Sparse byte memories -/

/-- `n` bytes from `a` on of a memory whose unlisted bytes are given by `dflt`; `cells` ascends and starts at or
above `a`. -/
def readCells (dflt : Nat → Byte) : Nat → Nat → List Host.Cell → Bytes
  | 0, _, _ => []
  | n + 1, a, [] => dflt a :: readCells dflt n (a + 1) []
  | n + 1, a, (k, v) :: tl =>
    if k = a then v :: readCells dflt n (a + 1) tl else dflt a :: readCells dflt n (a + 1) ((k, v) :: tl)

/-- The cells of a byte string placed at `a`. -/
def cellsOf : Nat → Bytes → List Host.Cell
  | _, [] => []
  | a, b :: bs => (a, b) :: cellsOf (a + 1) bs

/-- The cells of a byte string placed at `a`, bytes equal to 0 left out. -/
def cellsOfNonzero : Nat → Bytes → List Host.Cell
  | _, [] => []
  | a, b :: bs => if b = 0 then cellsOfNonzero (a + 1) bs else (a, b) :: cellsOfNonzero (a + 1) bs

/-- Replace the cells of [a, a + n) by the given ones. -/
def spliceCells (cells : List Host.Cell) (a n : Nat) (new : List Host.Cell) : List Host.Cell :=
  cells.filter (fun c => c.1 < a) ++ new ++ cells.filter (fun c => a + n ≤ c.1)

/-- Read `n` bytes at `a`; unlisted bytes are 0. -/
def memRead (cells : List Host.Cell) (a n : Nat) : Bytes :=
  readCells (fun _ => 0) n a (cells.filter fun c => a ≤ c.1 && c.1 < a + n)

/-- Write bytes at `a` into a memory whose unlisted bytes are 0, in canonical form. -/
def memWrite (cells : List Host.Cell) (a : Nat) (bs : Bytes) : List Host.Cell :=
  spliceCells cells a bs.length (cellsOfNonzero a bs)

/-- Addresses strictly rise. -/
def cellsRise : List Host.Cell → Bool
  | [] => true
  | [_] => true
  | a :: b :: tl => a.1 < b.1 && cellsRise (b :: tl)

/-- The canonical form of a memory whose unlisted bytes are 0: addresses strictly rise and no listed byte is 0. -/
def memWf (cells : List Host.Cell) : Bool := cellsRise cells && cells.all fun c => c.2 != 0

/-- The 64 KiB pages (address / 65,536) that `n` bytes at `a` touch. -/
def pagesOf (a n : Nat) : List Nat :=
  if n = 0 then [] else (List.range ((a + n - 1) / 65536 - a / 65536 + 1)).map (· + a / 65536)

/-- First addresses of the marking units that [a, a + n) touches. -/
def unitsTouched (a n : Nat) : List Nat :=
  let u := poisonUnit a
  if n = 0 then [] else (List.range ((a + n - 1) / u - a / u + 1)).map fun i => (a / u + i) * u

/-- Merge two ascending lists without repeats. -/
def mergeAsc : Nat → List Nat → List Nat → List Nat
  | 0, xs, ys => xs ++ ys
  | _ + 1, [], ys => ys
  | _ + 1, xs, [] => xs
  | n + 1, x :: xs, y :: ys =>
    if x < y then x :: mergeAsc n xs (y :: ys)
    else if y < x then y :: mergeAsc n (x :: xs) ys
    else x :: mergeAsc n xs ys

/-- Add the members of an ascending list to an ascending list. -/
def insertAll (xs ys : List Nat) : List Nat := mergeAsc (xs.length + ys.length) xs ys

/-! ### Free values -/

/-- A free byte string for content that the specification leaves undefined, and the counter moved on. -/
def State.freeBytes (s : State) (a n : Nat) : Bytes × State :=
  ((List.range n).map fun i => Config.freeByte s.freeCount (a + i), { s with freeCount := s.freeCount + 1 })

/-- A number that the specification leaves open, and the counter moved on. -/
def State.freeNat (s : State) : Nat × State := (Config.freeNat s.freeCount, { s with freeCount := s.freeCount + 1 })

/-- A draw of the security block's random source. -/
def State.random (s : State) : Nat × State := (Config.randomNat s.randomCount, { s with randomCount := s.randomCount + 1 })

/-! ### Reading and writing device memory -/

/-- A block as it stands on the device of CXL port `q`, encrypted under the port's keys unless it is plain (R210, R211);
`j` counts blocks of 16 bytes in the port's range. -/
def CxlPort.toMedia (c : CxlPort) (q j : Nat) (block : Bytes) : Bytes :=
  match c.keys with
  | some (k1, k2) =>
    if c.plain then block
    else
      let t := xtsTweak (toLE 16 k2) (cxlBase q + j / 16 * 256) (j % 16)
      xorB (sm4Encrypt (toLE 16 k1) (xorB block t)) t
  | none => block

/-- What a block of the device reads as under the port's keys (R210, R211). -/
def CxlPort.fromMedia (c : CxlPort) (q j : Nat) (block : Bytes) : Bytes :=
  match c.keys with
  | some (k1, k2) =>
    if c.plain then block
    else
      let t := xtsTweak (toLE 16 k2) (cxlBase q + j / 16 * 256) (j % 16)
      xorB (sm4Decrypt (toLE 16 k1) (xorB block t)) t
  | none => block

/-- A byte that was not written under the present keys: what earlier keys left on the device, or a free value of the
device's own contents (assumption 11). -/
def CxlPort.rest (c : CxlPort) (q i : Nat) : Byte :=
  match c.media.find? fun x => x.1 == i / 16 with
  | some x => (c.fromMedia q x.1 x.2).getD (i % 16) 0
  | none => Config.cxlByte q (if c.plain then c.medium else c.epoch) i

/-- The word of a cell (Table 13.1). -/
def SyncCell.word (c : SyncCell) : Nat :=
  c.count.toNat + (c.target.toNat <<< 16) + (c.owner.toNat <<< 32) + (if c.owned then 1 <<< 39 else 0)

/-- Byte `i` of the sync and control space (Table 13.2): cell words at the start of a basin's part; the layout of the task
slots, counters and tree records is not stated (assumption 12); every other offset reads as 0. -/
def State.syncByte (s : State) (i : Nat) : Byte :=
  let b := i / 0x100000
  let o := i % 0x100000
  if b < 8 && o < 0x800 then (toLE 8 ((s.basin b).cells.getD (o / 8) {}).word).getD (o % 8) 0
  else if b < 8 && (0x10000 ≤ o && o < 0xA0000) || 0x800000 ≤ i && i < 0x1000000 then Config.controlSpace i
  else 0

/-- Read `n` bytes at device address `a`. The range lies in one region (R193 and R207 see to that). -/
def State.read (s : State) (a n : Nat) : Bytes :=
  match placeOf a with
  | .cxl p o =>
    let c := s.port p
    readCells (c.rest p) n o (c.bytes.filter fun x => o ≤ x.1 && x.1 < o + n)
  | .syncSpace o => (List.range n).map fun i => s.syncByte (o + i)
  | _ => memRead s.mem a n

/-- One byte of device memory. -/
def State.readByte (s : State) (a : Nat) : Byte := (s.read a 1).headD 0

/-- The keys of CXL port `q` go: what they wrote stays on the device as it stands there (R210, R211). -/
def State.sealPort (s : State) (q : Nat) : State :=
  let c := s.port q
  let blocks := ((c.bytes.map (·.1 / 16)).eraseDups).map fun j => (j, c.toMedia q j (s.read (cxlBase q + 16 * j) 16))
  s.modPort q fun c =>
    { c with bytes := [], media := c.media.filter (fun x => !blocks.any fun y => y.1 == x.1) ++ blocks, keys := none
             epoch := c.epoch + 1 }

/-- A port without a device (R208). -/
def CxlPort.absent (c : CxlPort) : CxlPort :=
  { state := .absent, epoch := c.epoch + 1, failed := c.failed, prsntHigh := c.prsntHigh, resetUntil := c.resetUntil }

/-- A port in LOST returns to ABSENT once the host has acknowledged CXL_LOST and the link is down (R208). -/
def CxlPort.leaveLost (c : CxlPort) : CxlPort := if c.state == .lost && c.acked && !c.linkUp then c.absent else c

/-- Level of CXLp_PERST_L of port `q`: low before READY, in HELD and FAULT and during a hot reset (R438). -/
def State.cxlPerst (s : State) (q : Nat) : Bool :=
  s.power == .up && s.faultCause.isNone && !(s.time < (s.port q).resetUntil)

/-- CXL port `q` gets two keys of its own from the random source (R210). -/
def State.drawKeys (s : State) (q : Nat) : State :=
  let (a, s) := s.random
  let (b, s) := s.random
  s.modPort q fun c => { c with keys := some (a % 2 ^ 128, b % 2 ^ 128) }

/-- Page `a` is pending in a capture of the partition and has not been read (R365). -/
def Partition.isUnread (x : Partition) (a : Nat) : Bool :=
  [x.capture, x.checkpoint].any fun c => match c with
    | some c => c.unread.any fun y => y.1 == a
    | none => false

/-- Note a write for captures (R365, R366, R373): its pages become dirty and written in every partition. -/
def notePages (pages : List Nat) (p : Partition) : Partition :=
  { p with cleanA := p.cleanA.filter fun x => !pages.contains x
           cleanB := p.cleanB.filter fun x => !pages.contains x
           writtenPages := p.writtenPages ++ pages.filter fun x => !p.writtenPages.contains x
           touched := p.touched ++ pages.filter fun x => p.isUnread x && !p.touched.contains x && !p.shadowed.contains x }

/-- The bytes of a write at device address `a`, its markings left aside. -/
def State.writeBytes (s : State) (a : Nat) (bs : Bytes) : State :=
  let pages := pagesOf a bs.length
  match placeOf a with
  | .cxl p o =>
    let s := s.modPort p fun c => { c with bytes := spliceCells c.bytes o bs.length (cellsOf o bs) }
    { s with partitions := s.partitions.map (notePages pages) }
  | .pool _ _ => { s with mem := memWrite s.mem a bs }
  | _ => { s with mem := memWrite s.mem a bs, partitions := s.partitions.map (notePages pages) }

/-- The poison list after a write of [a, a + n) in units of `u`: units marked, or cleared where wholly covered (R225). -/
def markUnits (poison : List Nat) (u a n : Nat) (mark : Bool) : List Nat :=
  if mark then
    insertAll poison (if n = 0 then [] else (List.range ((a + n - 1) / u - a / u + 1)).map fun i => (a / u + i) * u)
  else poison.filter fun x => !(a ≤ x && x + u ≤ a + n)

/-- Mark the units where [a, a + n) is stored, or clear those it covers (R224, R225). -/
def State.markStored (s : State) (a n : Nat) (mark : Bool) : State :=
  match placeOf a with
  | .cxl p o => s.modPort p fun c => { c with poison := (markUnits (c.poison.map (· * 64)) 64 o n mark).map (· / 64) }
  | _ => { s with poison := markUnits s.poison (poisonUnit a) a n mark }

/-- A unit where [a, a + n) is stored is poisoned. -/
def State.storedPoison (s : State) (a n : Nat) : Bool :=
  match placeOf a with
  | .cxl p o => (s.port p).poison.any fun u => u * 64 < o + n && o < u * 64 + 64
  | _ => let u := poisonUnit a; s.poison.any fun x => x < a + n && a < x + u && (x < 0x40000000) == (a < 0x40000000)

/-! ### Home cache (R189, R190) -/

/-- The basin whose home cache stands in front of a device address, if any. -/
def homeOf (a : Nat) : Option Nat :=
  match placeOf a with
  | .stack b _ => some b
  | .cxl p _ => some p
  | _ => none

/-- The home cache through which accesses to `a` go: none while its size is 0 or changes (R191), with its basin in SERVICE
or RETIRED (R190), and for a port in LOST (R213). -/
def State.cacheOf (s : State) (a : Nat) : Option Nat :=
  match homeOf a with
  | some b =>
    let x := s.basin b
    let changing := s.opens.any fun o => match o.kind with
      | .poolMode c _ => c == b
      | _ => false
    let lost := match placeOf a with
      | .cxl p _ => (s.port p).state == .lost
      | _ => false
    if x.cache.size = 0 || x.state == .service || x.state == .retired || changing || lost then none else some b
  | none => none

/-- The way that a replacement tree of 15 bits points at: bit i at node i, 0 to the left (assumption 21). -/
def treeVictim (t : BitVec 15) : Nat :=
  let n1 := if t.getLsbD 0 then 2 else 1
  let n2 := 2 * n1 + (if t.getLsbD n1 then 2 else 1)
  let n3 := 2 * n2 + (if t.getLsbD n2 then 2 else 1)
  2 * (n3 - 7) + (if t.getLsbD n3 then 1 else 0)

/-- Point the nodes on the path of way `w` away from it. -/
def treeTouch (t : BitVec 15) (w : Nat) : BitVec 15 :=
  let n1 := 1 + w / 8 % 2
  let n2 := 2 * n1 + 1 + w / 4 % 2
  let n3 := 2 * n2 + 1 + w / 2 % 2
  let put (t : BitVec 15) (i : Nat) (right : Bool) : BitVec 15 :=
    if right then t &&& ~~~ (1#15 <<< i) else t ||| (1#15 <<< i)
  put (put (put (put t 0 (w / 8 % 2 == 1)) n1 (w / 4 % 2 == 1)) n2 (w / 2 % 2 == 1)) n3 (w % 2 == 1)

/-- An access to a line: a read, or a write of data that is marked or not and covers the whole line or not. -/
inductive LineAccess where
  | read
  | write (mark whole : Bool)
  deriving DecidableEq, Repr

/-- The marking of a line after an access (R225). -/
def LineAccess.marks (poison : Bool) : LineAccess → Bool
  | .read => poison
  | .write mark whole => mark || (poison && !whole)

/-- One access to a line (R190): a hit, or an allocation in a free way or in place of the least recently used way, filled
with the marking `stored`. The line that was replaced comes out. -/
def HomeCache.touch (c : HomeCache) (line : Nat) (x : LineAccess) (stored : Bool) : HomeCache × Option CacheLine :=
  let set := line % (4096 * c.size)
  let inSet := c.lines.filter fun y => y.1 == set
  let tree := ((c.trees.find? fun y => y.1 == set).map (·.2)).getD 0
  let putTree (w : Nat) := (c.trees.filter fun y => y.1 != set) ++ [(set, treeTouch tree w)]
  match inSet.find? fun y => y.2.line == line with
  | some (_, l) =>
    ({ c with lines := c.lines.map fun y =>
                if y.1 == set && y.2.line == line then
                  (y.1, { l with dirty := l.dirty || x != .read, poison := x.marks l.poison }) else y
              trees := putTree l.way }, none)
  | none =>
    let w := ((List.range 16).find? fun w => !inSet.any fun y => y.2.way == w).getD (treeVictim tree)
    ({ c with lines := (c.lines.filter fun y => !(y.1 == set && y.2.way == w)) ++
                [(set, { line := line, way := w, dirty := x != .read, poison := x.marks stored })]
              trees := putTree w }, (inSet.find? fun y => y.2.way == w).map (·.2))

/-- Line `line` of basin `b`'s home cache. -/
def State.lineOf (s : State) (b line : Nat) : Option CacheLine :=
  ((s.basin b).cache.lines.find? fun y => y.2.line == line).map (·.2)

/-- The home cache of `a` holds its line, so that no read of it reaches the memory (R189). -/
def State.cached (s : State) (a : Nat) : Bool := (s.cacheOf a).any fun b => (s.lineOf b (a / 256)).isSome

/-- A line leaves the cache: a dirty one is written back with its marking (R190, R224); for a clean one the memory shows
what is stored, other bytes where a scrub left them (R203). -/
def State.writeBack (s : State) (l : CacheLine) : State :=
  if l.dirty then s.markStored (256 * l.line) 256 l.poison
  else l.damaged.foldl (fun (s : State) i =>
    let (bs, s) := s.freeBytes (256 * l.line + 64 * i) 64
    s.writeBytes (256 * l.line + 64 * i) bs) s

/-- An access to one line through basin `b`'s home cache (R190, R224). -/
def State.touchLine (s : State) (b line : Nat) (x : LineAccess) : State :=
  let (c, out) := (s.basin b).cache.touch line x (s.storedPoison (256 * line) 256)
  let s := s.modBasin b fun y => { y with cache := c }
  match out with
  | some l => s.writeBack l
  | none => s

/-- The lines that [a, a + n) touches. -/
def linesOf (a n : Nat) : List Nat :=
  if n = 0 then [] else (List.range ((a + n - 1) / 256 - a / 256 + 1)).map (· + a / 256)

/-- A read of [a, a + n) passes the home cache of its addresses (R189, R190). -/
def State.touchCache (s : State) (a n : Nat) : State :=
  match s.cacheOf a with
  | some b => (linesOf a n).foldl (fun s l => s.touchLine b l .read) s
  | none => s

/-- The markings of a write of [a, a + n): in the home cache's lines, or where it is stored (R224, R225). -/
def State.mark (s : State) (a n : Nat) (mark : Bool) : State :=
  match s.cacheOf a with
  | some b => (linesOf a n).foldl (fun s l => s.touchLine b l (.write mark (a ≤ 256 * l && 256 * l + 256 ≤ a + n))) s
  | none => s.markStored a n mark

/-- Mark the units that [a, a + n) touches. -/
def State.markRange (s : State) (a n : Nat) : State := s.mark a n true

/-- Write bytes at device address `a`, marked poisoned or not (R224, R225), through the home cache of the address (R189),
whose lines make room first. What a LOST CXL port does with it is said by `State.put`. -/
def State.write (s : State) (a : Nat) (bs : Bytes) (poison : Bool) : State := (s.mark a bs.length poison).writeBytes a bs

/-- A unit that [a, a + n) touches reads as poisoned: a line of the home cache, which a read would fill, or a unit where it
is stored (R224). Reads of a LOST port are poisoned (R213). -/
def State.poisoned (s : State) (a n : Nat) : Bool :=
  match s.cacheOf a with
  | some b => (linesOf a n).any fun l =>
      match s.lineOf b l with
      | some x => x.poison
      | none => s.storedPoison (256 * l) 256
  | none =>
    match placeOf a with
    | .cxl p _ => (s.port p).state == .lost || s.storedPoison a n
    | _ => s.storedPoison a n

/-- Write back and invalidate the lines of basin `b`'s home cache that satisfy a test (R190). -/
def State.flushLines (s : State) (b : Nat) (p : CacheLine → Bool) : State :=
  (((s.basin b).cache.lines.map (·.2)).filter p).foldl State.writeBack
    (s.modBasin b fun x => { x with cache := { x.cache with lines := x.cache.lines.filter fun l => !p l.2 } })

/-- Write back every dirty line of basin `b`'s cache and invalidate every line (R190). -/
def State.flushCache (s : State) (b : Nat) : State :=
  (s.flushLines b fun _ => true).modBasin b fun x => { x with cache := { x.cache with trees := [] } }

/-- A line of CXL port `p`'s range. -/
def CacheLine.ofPort (p : Nat) (l : CacheLine) : Bool := cxlBase p ≤ l.line * 256 && l.line * 256 < cxlBase (p + 1)

/-- The lines of a port's range are written back and leave its home cache (R190). -/
def State.flushPortLines (s : State) (p : Nat) : State := s.flushLines p (CacheLine.ofPort p)

/-- Set a range of the pools or stacks to zero and clear its markings (R195, R407). -/
def State.zeroRange (s : State) (a n : Nat) : State :=
  { s with mem := spliceCells s.mem a n []
           poison := s.poison.filter fun x => !(a ≤ x && x < a + n) }

/-- Zero every bank of basin `b` (R195). -/
def State.zeroPools (s : State) (b : Nat) : State := s.zeroRange (poolBase b) poolSize

/-- Wipe the populated stack window of basin `b` (R407). -/
def State.wipeWindow (s : State) (b : Nat) : State := s.zeroRange (windowBase b) windowSize

/-- A wipe of basin `b`'s stacks begins: its bytes are zero for every access, which waits until the wipe has passed (R407). -/
def State.startWipe (s : State) (b : Nat) : State := (s.wipeWindow b).modBasin b fun x => { x with wiping := true, wipeStart := s.time }

/-- Nanoseconds in which a wipe passes the first `n` bytes of a window: 52.4 ms for all of it, in ascending order (R407). -/
def wipeTime (n : Nat) : Nat := ceilDiv (52400000 * n) windowSize

/-- The wipe of basin `b` has not passed the 4 KiB granule of offset `o` in its window (R407). -/
def State.wipeHolds (s : State) (b o : Nat) : Bool :=
  let x := s.basin b
  x.wiping && s.time < x.wipeStart + wipeTime (4096 * (o / 4096 + 1))

/-! ### Statistics counters (R303, Table 15.9) -/

/-- Advance one hardware counter by `n`: modulo 2^48 with a carry bit. -/
def StatCounter.bump (n : Nat) (c : StatCounter) : StatCounter :=
  { c with raw := (c.raw + n) % 2 ^ 48, carry := c.carry || c.raw + n ≥ 2 ^ 48 }

/-- Advance the counter (scope, index, position) by `n`. -/
def State.bump (s : State) (scope idx pos : Nat) (n : Nat := 1) : State :=
  if n = 0 then s
  else if s.counters.any fun c => c.scope == scope && c.idx == idx && c.pos == pos then
    { s with counters := s.counters.map fun c =>
        if c.scope == scope && c.idx == idx && c.pos == pos then c.bump n else c }
  else { s with counters := s.counters ++ [StatCounter.bump n { scope := scope, idx := idx, pos := pos }] }

/-- poll(c) of R303: read and clear the carry bit, extend. -/
def StatCounter.poll (c : StatCounter) : StatCounter :=
  let h := if c.carry then c.high + 1 else c.high
  { c with carry := false, high := h, ext := (h * 2 ^ 48 + c.raw) % 2 ^ 64 }

/-- The counter (scope, index, position), at 0 when it never advanced. -/
def State.counter (s : State) (scope idx pos : Nat) : StatCounter :=
  (s.counters.find? fun c => c.scope == scope && c.idx == idx && c.pos == pos).getD
    { scope := scope, idx := idx, pos := pos }

/-- read(c) of R303: the extended value. -/
def State.counterValue (s : State) (scope idx pos : Nat) : Nat := (s.counter scope idx pos).poll.ext

/-- Poll one counter. -/
def State.pollCounter (s : State) (scope idx pos : Nat) : State :=
  { s with counters := s.counters.map fun c =>
      if c.scope == scope && c.idx == idx && c.pos == pos then c.poll else c }

/-- Number of counters of a scope (Table 15.9). -/
def scopeSize : Nat → Nat
  | 0 => 7 | 1 => 2 | 2 => 26 | 3 => 3 | 4 => 2 | 5 => 8 | 6 => 2 | _ => 0

/-- Number of indexes of a scope (Table 15.9). -/
def scopeCount : Nat → Nat
  | 0 => 1 | 1 => 8 | 2 => 8 | 3 => 128 | 4 => 24 | 5 => 12 | 6 => 8 | _ => 0

/-! Positions of the counters of Table 15.9. -/

/-- Device counters (scope 0). -/
def State.bumpDevice (s : State) (pos : Nat) : State := s.bump 0 0 pos
/-- Position of HOP_LIMIT. -/
def cHopLimit : Nat := 0
/-- Position of NO_ROUTE. -/
def cNoRoute : Nat := 1
/-- Position of NO_CONTEXT. -/
def cNoContext : Nat := 2
/-- Position of DUP_DISCARD. -/
def cDupDiscard : Nat := 3
/-- Position of SEQ_REJECT. -/
def cSeqReject : Nat := 4
/-- Position of E2E_RESEND. -/
def cE2eResend : Nat := 5
/-- Position of STAMP_STALE. -/
def cStampStale : Nat := 6
/-- Basin counters (scope 2). -/
def State.bumpBasin (s : State) (b pos : Nat) (n : Nat := 1) : State := s.bump 2 b pos n
/-- Position of LATE_DISCARD. -/
def cLateDiscard : Nat := 5
/-- Position of ROUTE_EMPTY. -/
def cRouteEmpty : Nat := 6
/-- Position of ROUTE_ABSENT. -/
def cRouteAbsent : Nat := 7
/-- Position of XFER_RETRY. -/
def cXferRetry : Nat := 8
/-- Position of XFER_POISON. -/
def cXferPoison : Nat := 9
/-- Position of TILE_RETRY. -/
def cTileRetry : Nat := 10
/-- Position of TILE_POISON. -/
def cTilePoison : Nat := 11
/-- Position of POOL_CE. -/
def cPoolCe : Nat := 12
/-- Position of POOL_UE. -/
def cPoolUe : Nat := 13
/-- Position of WEIR_CLOSED. -/
def cWeirClosed : Nat := 14
/-- Position of LATE_ADDED. -/
def cLateAdded : Nat := 15
/-- Position of LATE_DROPPED. -/
def cLateDropped : Nat := 16
/-- Position of LATE_STALE. -/
def cLateStale : Nat := 17
/-- Position of SCALE_RAISE. -/
def cScaleRaise : Nat := 18
/-- Position of SCALE_EMPTY. -/
def cScaleEmpty : Nat := 19
/-- Position of COLL_BROKEN. -/
def cCollBroken : Nat := 20
/-- Position of DISPATCH_OVER. -/
def cDispatchOver : Nat := 21
/-- Position of RECV_BOUND. -/
def cRecvBound : Nat := 22
/-- Position of SYNC_SATURATED. -/
def cSyncSaturated : Nat := 23
/-- Position of SYNC_REJECT. -/
def cSyncReject : Nat := 24
/-- Position of BARRIER_LOST. -/
def cBarrierLost : Nat := 25
/-- Task slot counters (scope 3): slot `k` of basin `b`. -/
def State.bumpSlot (s : State) (b k pos : Nat) (n : Nat := 1) : State := s.bump 3 (16 * b + k) pos n
/-- Position of NAN_TO_INT. -/
def cNanToInt : Nat := 0
/-- Position of POISON_MARKED. -/
def cPoisonMarked : Nat := 1
/-- Position of POISON_UNLOCATED. -/
def cPoisonUnlocated : Nat := 2
/-- Folham port counters (scope 5). -/
def State.bumpFolham (s : State) (p pos : Nat) (n : Nat := 1) : State := s.bump 5 p pos n

/-! ### Device state (R321, R322) -/

/-- Code of a basin state (Table 14.9). -/
def BasinState.code : BasinState → Nat
  | .idle => 0 | .active => 1 | .draining => 2 | .service => 3 | .retired => 4

/-- Device states (Table 14.9); OFF has no encoding. -/
inductive DevState where
  | off | boot | held | ready | running | service | fault
  deriving DecidableEq, Repr

/-- The device state, from the first of R322 that holds. -/
def State.devState (s : State) : DevState :=
  match s.power with
  | .off => .off
  | .boot => if s.faultCause.isSome then .fault else .boot
  | .held => if s.faultCause.isSome then .fault else .held
  | .up =>
    if s.faultCause.isSome then .fault
    else if s.basins.any fun b => b.state == .draining || b.state == .service then .service
    else if s.partitions.any (·.isOpen) then .running
    else .ready

/-- Encoding of DeviceState (Table 14.9). -/
def DevState.code : DevState → Nat
  | .off => 0 | .boot => 1 | .held => 2 | .ready => 3 | .running => 4 | .service => 5 | .fault => 6

/-- Function `f` sees basin `b` (R321): the physical function every basin, virtual function v those of partition
v − 1. -/
def State.seesBasin (s : State) (f b : Nat) : Bool := f == 0 || s.holdsBasin (f - 1) b

/-- BasinStates in the view of function `f` (Table 14.9). -/
def State.basinStates (s : State) (f : Nat) : Nat :=
  (List.range 8).foldl (fun acc b =>
    acc + ((if s.seesBasin f b then (s.basin b).state.code else 15) <<< (4 * b))) 0

/-- OpenPartitions in the view of function `f` (R321). -/
def State.openPartitions (s : State) (f : Nat) : Nat :=
  (List.range 8).foldl (fun acc p =>
    acc + (if (s.partition p).isOpen && (f == 0 || f == p + 1) then 2 ^ p else 0)) 0

/-- The state register (Table 14.9) in the view of function `f`. -/
def State.stateRegister (s : State) (f : Nat) : Nat :=
  s.basinStates f + (s.devState.code <<< 32) + (s.openPartitions f <<< 48) +
    ((if s.devState == .fault then (s.faultCause.getD 0).toNat else 0) <<< 56)

/-! ### MSI-X, alerts (R317, R325 to R328) -/

/-- Signal MSI-X vector `v` of function `f`: a message, or the pending bit when the vector is masked (R317). -/
def State.signal (s : State) (f v : Nat) : State :=
  if (memRead (s.func f).msixTable (16 * v + 12) 1).headD 0 &&& 1 == 0 then { s with msix := s.msix ++ [(f, v)] }
  else s.modFunc f fun x => { x with msixPending := x.msixPending ||| BitVec.ofNat 64 (2 ^ v) }

/-- Virtual functions see an occurrence of alert `a` with Detail `d` only in their own units (Table 14.13). -/
def State.seesAlert (s : State) (f a d : Nat) : Bool :=
  if f == 0 then true
  else
    let p := f - 1
    match a with
    | 0 | 5 => s.holdsBasin p d
    | 4 => true
    | 6 => s.holdsBasin p (d / 3)
    | 8 => d < 16 && s.holdsBasin p d
    | 10 => s.holdsPort p d
    | 13 => (s.partition p).isOpen && d == p
    | _ => false

/-- Record one occurrence in an alert register (R325). -/
def AlertReg.occur (d : Nat) (r : AlertReg) : AlertReg :=
  { flag := true, count := r.count + 1, detail := BitVec.ofNat 8 d }

/-- Record an occurrence of alert `a` in the copy of function `f`, if it sees it, with its interrupt (R325, R328). -/
def State.raiseIn (s : State) (a d f : Nat) : State :=
  if s.seesAlert f a d then
    let s := s.modFunc f fun x => { x with alerts := x.alerts.modify a (AlertReg.occur d) }
    let s := { s with alertTotals := s.alertTotals.modify f fun t => t.modify a fun n => (n + 1) % 2 ^ 64 }
    if (s.func f).mask.getLsbD a then s else s.signal f 4
  else s

/-- An occurrence of alert `a` with Detail `d`: every copy that sees it, MSI-X vector 4, and an I3C in-band
interrupt when the physical function's copy is not masked (R325, R328, R330). -/
def State.raise (s : State) (a d : Nat) : State :=
  let s := (List.range 9).foldl (fun s f => s.raiseIn a d f) s
  if (s.func 0).mask.getLsbD a then s else { s with ibis := s.ibis + 1 }

/-- ALERT_L is asserted (R328, R441). -/
def State.alertL (s : State) : Bool :=
  !s.perst && (List.range 17).any fun a => ((s.func 0).alerts.getD a {}).flag && !(s.func 0).mask.getLsbD a

/-- The alert summary of function `f` (Table 14.2). -/
def State.alertSummary (s : State) (f : Nat) : Nat :=
  (List.range 17).foldl (fun acc a => acc + (if ((s.func f).alerts.getD a {}).flag then 2 ^ a else 0)) 0

/-- The 32 bits of an alert register (Table 14.12). -/
def AlertReg.word (r : AlertReg) : Nat :=
  r.count.toNat + (if r.flag then 65536 else 0) + (r.detail.toNat <<< 24)

/-! ### Event records (R319, R320) -/

/-- Put the records that wait into the ring while it has room (R319). -/
def drainRing : Nat → Mailbox → Mailbox
  | 0, m => m
  | n + 1, m =>
    match m.waiting with
    | [] => m
    | r :: rs =>
      if (m.eventTail - m.eventHead).toNat = 128 then m
      else drainRing n { m with ring := (m.ring.filter fun x => x.1 != m.eventTail.toNat % 128) ++ [(m.eventTail.toNat % 128, r)]
                                eventTail := m.eventTail + 1, waiting := rs }

/-- Post an event record to mailbox `m` of function `f`, with MSI-X vector `m` for each record that enters (R317,
R319). A waiting capture record is replaced by a newer one with the same code of the same partition (R383). -/
def State.post (s : State) (f m : Nat) (r : EventRec) : State :=
  let before := (s.mailbox f m).eventTail
  let s := s.modMailbox f m fun x =>
    let w := match r.source with
      | .capture .. => x.waiting.filter fun y => y.source != r.source
      | .slot .. => x.waiting
    drainRing (x.waiting.length + 1) { x with waiting := w ++ [r] }
  let entered := ((s.mailbox f m).eventTail - before).toNat
  (List.range entered).foldl (fun s _ => s.signal f m) s

/-- Device time in the view of function `f`: rounded down to 1,000 ns for a virtual function (R409). -/
def State.timeFor (s : State) (f : Nat) : Nat := if f == 0 then s.time else s.time / 1000 * 1000

/-- The bytes of a record with the layout of Table 14.7. -/
def recordBytes (kind code basin slot step time position d0 d1 d2 d3 : Nat) : Bytes :=
  toLE 2 kind ++ toLE 2 code ++ toLE 1 basin ++ toLE 1 slot ++ toLE 2 0 ++ toLE 8 step ++ toLE 8 time ++
    toLE 8 position ++ toLE 4 d0 ++ toLE 4 d1 ++ toLE 8 d2 ++ toLE 8 d3 ++ zeros 8

/-- Post a record of slot (b, k) to its task's mailbox (R319). -/
def State.postSlot (s : State) (b k kind code d0 d1 d2 d3 : Nat) : State :=
  let x := s.slot b k
  s.post x.fn x.mailbox ⟨.slot b k, recordBytes kind code b k (s.stepOf b) (s.timeFor x.fn) x.position d0 d1 d2 d3⟩

/-- Fault codes of Table 14.8. -/
inductive FaultCode where
  | illegalDescriptor | segmentFault | gangUnavailable | tileHeader | unsortedStream | poisonUnlocated
  | sequenceTable | groupUndefined | treeUndefined | noPeer | basinLost
  deriving DecidableEq, Repr

/-- The code of a fault (Table 14.8). -/
def FaultCode.code : FaultCode → Nat
  | .illegalDescriptor => 1 | .segmentFault => 2 | .gangUnavailable => 3 | .tileHeader => 4 | .unsortedStream => 5
  | .poisonUnlocated => 6 | .sequenceTable => 7 | .groupUndefined => 8 | .treeUndefined => 9 | .noPeer => 10
  | .basinLost => 11

/-- Halt slot (b, k): it leaves State 2 for State 3 and posts its fault record. A slot in another State, or one that a
clearing has stopped, posts nothing (R319). -/
def State.halt (s : State) (b k : Nat) (c : FaultCode) (d0 d1 d2 d3 : Nat) : State :=
  if (s.slot b k).state == .running && !(s.slot b k).clearing then
    (s.postSlot b k 1 c.code d0 d1 d2 d3).modSlot b k fun x => { x with state := .halted }
  else s

/-! ### Sync cells (R285, R286) -/

/-- Cell `c` of basin `b`. -/
def State.cell (s : State) (b c : Nat) : SyncCell := (s.basin b).cells.getD c {}

/-- Change cell `c` of basin `b`. -/
def State.modCell (s : State) (b c : Nat) (f : SyncCell → SyncCell) : State :=
  s.modBasin b fun x => { x with cells := x.cells.modify c f }

/-- A cell is set while Count ≥ Target (R285). -/
def SyncCell.isSet (c : SyncCell) : Bool := c.target.toNat ≤ c.count.toNat

/-- Add `v` to a cell's Count, which stays at 0xFFFF and counts SYNC_SATURATED when it would pass it (R286). -/
def State.addCell (s : State) (b c v : Nat) : State :=
  let n := (s.cell b c).count.toNat + v
  let s := s.modCell b c fun x => { x with count := BitVec.ofNat 16 (min n 0xFFFF) }
  if n > 0xFFFF then s.bumpBasin b cSyncSaturated else s

/-! ### Flights: issued descriptors (R25, R185) -/

/-- The 4 KiB granules that the ranges touch. -/
def granulesOf (rs : List Range) : List Nat :=
  rs.flatMap fun r => if r.2 = 0 then [] else (List.range ((r.1 + r.2 - 1) / 4096 - r.1 / 4096 + 1)).map (· + r.1 / 4096)

/-- A range touches granule `g`. -/
def touchesGranule (g : Nat) (r : Range) : Bool := r.2 != 0 && r.1 / 4096 ≤ g && g ≤ (r.1 + r.2 - 1) / 4096

/-- Two ranges share a byte. -/
def rangesMeet (r q : Range) : Bool := r.1 < q.1 + q.2 && q.1 < r.1 + r.2 && r.2 != 0 && q.2 != 0

/-- Two ranges share a 4 KiB granule. -/
def granulesMeet (r q : Range) : Bool :=
  r.2 != 0 && q.2 != 0 && r.1 / 4096 ≤ (q.1 + q.2 - 1) / 4096 && q.1 / 4096 ≤ (r.1 + r.2 - 1) / 4096

/-- An issued descriptor still has a write to granule `g` to make visible (R185). -/
def Flight.willWrite (g : Nat) (f : Flight) : Bool := !f.lowered.contains g && f.writes.any (touchesGranule g)

/-- The pending-write count of pool granule `g` (R185): the issued descriptors that will write it. -/
def State.pendingCount (s : State) (g : Nat) : Nat := (s.flights.filter (Flight.willWrite g)).length

/-- An issued descriptor still has a write to make visible in a granule that the range touches. -/
def Flight.pendingIn (r : Range) (f : Flight) : Bool :=
  f.writes.any (granulesMeet r) && (f.lowered.isEmpty || (granulesOf [r]).any fun g => f.willWrite g)

/-- Counts that were lowered before their descriptor completed: (descriptor, granule) pairs (R185). -/
def State.lowerCounts (s : State) (xs : List (Nat × Nat)) : State :=
  { s with flights := s.flights.map fun (f : Flight) =>
      { f with lowered := f.lowered ++ (xs.filter fun x => x.1 == f.id && !f.lowered.contains x.2).map (·.2) } }

/-- The descriptor may issue as far as pending counts go: none of its granules is at 255 (R185). -/
def State.countsAllow (s : State) (rs : List Range) : Bool :=
  (rs.filter fun r => r.1 < 0x40000000).all fun r =>
    let near := s.flights.filter fun f => f.writes.any (granulesMeet r)
    near.length < 255 || (granulesOf [r]).all fun g => s.pendingCount g < 255

/-- Add an issued descriptor. -/
def State.addFlight (s : State) (f : Flight) : State :=
  { s with flights := s.flights ++ [{ f with id := s.nextFlight }], nextFlight := s.nextFlight + 1 }

/-- Remove an issued descriptor. -/
def State.dropFlight (s : State) (id : Nat) : State := { s with flights := s.flights.filter fun f => f.id != id }

/-- Complete an issued descriptor: its marks are lowered and its SetCell is set (R219, R286). A late fault then halts
the slot if it is still in State 2 (R153, R157, R227). -/
def State.completeFlight (s : State) (f : Flight) : State :=
  let s := s.dropFlight f.id
  match f.lateFault with
  | none =>
    match f.setCell with
    | some c => s.addCell f.basin c 1
    | none => s
  | some x =>
    let s := if x.code == 6 then
        match f.setCell with
        | some c => s.addCell f.basin c 1
        | none => s
      else s
    if (s.slot f.basin f.slot).state == .running && !(s.slot f.basin f.slot).clearing then
      let s := if x.code == 6 then s else s.modSlot f.basin f.slot fun y => { y with position := x.position }
      (s.postSlot f.basin f.slot 1 x.code x.detail0 x.detail1 x.detail2 x.detail3).modSlot f.basin f.slot
        fun y => { y with state := .halted }
    else s

/-- The issued descriptors of slot (b, k). -/
def State.slotFlights (s : State) (b k : Nat) : List Flight := s.flights.filter fun f => f.basin == b && f.slot == k

/-! ### Commands and responses (R309 to R313, R335) -/

/-- Status codes (Table 14.6). -/
inductive Status where
  | done | accepted | badOpcode | badArgument | stateRefused | busy | notPermitted | authFailed | resourceExhausted
  | hardwareFault | sameFeed
  deriving DecidableEq, Repr

/-- The code of a status (Table 14.6). -/
def Status.code : Status → Nat
  | .done => 0x0000 | .accepted => 0x0001 | .badOpcode => 0x0010 | .badArgument => 0x0011 | .stateRefused => 0x0020
  | .busy => 0x0021 | .notPermitted => 0x0030 | .authFailed => 0x0031 | .resourceExhausted => 0x0040
  | .hardwareFault => 0x0050 | .sameFeed => 0x0060

/-- OldestOpen of mailbox (f, m): the oldest index without a final status, or Head (Table 14.4). -/
def State.oldestOpenOf (s : State) (f m : Nat) : BitVec 16 :=
  let head := (s.mailbox f m).head
  let mine := s.opens.filter fun o => o.ticket.fn == f && o.ticket.mb == m && !o.ticket.discarded
  mine.foldl (fun acc o => if (head - o.ticket.index).toNat > (head - acc).toNat then o.ticket.index else acc) head

/-- Write a response (R312), with the states of the moment of writing and MSI-X vector `mb` (R317); one that a function
level reset discarded is not written (R318). -/
def State.respond (s : State) (t : Ticket) (st : Status) (result : Bytes) : State :=
  let r : RespSlot :=
    { opcode := t.opcode, tag := t.tag, status := BitVec.ofNat 16 st.code, index := t.index
      deviceState := BitVec.ofNat 4 s.devState.code, basinStates := BitVec.ofNat 32 (s.basinStates t.fn)
      result := sliceB result 0 48 }
  if t.discarded then s
  else
    let s := s.modMailbox t.fn t.mb fun m =>
      { m with responses := (m.responses.filter fun x => x.1 != t.index.toNat % 256) ++ [(t.index.toNat % 256, r)] }
    s.signal t.fn t.mb

/-- Set OldestOpen of a mailbox from the open commands. -/
def State.refreshOldest (s : State) (f m : Nat) : State :=
  s.modMailbox f m fun x => { x with oldestOpen := s.oldestOpenOf f m }

/-- Keep a command open with a kind. -/
def State.openCommand (s : State) (t : Ticket) (k : OpenKind) : State :=
  ({ s with opens := s.opens ++ [⟨t, k⟩] } : State).refreshOldest t.fn t.mb

/-- Close an open command with its final response (R312). -/
def State.finish (s : State) (o : OpenCmd) (st : Status) (result : Bytes := []) : State :=
  let s := { s with opens := s.opens.filter fun x => x != o }
  (s.respond o.ticket st result).refreshOldest o.ticket.fn o.ticket.mb

/-- The first open command whose kind satisfies a test. -/
def State.findOpen (s : State) (p : OpenKind → Bool) : Option OpenCmd := s.opens.find? fun o => p o.kind

/-! ### Entering FAULT (R322, R324) -/

/-- The wellhead works and answers commands: not in OFF or BOOT, nor once it has failed (R322, R336). -/
def State.answers (s : State) : Bool := (s.power == .held || s.power == .up) && !s.failedBlocks.contains .activeWellhead

/-- Every open command completes with HARDWARE_FAULT, as hardware takes the device into FAULT (R324). -/
def State.failAll (s : State) : State :=
  if s.answers then s.opens.foldl (fun (s : State) o => s.finish o .hardwareFault) s else s

/-- Enter FAULT with a cause: DEVICE_FAULT is raised and the open commands fail. A device already in FAULT keeps its
cause (R322, R324, Table 14.13). -/
def State.enterFault (s : State) (cause : Nat) : State :=
  if s.faultCause.isSome then s
  else (({ s with faultCause := some (BitVec.ofNat 8 cause) } : State).raise 4 cause).failAll

end Sys2Proof.Machine
end

