-- ==== Sys2Proof/Machine/Operands.lean ====
section
/-! DEFINITION. Descriptors and their operands: reading the descriptor at a slot's head (spec 01 R25, R27), illegal
fields (03 R78), waiting on cells, segment checks (08 R193, R194), integrity outcomes met by an operation (10 R220 to
R228), reading a tensor's elements and storing one (03 R53 to R56, R67 to R71). -/

namespace Sys2Proof.Machine

/-! ### The frame of every meaning -/

/-- Every meaning goes through this: the clock moves to the command's time (assumption 1), the effect is applied, and
the clock and the queue are as they were left. -/
def State.run (s : State) (t : Nat) (f : State → State) : Host.Outcome State Fault Refusal :=
  let u := { s with time := max s.time t }
  .next { f u with time := u.time, pending := u.pending }

/-- Power is up, boot has ended and the device is not in FAULT: the units work (assumption 4). -/
def State.alive (s : State) : Bool := s.power == .up && s.faultCause.isNone

/-- `run` for what only a working device does. -/
def State.runAlive (s : State) (t : Nat) (f : State → State) : Host.Outcome State Fault Refusal :=
  s.run t fun u => if u.alive then f u else u

/-! ### Reading a descriptor -/

/-- The length that a Class byte fixes, or none for an illegal one (R27). -/
def descLen : Nat → Option Nat
  | 1 | 7 => some 96
  | 2 | 4 | 8 => some 64
  | 3 | 5 => some 48
  | 6 => some 16
  | _ => none

/-- Class of a descriptor. -/
def dClass (d : Bytes) : Nat := fieldB d 0 1

/-- Op of a descriptor. -/
def dOp (d : Bytes) : Nat := fieldB d 1 1

/-- Where WaitEn, SetEn, WaitCell and SetCell of a class stand: (flag byte, WaitEn bit, SetEn bit, WaitCell byte,
SetCell byte). -/
def cellFields : Nat → Nat × Nat × Nat × Nat × Nat
  | 1 => (12, 6, 7, 14, 15)
  | 5 => (3, 1, 2, 36, 37)
  | _ => (31, 1, 2, 40, 41)

/-- SetCell of a descriptor with SetEn 1; sync operations have none. -/
def dSetCell (d : Bytes) : Option Nat :=
  let (f, _, e, _, c) := cellFields (dClass d)
  if dClass d != 6 && bit (fieldB d f 1) e then some (fieldB d c 1) else none

/-- WaitCell of a descriptor with WaitEn 1; sync operations have none. -/
def dWaitCell (d : Bytes) : Option Nat :=
  let (f, w, _, c, _) := cellFields (dClass d)
  if dClass d != 6 && bit (fieldB d f 1) w then some (fieldB d c 1) else none

/-- Whether the slot stages and issues at all: it runs, its basin is ACTIVE, its partition is open and no still holds
issue (R25, R296 step 1, R299 stage 1, R421 step 1). -/
def State.slotIssues (s : State) (b k : Nat) : Bool :=
  s.alive && b < 8 && k < 16 && (s.slot b k).state == .running && !(s.slot b k).clearing &&
    (s.basin b).state == .active &&
    match s.partitionOf b with
    | some p => (s.partition p).stillPhase == .idle && !(s.partition p).closing
    | none => false

/-- Device address of byte `n` of the slot's stream (R343): StreamOff is relative to the slot's stack segment. -/
def State.streamAddr (s : State) (b k n : Nat) : Nat :=
  ((s.slot b k).segs.getD 1 {}).base + (s.slot b k).streamOff + n

/-- What stands at a slot's head. -/
inductive Head where
  /-- The run has ended: Position is Length. -/
  | atEnd
  /-- An illegal Class byte, or a descriptor that runs past the stream's end (R27). -/
  | illegal
  | desc (d : Bytes)
  deriving DecidableEq, Repr

/-- The head of slot (b, k): only the Class byte is read of an illegal descriptor (R27). -/
def State.head (s : State) (b k : Nat) : Head :=
  let sl := s.slot b k
  if sl.length ≤ sl.position then .atEnd
  else
    match descLen (s.readByte (s.streamAddr b k sl.position)).toNat with
    | none => .illegal
    | some n => if sl.length < sl.position + n then .illegal else .desc (s.read (s.streamAddr b k sl.position) n)

/-- The slot is in a frozen weight-gradient region (R113). -/
def Slot.skipping (x : Slot) : Bool := x.regionPart == 2 && x.regionFrozen

/-- The descriptor leaves the head without running (R113): any class but sync and collective in a frozen region. -/
def Slot.skips (x : Slot) (d : Bytes) : Bool := x.skipping && dClass d != 6 && dClass d != 7

/-- Move the slot's Position past a descriptor. -/
def State.advance (s : State) (b k n : Nat) : State := s.modSlot b k fun x => { x with position := x.position + n }

/-- Set a cell on behalf of an optional SetCell. -/
def State.setCellIf (s : State) (b : Nat) (c : Option Nat) : State :=
  match c with
  | some i => s.addCell b i 1
  | none => s

/-- The descriptor's WaitCell, if it has one, is set. -/
def State.waitMet (s : State) (b : Nat) (d : Bytes) : Bool :=
  match dWaitCell d with
  | some c => (s.cell b c).isSet
  | none => true

/-- Halt with ILLEGAL_DESCRIPTOR at the byte offset of the first illegal field (R78). -/
def State.haltIllegal (s : State) (b k off : Nat) : State := s.halt b k .illegalDescriptor off 0 0 0

/-- The lowest byte offset whose check fails, of a list of (offset, legal). -/
def firstIllegal (checks : List (Nat × Bool)) : Option Nat :=
  checks.foldl (fun acc c =>
    if c.2 then acc
    else match acc with
      | some m => some (min m c.1)
      | none => some c.1) none

/-- The descriptor at the head of slot (b, k) is of a class and of an operation that a test admits. -/
def State.headMeets (s : State) (b k : Nat) (isCls isOp : Nat → Bool) : Bool :=
  match s.head b k with
  | .desc d => isCls (dClass d) && isOp (dOp d)
  | _ => false

/-- Run `go` on the descriptor at the head of (b, k) when it is of the class and operation of this row: nothing
happens otherwise. A descriptor with an illegal field halts the slot (R78); one whose WaitCell is not set waits. -/
def State.atHead (s : State) (b k cls : Nat) (isOp : Nat → Bool) (illegal : Bytes → Option Nat)
    (go : Bytes → State) : State :=
  if s.slotIssues b k then
    match s.head b k with
    | .desc d =>
      if dClass d == cls && isOp (dOp d) && !(s.slot b k).skips d then
        match illegal d with
        | some off => s.haltIllegal b k off
        | none => if s.waitMet b d then go d else s
      else s
    | _ => s
  else s

/-! ### Segments (R192 to R194) -/

/-- What pools an access may reach (R193). -/
inductive Reach where
  /-- A move: every basin of the segment. -/
  | any
  /-- A unit of basin `b`, or the partials of a gang: the named basins only. -/
  | pools (bs : List Nat)
  /-- A vector or table operand of basin `b` (R77): its pools and nothing else. -/
  | poolsOnly (b : Nat)
  deriving DecidableEq, Repr

/-- One access of a descriptor: the byte offset of the field that names it, segment, offset, length, direction. -/
structure Access where
  field : Nat
  seg : Nat
  off : Nat
  len : Nat
  write : Bool
  reach : Reach
  deriving DecidableEq, Repr

/-- Causes of Table 8.7. -/
inductive SegCause where
  | beyondBound | notWritable | notReadable | absent | remotePool | notHeld | notPool
  deriving DecidableEq, Repr

/-- The code of a cause (Table 8.7). -/
def SegCause.code : SegCause → Nat
  | .beyondBound => 1 | .notWritable => 2 | .notReadable => 3 | .absent => 4 | .remotePool => 5 | .notHeld => 6
  | .notPool => 7

/-- Accesses of partition `p` to CXL port `c` are made: it holds the port, or held it when it was lost (R193, R213). -/
def State.reachesPort (s : State) (p c : Nat) : Bool :=
  s.holdsPort p c || ((s.port c).state == .lost && (s.port c).lastHolder == some p)

/-- The last three causes, for one byte at device address `a` of an access of partition `p`. -/
def State.byteCause (s : State) (p : Nat) (reach : Reach) (a : Nat) : Option SegCause :=
  match placeOf a with
  | .pool b _ =>
    if !s.holdsBasin p b then some .notHeld
    else
      match reach with
      | .any => none
      | .pools bs => if bs.contains b then none else some .remotePool
      | .poolsOnly x => if x == b then none else some .remotePool
  | .stack b o =>
    if !(s.holdsBasin p b && o < windowSize) then some .notHeld
    else
      match reach with
      | .poolsOnly _ => some .notPool
      | _ => none
  | .cxl c o =>
    if !(s.reachesPort p c && o < (s.port c).mapped) then some .notHeld
    else
      match reach with
      | .poolsOnly _ => some .notPool
      | _ => none
  | _ => some .notHeld

/-- The device addresses at which the answer of `byteCause` can change, ascending. -/
def State.edges (s : State) : List Nat :=
  (List.range 8).map (fun b => poolBase (b + 1)) ++
    (List.range 8).flatMap (fun b => [windowBase b + windowSize, windowBase (b + 1)]) ++
    (List.range 8).flatMap fun p => [cxlBase p + (s.port p).mapped, cxlBase (p + 1)]

/-- Segment `g` of slot (b, k). -/
def State.seg (s : State) (b k g : Nat) : SegRec := (s.slot b k).segs.getD g {}

/-- Device address of offset `o` of segment `g` of slot (b, k). -/
def State.segAddr (s : State) (b k g o : Nat) : Nat := (s.seg b k g).base + o

/-- The first cause of R194 that applies to an access of slot (b, k), if it breaks R193. -/
def State.accessCause (s : State) (b k : Nat) (x : Access) : Option SegCause :=
  let r := s.seg b k x.seg
  if r.size = 0 then some .absent
  else if r.size < x.off + x.len then some .beyondBound
  else if x.write && !r.write then some .notWritable
  else if !x.write && !r.read then some .notReadable
  else
    let a := r.base + x.off
    let p := (s.partitionOf b).getD 8
    (a :: s.edges.filter fun e => a < e && e < a + x.len).findSome? fun e => s.byteCause p x.reach e

/-- The access that a SEGMENT_FAULT reports: the first of the list, which is in the order of the naming fields. -/
def State.firstFault (s : State) (b k : Nat) (xs : List Access) : Option (Access × SegCause) :=
  xs.findSome? fun x => (s.accessCause b k x).map fun c => (x, c)

/-- Halt with SEGMENT_FAULT (R194, Table 8.7). -/
def State.haltSegment (s : State) (b k : Nat) (x : Access) (c : SegCause) : State :=
  s.halt b k .segmentFault (x.seg + 16 * c.code) 0 x.off x.len

/-- Basins whose pools [a, a + n) touches. -/
def poolBasins (a n : Nat) : List Nat :=
  (List.range 8).filter fun b => n != 0 && a < poolBase (b + 1) && poolBase b < a + n

/-- A basin in SERVICE or RETIRED whose pools a descriptor of basin `b` reaches (R422), the first in access order. -/
def State.lostBasin (s : State) (b k : Nat) (xs : List Access) : Option Nat :=
  xs.findSome? fun x =>
    (poolBasins (s.segAddr b k x.seg x.off) x.len).find? fun c =>
      c != b && ((s.basin c).state == .service || (s.basin c).state == .retired)

/-- Run `go` when every access is legal; otherwise halt with SEGMENT_FAULT, or BASIN_LOST after it (R194, R422). -/
def State.checked (s : State) (b k : Nat) (xs : List Access) (go : State) : State :=
  match s.firstFault b k xs with
  | some (x, c) => s.haltSegment b k x c
  | none =>
    match s.lostBasin b k xs with
    | some c => s.halt b k .basinLost c 0 0 0
    | none => go

/-! ### Integrity outcomes (R220 to R228) -/

/-- The basin that counts what happens at a device address: the one of the pool or window, else the issuer's. -/
def basinAt (issuer a : Nat) : Nat :=
  match placeOf a with
  | .pool b _ => b
  | .stack b _ => b
  | _ => issuer

/-- Stack counters (scope 4): STACK_CE at 0, STACK_UE at 1. -/
def State.bumpStack (s : State) (i pos : Nat) : State := s.bump 4 i pos

/-- An uncorrectable read of the 64-byte unit at device address `a`, of stack `i` (Table 9.3): the unit takes the
poison code. -/
def State.stackUncorrectable (s : State) (i a : Nat) : State :=
  let s := { s with poison := insertAll s.poison [a / 64 * 64] }
  let s := s.modStack i fun x => { x with ueTimes := x.ueTimes.filter (fun u => s.time < u + 1000000000) ++ [s.time] }
  (s.bumpStack i 1).raise 6 i

/-- A read of unit `n` of stack `i` is corrected at symbol `pos` (Table 9.3): counted, and kept for an hour (R205). -/
def State.stackCorrected (s : State) (i n pos : Nat) : State :=
  let s := s.modStack i fun y =>
    { y with ceUnits := y.ceUnits.filter (fun e => s.time < e.1 + 3600000000000) ++ [(s.time, pos, n)] }
  ({ s with ceEvents := s.ceEvents ++ [s.time] } : State).bumpStack i 0

/-- A unit of a stack is read as garbage that its code does not detect (Table 9.3): its bytes are free values. The home
cache, when it holds the line, still shows the line's own (R203). -/
def State.stackGarbled (s : State) (a : Nat) : State :=
  if s.cached a then
    s.modBasin ((homeOf a).getD 0) fun x => { x with cache := { x.cache with lines := x.cache.lines.map fun y =>
      if y.2.line == a / 256 then (y.1, { y.2 with damaged := insertAll y.2.damaged [a / 64 % 4] }) else y } }
  else
    let (bs, s) := s.freeBytes a 64
    { s with mem := memWrite s.mem a bs }

/-- One read of a 64-byte unit of a stack at its controller, with `symbols` in error, the first at `pos` (Table 9.3). A
unit that holds the poison code stays as it is. -/
def State.stackRead (s : State) (a symbols pos : Nat) : State :=
  match placeOf a with
  | .stack c o =>
    let i := (stackOf c o).1
    if symbols = 0 || s.storedPoison (a / 64 * 64) 64 then s
    else if symbols = 1 then s.stackCorrected i ((stackOf c o).2 / 64) pos
    else if symbols ≤ 3 then s.stackUncorrectable i a
    else s.stackGarbled (a / 64 * 64)
  | _ => s

/-- Count and report one check outcome met by an operation of basin `b` (Table 10.4, Table 9.3). A unit whose line the home
cache holds is not read at its stack (R189). -/
def State.noteErr (b : Nat) (s : State) (e : CheckErr) : State :=
  match e with
  | .xfer a false => s.bumpBasin (basinAt b a) cXferRetry
  | .xfer a true => (s.bumpBasin (basinAt b a) cXferPoison).raise 8 (basinAt b a)
  | .chunkIn _ false => s.bumpBasin b cXferRetry
  | .chunkIn _ true => (s.bumpBasin b cXferPoison).raise 8 b
  | .tile _ false => s.bumpBasin b cTileRetry
  | .tile _ true => (s.bumpBasin b cTilePoison).raise 8 b
  | .poolCorrected a =>
    ({ s with ceEvents := s.ceEvents ++ [s.time] } : State).bumpBasin (basinAt b a) cPoolCe
  | .poolUncorrectable a => (s.bumpBasin (basinAt b a) cPoolUe).raise 8 (basinAt b a)
  | .stackSymbols a n pos =>
    if s.cached a then s else s.stackRead a n pos
  | .cxlPoisoned a =>
    match placeOf a with
    | .cxl p _ => (s.bump 6 p 0).raise 8 (0x20 + p)
    | _ => s

/-- Count and report every outcome met by an operation. -/
def State.noteErrs (s : State) (b : Nat) (errs : List CheckErr) : State := errs.foldl (State.noteErr b) s

/-- Ranges whose data arrives poisoned although the memory holds no marking: units of pool words uncorrectable on both
reads and chunks that failed twice on the way into a unit (R220), and CXL reads delivered poisoned (R221). -/
def badReads (errs : List CheckErr) : List Range :=
  errs.filterMap fun e =>
    match e with
    | .poolUncorrectable a => some (a / 256 * 256, 256)
    | .cxlPoisoned a => some (a / 64 * 64, 64)
    | .chunkIn a true => some (a / 4096 * 4096, 4096)
    | _ => none

/-- Tile ordinals whose header Check failed twice (R220). -/
def badTiles (errs : List CheckErr) : List Nat :=
  errs.filterMap fun e =>
    match e with
    | .tile n true => some n
    | _ => none

/-- The data of [a, a + n) arrives poisoned: a marked unit, or a range of `bad` in it. -/
def State.readPoison (s : State) (bad : List Range) (a n : Nat) : Bool :=
  n != 0 && (s.poisoned a n || bad.any (rangesMeet (a, n)))

/-- Mark ranges. -/
def State.markRanges (s : State) (rs : List Range) : State := rs.foldl (fun s r => s.markRange r.1 r.2) s

/-- Chunks that failed their CRC-32C twice stay marked at the destination (R220): the part of each written range in
the 4 KiB granule of the address (R217). -/
def State.markFailedChunks (s : State) (errs : List CheckErr) (writes : List Range) : State :=
  errs.foldl (fun s e =>
    match e with
    | .xfer a true =>
      writes.foldl (fun s r =>
        let lo := max r.1 (a / 4096 * 4096)
        let hi := min (r.1 + r.2) (a / 4096 * 4096 + 4096)
        if lo < hi then s.markRange lo (hi - lo) else s) s
    | _ => s) s

/-- Mark the outputs of a descriptor of slot (b, k) and count POISON_MARKED once if there are any (R226, R228). -/
def State.markOutputs (s : State) (b k : Nat) (rs : List Range) : State :=
  if rs.isEmpty then s else (s.markRanges rs).bumpSlot b k cPoisonMarked

/-! ### Accesses to the CXL tier (R208, R213, R221) -/

/-- The stacks of basin `b` are being retrained by CALIBRATE: accesses to its window wait (R422). -/
def State.retraining (s : State) (b : Nat) : Bool :=
  s.opens.any fun o => match o.kind with
    | .calibrate c hbm _ => c == b && hbm
    | _ => false

/-- Accesses to a device address wait: its port's link is down but not lost (R213), its stacks are retrained (R422), or a
wipe has not passed it yet (R407). -/
def State.portWaits (s : State) (a : Nat) : Bool :=
  match placeOf a with
  | .cxl p _ => (s.port p).state != .lost && !(s.port p).linkUp
  | .stack b o => s.retraining b || s.wipeHolds b o
  | _ => false

/-- An access of a descriptor waits for a link, for retraining or for a wipe: at its first or last byte, or at a window
that it enters (R213, R407, R422). -/
def State.accessesWait (s : State) (b k : Nat) (xs : List Access) : Bool :=
  xs.any fun x =>
    let a := s.segAddr b k x.seg x.off
    x.len != 0 && (a :: (a + x.len - 1) :: s.edges.filter fun e => a < e && e < a + x.len).any s.portWaits

/-- Number of 64-byte units that [a, a + n) touches. -/
def units64 (a n : Nat) : Nat := if n = 0 then 0 else (a + n - 1) / 64 - a / 64 + 1

/-- Write bytes at a device address; a port in LOST discards them and counts every 64-byte write (R213). -/
def State.put (s : State) (a : Nat) (bs : Bytes) (poison : Bool) : State :=
  match placeOf a with
  | .cxl p _ => if (s.port p).state == .lost then s.bump 6 p 1 (units64 a bs.length) else s.write a bs poison
  | _ => s.write a bs poison

/-- Reads of [a, a + n) from a port in LOST are delivered poisoned, and counted (R213, R221, Table 10.4). -/
def State.noteLostReads (s : State) (a n : Nat) : State :=
  match placeOf a with
  | .cxl p _ =>
    if (s.port p).state == .lost then
      (List.range (units64 a n)).foldl (fun s _ => (s.bump 6 p 0).raise 8 (0x20 + p)) s
    else s
  | _ => s

/-! ### Writers and captures (R365) -/

/-- The capture of a partition that still has pages to read. -/
def Partition.reading (x : Partition) : Option Capture :=
  ([x.capture, x.checkpoint].filterMap id).find? fun c => !c.unread.isEmpty

/-- Some capture has pages to read. -/
def State.capturing (s : State) : Bool := s.partitions.any fun x => x.reading.isSome

/-- The shadow has no room for what was written. -/
def Partition.shadowShort (x : Partition) : Bool :=
  match x.reading with
  | some c => !x.touched.isEmpty && decide (c.shadowPages < x.shadowed.length + x.touched.length)
  | none => false

/-- The values that the pages written in partition `p` had in `u` are copied into its shadow. -/
def State.copyTouched (u s : State) (p : Nat) : State :=
  let x := s.partition p
  match x.reading with
  | some c =>
    let n := x.shadowed.length
    let s := ((List.range x.touched.length).zip x.touched).foldl (fun (s : State) y =>
      s.put (c.shadowBase + 65536 * (n + y.1)) (u.read (65536 * y.2) 65536) false) s
    s.modPartition p fun x => { x with shadowed := x.shadowed ++ x.touched, touched := [] }
  | none => s

/-- What writes memory, held against the captures: pages still to be read are copied into the shadow first, and where it
is full the write waits (R365). -/
def State.guarded (s : State) (f : State → State) : State :=
  if !s.capturing then f s
  else
    let v := f s
    if v.partitions.any Partition.shadowShort then s else (List.range 8).foldl s.copyTouched v

/-- `runAlive` for a command that writes stacks or CXL memory. -/
def State.runWriter (s : State) (t : Nat) (f : State → State) : Host.Outcome State Fault Refusal :=
  s.runAlive t fun u => u.guarded f

/-! ### Tensors -/

/-- Device address of an MX tensor's scale array in the vector strip: the next 4 KiB-aligned address after the
elements (R72). -/
def scaleAddr (f : Fmt) (a n : Nat) : Nat := alignUp (a + f.bytesFor n) 4096

/-- The element codes of `n` packed elements at `a`. -/
def State.codesAt (s : State) (f : Fmt) (a n : Nat) : List Nat := unpackCodes f.width n (s.read a (f.bytesFor n))

/-- Pair each element with the scale byte of its block of 32. -/
def withScales : Nat → List Nat → List Nat → List (Nat × Nat)
  | 0, _, _ => []
  | _ + 1, [], _ => []
  | fuel + 1, cs, sc => (cs.take 32).map (fun c => (c, sc.headD 255)) ++ withScales fuel (cs.drop 32) sc.tail

/-- The values of `n` elements at `a`, decoded to FP32 (R55, R69, R73); MX scales at `sa`. -/
def State.valuesAt (s : State) (f : Fmt) (a sa n : Nat) : List Val :=
  if f.isMX then
    (withScales (n + 1) (s.codesAt f a n) ((s.read sa (ceilDiv n 32)).map (·.toNat))).map fun x => decode32 f x.2 x.1
  else (s.codesAt f a n).map (decode32 f 0)

/-- Per element: its bytes, or its scale byte, arrive poisoned. -/
def State.poisonAt (s : State) (bad : List Range) (f : Fmt) (a sa n : Nat) : List Bool :=
  let w := f.width
  if !(s.readPoison bad a (f.bytesFor n) || (f.isMX && s.readPoison bad sa (ceilDiv n 32))) then
    List.replicate n false
  else
    (List.range n).map fun i =>
      s.readPoison bad (a + i * w / 8) ((i * w + w - 1) / 8 - i * w / 8 + 1) ||
        (f.isMX && s.readPoison bad (sa + i / 32) 1)

/-! ### Stochastic rounding (R70, R71) -/

/-- The 16-byte key of R71 and R119: seed and step counter. -/
def randomKey (seed step : Nat) : Bytes := toLE 8 seed ++ toLE 8 step

/-- The random value of an element: segment-relative offset of its 4 KiB region, segment, index in the region. -/
def randomWord (key : Bytes) (region seg index : Nat) : Nat :=
  let out := sm4Encrypt key (toLE 6 region ++ toLE 1 seg ++ toLE 1 0 ++ toLE 8 (index / 8))
  fieldB out (2 * (index % 8)) 2

/-- Count within a region: the index of the next element of `region`, and the counts with that element added. -/
def nextIndex : List (Nat × Nat) → Nat → Nat × List (Nat × Nat)
  | [], region => (0, [(region, 1)])
  | (r, n) :: tl, region =>
    if r = region then (n, (r, n + 1) :: tl)
    else
      let (i, tl') := nextIndex tl region
      (i, (r, n) :: tl')

/-- The (region, index) of each element of a tensor whose elements start at the given bit offsets, in element order
(R71). -/
def regionIndexes : List Nat → List (Nat × Nat) → List (Nat × Nat)
  | [], _ => []
  | o :: os, counts =>
    let region := o / 8 / 4096 * 4096
    let (i, counts') := nextIndex counts region
    (region, i) :: regionIndexes os counts'

/-- The random values of a tensor's elements. -/
def randomWords (seed step seg : Nat) (bitOffsets : List Nat) : List Nat :=
  let key := randomKey seed step
  (regionIndexes bitOffsets []).map fun x => randomWord key x.1 seg x.2

/-! ### Storing a tensor (R67 to R71) -/

/-- Format of a store control word. -/
def ctlFormat (ctl : Nat) : Nat := bits ctl 15 11

/-- Overflow 1: NONSAT. -/
def ctlNonsat (ctl : Nat) : Bool := bit ctl 10

/-- Round of a store control word. -/
def ctlRound (ctl : Nat) : Nat := bits ctl 9 8

/-- Round is permitted and the reserved bits are 0 (R67). -/
def ctlLegal (ctl : Nat) : Bool := ctlRound ctl ≤ 1 && ctl % 256 == 0

/-- Rounding modes of a tensor's elements; the random values are drawn only for Round 0b01. -/
def modesOf (ctl seed step seg : Nat) (bitOffsets : List Nat) : List Rounding :=
  if ctlRound ctl = 1 then (randomWords seed step seg bitOffsets).map .stochastic
  else bitOffsets.map fun _ => .nearest

/-- Bit offsets of `n` packed elements from segment offset `off` on. -/
def packedOffsets (f : Fmt) (off n : Nat) : List Nat := (List.range n).map fun i => off * 8 + i * f.width

/-- The element codes of values in a format without block scale. -/
def plainCodes (f : Fmt) (ctl : Nat) (modes : List Rounding) (vs : List Val) : List Nat :=
  (vs.zip modes).map fun x => storeElem f x.2 (ctlNonsat ctl) x.1

/-- Scale bytes and element codes of values in an MX format, block by block. -/
def mxCodes (f : Fmt) : Nat → List Rounding → List Val → List Nat × List Nat
  | 0, _, _ => ([], [])
  | _ + 1, _, [] => ([], [])
  | fuel + 1, ms, vs =>
    let (sc, cs) := encodeMX f (ms.take 32) (vs.take 32)
    let (scs, css) := mxCodes f fuel (ms.drop 32) (vs.drop 32)
    (sc :: scs, cs ++ css)

/-- Values stored as a NaN into an integer format: the advance of NAN_TO_INT (R69). -/
def nanToInt (f : Fmt) (vs : List Val) : Nat := if f.isInt then (vs.filter Val.isNaN).length else 0

/-- A tensor ready to be written: its bytes at a device address, and marked ranges. -/
structure Stored where
  ranges : List (Nat × Bytes)
  marks : List Range
  nans : Nat := 0
  deriving DecidableEq, Repr

/-- Output ranges of the marked elements of a packed tensor at device address `a`; MX blocks are marked whole, with
their scale byte. -/
def markedElems (f : Fmt) (a sa : Nat) (marks : List Bool) : List Range :=
  if !marks.any id then []
  else if f.isMX then
    (List.range (ceilDiv marks.length 32)).flatMap fun j =>
      if ((marks.drop (32 * j)).take 32).any id then
        [(a + 4 * j * f.width, 4 * f.width), (sa + j, 1)]
      else []
  else
    (List.range marks.length).filterMap fun i =>
      if marks.getD i false then some (a + i * f.width / 8, (i * f.width + f.width - 1) / 8 - i * f.width / 8 + 1) else none

/-- Store `vs` as a packed tensor at device address `a`, segment offset `off`, under a store control word (R67 to
R71); MX scales follow at the next 4 KiB-aligned address (R72). -/
def storeTensor (f : Fmt) (ctl seed step seg off a : Nat) (vs : List Val) (marks : List Bool) : Stored :=
  let modes := modesOf ctl seed step seg (packedOffsets f off vs.length)
  let sa := scaleAddr f a vs.length
  if f.isMX then
    let (sc, cs) := mxCodes f (vs.length + 1) modes vs
    { ranges := [(a, packCodes f.width cs), (sa, sc.map (BitVec.ofNat 8))], marks := markedElems f a sa marks }
  else
    { ranges := [(a, packCodes f.width (plainCodes f ctl modes vs))], marks := markedElems f a sa marks
      nans := nanToInt f vs }

/-- Write the ranges of a stored tensor. -/
def State.putRanges (s : State) (rs : List (Nat × Bytes)) : State := rs.foldl (fun s r => s.write r.1 r.2 false) s

/-- The device ranges that stored tensors occupy. -/
def rangesOf (xs : List Stored) : List Range := xs.flatMap fun x => x.ranges.map fun r => (r.1, r.2.length)

/-- Write stored tensors of slot (b, k), with their markings, failed chunks and counters (R69, R220, R226). -/
def State.putStored (s : State) (b k : Nat) (errs : List CheckErr) (xs : List Stored) : State :=
  let s := xs.foldl (fun s x => s.putRanges x.ranges) s
  let s := s.markOutputs b k (xs.flatMap (·.marks))
  let s := s.markFailedChunks errs (rangesOf xs)
  s.bumpSlot b k cNanToInt ((xs.map (·.nans)).sum)

/-! ### The home caches under a descriptor (R189) -/

/-- The reads of a descriptor of slot (b, k) pass the home caches, in order; its writes do where they are made. -/
def State.touchAccesses (s : State) (b k : Nat) (xs : List Access) : State :=
  xs.foldl (fun s x => if x.write then s else s.touchCache (s.segAddr b k x.seg x.off) x.len) s

/-! ### Issuing -/

/-- The unit's place in `Basin.lastGrant`: the units that slots are granted (R26). -/
def UnitKind.index : UnitKind → Nat
  | .mere => 0 | .tarn => 1 | .vector => 2 | .table => 3 | _ => 4

/-- The slots that come before slot `k` in the round-robin of unit `u` of basin `b`: those after the slot granted last, in
slot-number order (R26). -/
def State.slotsBefore (s : State) (b : Nat) (u : UnitKind) (k : Nat) : List Nat :=
  let from_ := match (s.basin b).lastGrant.getD u.index none with
    | some j => j + 1
    | none => 0
  (List.range ((k + 32 - from_) % 16)).map fun i => (from_ + i) % 16

/-- A step of slot `k` moves its Position: the unit would take its head descriptor now. -/
def State.takes (s : State) (b : Nat) (step : Nat → State) (k : Nat) : Bool :=
  ((step k).slot b k).position != (s.slot b k).position

/-- No slot ahead of `k` in the round-robin of unit `u` is ready for it (R26). -/
def State.firstInTurn (s : State) (b : Nat) (u : UnitKind) (k : Nat) (step : Nat → State) : Bool :=
  !(s.slotsBefore b u k).any (s.takes b step)

/-- Slot `k` takes its step on unit `u` of basin `b`; one that the unit would grant waits for the ready slots ahead of it in
the round-robin, and the grant is noted (R26). -/
def State.inTurn (s : State) (b : Nat) (u : UnitKind) (k : Nat) (step : Nat → State) : State :=
  if s.takes b step k then
    if s.firstInTurn b u k step then
      (step k).modBasin b fun x => { x with lastGrant := x.lastGrant.set u.index (some k) }
    else s
  else step k

/-- The slot's descriptor has issued: record its flight, with the ranges it writes and the basins it uses, and move
Position past it. -/
def State.issued (s : State) (b k : Nat) (d : Bytes) (u : UnitKind) (writes : List Range) (bs : List Nat) (isPlace : Bool)
    (late : Option LateFault) : State :=
  let s := s.addFlight
    { id := 0, unit := u, basin := b, slot := k, setCell := dSetCell d, writes := writes, basins := bs
      step := s.stepOf b, isPlace := isPlace, lateFault := late }
  s.advance b k d.length

/-- An operation of the basin's unit is in flight. -/
def State.unitBusy (s : State) (b : Nat) (u : UnitKind) : Bool := s.flights.any fun f => f.basin == b && f.unit == u

/-- The oldest flight of a unit of basin `b`. -/
def State.oldestFlight (s : State) (b : Nat) (u : UnitKind) : Option Flight :=
  s.flights.find? fun f => f.basin == b && f.unit == u

/-- The n-th oldest operation of a unit of basin `b` completes. -/
def State.completeNth (s : State) (b : Nat) (u : UnitKind) (n : Nat) : State :=
  match (s.flights.filter fun f => f.basin == b && f.unit == u)[n]? with
  | some f => s.completeFlight f
  | none => s

/-- Mere passes in flight on basin `b`. -/
def State.passesOn (s : State) (b : Nat) : List Flight := s.flights.filter fun f => f.unit == .mere && f.basins.contains b

end Sys2Proof.Machine
end

