-- ==== Sys2Proof/Machine/Peers.lean ====
section
/-! DEFINITION. Messages and peer contexts (spec 11 R233, R244 to R251; 17 R402, R403): the bytes of a message, sending
through a context, sealing, acceptance, acknowledgement, resending. -/

namespace Sys2Proof.Machine

/-! ### The bytes of a message (R217, R233, Table 11.4) -/

/-- Bytes 0 to 15. -/
def Msg.header (m : Msg) : Bytes :=
  toLE 2 m.dst ++ toLE 2 m.src ++ toLE 1 (m.cls * 64 + m.type) ++ toLE 1 (m.hops * 16 + (if m.encrypted then 8 else 0)) ++
    toLE 2 m.payload.length ++ toLE 4 m.peerSeq ++ toLE 4 m.stamp

/-- All the bytes of a message: data messages have the extension, the tag when sealed, and the CRC-32C. -/
def Msg.bytes (m : Msg) : Bytes :=
  if m.cls = 0 then m.header ++ m.payload
  else
    let body := m.payload ++ (if m.encrypted then m.tag else [])
    m.header ++ toLE 6 m.place ++ toLE 2 m.poisonMask ++ body ++ toLE 4 (crc32c body)

/-- The length of a message from its first 16 bytes. -/
def msgLength (h : Bytes) : Nat :=
  let n := fieldB h 6 2
  if fieldB h 4 1 / 64 = 0 then 16 + n else 24 + n + (if bit (fieldB h 5 1) 3 then 16 else 0) + 4

/-- A message from its bytes. -/
def msgOf (b : Bytes) : Msg :=
  let n := fieldB b 6 2
  let cls := fieldB b 4 1 / 64
  let enc := bit (fieldB b 5 1) 3
  let off := if cls = 0 then 16 else 24
  { dst := fieldB b 0 2, src := fieldB b 2 2, cls := cls, type := fieldB b 4 1 % 64, hops := fieldB b 5 1 / 16
    encrypted := enc, peerSeq := fieldB b 8 4, stamp := fieldB b 12 4
    place := if cls = 0 then 0 else fieldB b 16 6, poisonMask := if cls = 0 then 0 else fieldB b 22 2
    payload := sliceB b off n, tag := if cls != 0 && enc then sliceB b (off + n) 16 else [] }

/-- The Place of a message: payload bytes 0 to 5 on TC0, the extension's field otherwise (R250). -/
def Msg.placeOf (m : Msg) : Nat := if m.cls = 0 then fieldB m.payload 0 6 else m.place

/-- The partition that a message is for: Place bits 47:45. -/
def Msg.part (m : Msg) : Nat := bits m.placeOf 47 45

/-- Place bits 44:0. -/
def Msg.place44 (m : Msg) : Nat := bits m.placeOf 44 0

/-- The Place field naming partition `p` with `x` in bits 44:0. -/
def placeWord (p x : Nat) : Nat := p % 8 * 2 ^ 45 + x % 2 ^ 45

/-- 256-byte unit `j` of the payload is poisoned. -/
def Msg.unitPoisoned (m : Msg) (j : Nat) : Bool := bit m.poisonMask j

/-- Any unit of the payload is poisoned. -/
def Msg.anyPoison (m : Msg) : Bool := m.poisonMask != 0

/-! ### Contexts -/

/-- Context `i`, if it holds a valid record. -/
def State.ctx (s : State) (i : Nat) : Option PeerCtx := s.contexts.find? fun c => c.index == i

/-- Change context `i`. -/
def State.modCtx (s : State) (i : Nat) (f : PeerCtx → PeerCtx) : State :=
  { s with contexts := s.contexts.map fun c => if c.index == i then f c else c }

/-- Change one class of a context. -/
def PeerCtx.modClass (c : PeerCtx) (cls : Nat) (f : CtxClass → CtxClass) : PeerCtx :=
  { c with classes := c.classes.modify cls f }

/-- One class of a context. -/
def PeerCtx.cls (c : PeerCtx) (k : Nat) : CtxClass := c.classes.getD k {}

/-- The valid context of partition `p` that names device `dev` (R244, R245). -/
def State.ctxFor (s : State) (p dev : Nat) : Option PeerCtx :=
  let x := s.partition p
  if x.isOpen then
    s.contexts.find? fun c => c.peerId == dev && x.peerBase ≤ c.index && c.index < x.peerBase + x.peerCount
  else none

/-- The open partition whose range holds context `i`. -/
def State.partOfCtx (s : State) (i : Nat) : Option Nat :=
  (List.range 8).find? fun p =>
    let x := s.partition p
    x.isOpen && x.peerBase ≤ i && i < x.peerBase + x.peerCount

/-- Partition `p` has a context for `dev` that is not LOST. -/
def State.peerLive (s : State) (p dev : Nat) : Bool :=
  match s.ctxFor p dev with
  | some c => !c.lost
  | none => false

/-- The key that partition `p` holds at a KeyRef for a Kind (R401): 0 weights, 1 peer. -/
def State.keyAt (s : State) (p ref kind : Nat) : Option Bytes :=
  ((s.partition p).keys.find? fun k => k.ref == ref && k.kind == kind).map (·.key)

/-! ### Sealing (R402, Table 17.6) -/

/-- IV of a sealed message with extended sequence `seq`. -/
def sealIV (m : Msg) (seq : Nat) : Bytes :=
  toLE 2 (m.src % 16384 + m.cls * 16384) ++ toLE 2 m.dst ++ toLE 8 seq

/-- Additional data of a sealed message. -/
def sealAad (m : Msg) : Bytes := ({ m with hops := 0 } : Msg).header ++ toLE 6 m.place

/-- Seal a message under a key. -/
def sealMsg (key : Bytes) (m : Msg) (seq : Nat) : Msg :=
  let m := { m with encrypted := true }
  let c := gcmCrypt key (sealIV m seq) m.payload
  { m with payload := c, tag := gcmTag key (sealIV m seq) (sealAad m) c }

/-- Open a sealed message: none when the tag fails. -/
def openMsg (key : Bytes) (m : Msg) (seq : Nat) : Option Msg :=
  if gcmTag key (sealIV m seq) (sealAad m) m.payload == m.tag then
    some { m with payload := gcmCrypt key (sealIV m seq) m.payload }
  else none

/-! ### Sending (R245, R246, R248) -/

/-- Put a message on its way to the router. -/
def State.toRouter (s : State) (m : Msg) : State :=
  { s with router := { s.router with localQueue := s.router.localQueue ++ [m] } }

/-- Send the oldest queued message of a class if there is credit: it is numbered, stamped and sealed. -/
def State.sendOne (s : State) (i cls : Nat) : State :=
  match s.ctx i with
  | none => s
  | some c =>
    let k := c.cls cls
    match k.queue with
    | [] => s
    | (m, o) :: rest =>
      if k.credit = 0 || c.lost then s
      else
        let m := { m with peerSeq := k.nextSeq % 2 ^ 32, stamp := s.time % 2 ^ 32 }
        let key := if cls != 0 && c.encrypt then (s.partOfCtx i).bind fun p => s.keyAt p c.keyRef 1 else none
        let m := match key with
          | some key => sealMsg key m k.nextSeq
          | none => m
        let s := s.modCtx i fun c => c.modClass cls fun k =>
          { k with credit := k.credit - 1, nextSeq := k.nextSeq + 1, queue := rest, unacked := k.unacked ++ [⟨m, o, s.time⟩] }
        s.toRouter m

/-- Send queued messages of a class while there is credit. -/
def State.sendQueued (s : State) (i cls : Nat) : State :=
  match s.ctx i with
  | none => s
  | some c => (List.range (min (c.cls cls).queue.length (c.cls cls).credit)).foldl (fun s _ => s.sendOne i cls) s

/-- Send a message through context `i` on behalf of an owner; it waits there for credit. -/
def State.sendVia (s : State) (i : Nat) (m : Msg) (o : MsgOwner) : State :=
  match s.ctx i with
  | none => s
  | some c =>
    if c.lost then s
    else
      let m := { m with src := s.deviceId, dst := c.peerId }
      (s.modCtx i fun c => { c with peerPart := some m.part }.modClass m.cls fun k => { k with queue := k.queue ++ [(m, o)] }).sendOne i m.cls

/-- A TC0 message of a type with a Place field and the rest of its payload. -/
def tc0 (type part place : Nat) (rest : Bytes) : Msg :=
  { dst := 0, src := 0, cls := 0, type := type, payload := toLE 6 (placeWord part place) ++ rest }

/-- A data message. -/
def dataMsg (cls type part place : Nat) (payload : Bytes) (mask : Nat) : Msg :=
  { dst := 0, src := 0, cls := cls, type := type, place := placeWord part place, poisonMask := mask, payload := payload }

/-- Send through partition `p`'s context for device `dev`; nothing is sent without a live one. -/
def State.sendTo (s : State) (p dev : Nat) (m : Msg) (o : MsgOwner) : State :=
  match s.ctxFor p dev with
  | some c => s.sendVia c.index m o
  | none => s

/-- A message of an owner is queued or unacknowledged somewhere. -/
def State.owes (s : State) (o : MsgOwner) : Bool :=
  s.contexts.any fun c => c.classes.any fun k => k.unacked.any (fun u => u.owner == o) || k.queue.any fun q => q.2 == o

/-- Remote sets whose message is acknowledged, or whose context is lost, complete (R248, R289). -/
def State.completeRemote (s : State) : State :=
  (s.flights.filter fun f => f.unit == .remoteSet && !s.owes (.flight f.id)).foldl (fun s f => s.completeFlight f) s

/-! ### Returns and probes (R247, R249) -/

/-- The RETURN message of a context of partition `p`. -/
def PeerCtx.returnMsg (c : PeerCtx) (p : Nat) : Msg :=
  tc0 1 p 0 (zeros 2 ++ ((List.range 4).flatMap fun k =>
    toLE 4 ((c.cls k).expected % 2 ^ 32) ++ toLE 2 (min (c.cls k).owed 65535) ++ zeros 2) ++ toLE 4 c.newestStamp)

/-- Send an unnumbered message through a context: it takes no credit. -/
def State.sendUnnumbered (s : State) (c : PeerCtx) (m : Msg) : State :=
  s.toRouter { m with src := s.deviceId, dst := c.peerId, stamp := s.time % 2 ^ 32 }

/-- The partition that a return or PROBE of a context names at the peer: the one its own messages named, and a free
value before it sent any (assumption 30). -/
def State.peerPartOf (s : State) (c : PeerCtx) : Nat × State :=
  match c.peerPart with
  | some p => (p, s)
  | none =>
    let (n, s) := s.freeNat
    (n % 8, s)

/-- Send a return message (R247). -/
def State.sendReturn (s : State) (i : Nat) : State :=
  match s.ctx i with
  | none => s
  | some c =>
    if c.lost then s
    else
      let (p, s) := s.peerPartOf c
      (s.sendUnnumbered c (c.returnMsg p)).modCtx i fun c =>
        { c with needReturn := false, uncovered := false, lastReturn := some s.time
                 classes := c.classes.map fun k => { k with owed := k.owed - min k.owed 65535 } }

/-- Send a PROBE, one at each moment (R249). -/
def State.sendProbe (s : State) (i : Nat) : State :=
  match s.ctx i with
  | none => s
  | some c =>
    if c.lastProbe == some s.time then s
    else
      let (p, s) := s.peerPartOf c
      (s.sendUnnumbered c (tc0 2 p 0 (zeros 2))).modCtx i fun c =>
        { c with probes := c.probes ++ [s.time], lastProbe := some s.time }

/-- Resend time of a class (R249). -/
def resendTime (cls : Nat) : Nat := if cls = 3 then 1000000000 else 100000

/-- Resend the messages of a class of context `i` whose resend time has passed, with one PROBE (R249). -/
def State.resend (s : State) (i cls : Nat) : State :=
  match s.ctx i with
  | none => s
  | some c =>
    let due := (c.cls cls).unacked.filter fun u => u.lastSent + resendTime cls ≤ s.time
    if c.lost || due.isEmpty then s
    else
      let s := s.modCtx i fun c => c.modClass cls fun k =>
        { k with unacked := k.unacked.map fun u => if u.lastSent + resendTime cls ≤ s.time then { u with lastSent := s.time } else u }
      let s := due.foldl (fun (s : State) u =>
        ({ s with linkEvents := s.linkEvents ++ [s.time] } : State).bumpDevice cE2eResend |>.toRouter u.msg) s
      s.sendProbe i

/-! ### Acceptance (R245, R246, R250) -/

/-- The Types that some table defines, for a class: Tables 11.9, 12.6, 13.10, 16.4 and R404. -/
def typeDefined (cls type : Nat) : Bool :=
  if cls = 0 then
    [0x01, 0x02, 0x10, 0x11, 0x12, 0x13, 0x14, 0x20, 0x21, 0x22, 0x23, 0x24, 0x25, 0x30, 0x32, 0x33, 0x34, 0x35].contains type
  else [0x28, 0x29, 0x2A, 0x2B, 0x2C, 0x2D, 0x31, 0x36, 0x38].contains type

/-- A WEIGHTS_IMPORT of partition `p` from `src` is open (R404). -/
def State.importOf (s : State) (p src : Nat) : Option Import := (s.partition p).imports.find? fun i => i.source == src

/-- What the local port makes of a message before R246: the opened message, or none when it is discarded
unacknowledged (R403, R404). `seq` is its extended sequence. -/
def State.openAt (s : State) (p : Nat) (c : PeerCtx) (m : Msg) (seq : Nat) : Option Msg :=
  if m.cls = 0 then some m
  else if m.type = 0x38 then
    if m.cls != 2 then none
    else
    match s.importOf p m.src with
    | none => none
    | some i =>
      match s.keyAt p i.keyRef 0 with
      | some key => if m.encrypted && !m.anyPoison then openMsg key m seq else none
      | none => none
  else if c.encrypt then
    match s.keyAt p c.keyRef 1 with
    | some key => if m.encrypted && !m.anyPoison then openMsg key m seq else none
    | none => none
  else if m.encrypted then none
  else some m

/-- Advance the expected number past accepted ones; with TC0 the held messages in between are delivered in order. -/
def advanceExpected : Nat → CtxClass → List Msg → CtxClass × List Msg
  | 0, k, out => (k, out)
  | n + 1, k, out =>
    if k.accepted.contains k.expected then
      let here := k.held.filter fun m => m.peerSeq == k.expected % 2 ^ 32
      advanceExpected n
        { k with expected := k.expected + 1, accepted := k.accepted.filter (· != k.expected)
                 held := k.held.filter fun m => m.peerSeq != k.expected % 2 ^ 32 }
        (out ++ here)
    else (k, out)

/-- Put messages into the inbox of context `i` of partition `p`. -/
def State.toInbox (s : State) (p i : Nat) (ms : List Msg) : State :=
  { s with router := { s.router with inbox := s.router.inbox ++ ms.map fun m => (p, i, m) } }

/-- A message with a Stamp is covered by the next return, which carries the newest one's (R247, R251). -/
def PeerCtx.covers (stamp : Nat) (c : PeerCtx) : PeerCtx :=
  { c with needReturn := true, uncovered := true
           newestStamp := if c.uncovered && serialLater 32 c.newestStamp stamp then c.newestStamp else stamp }

/-- A message reaches this device (R245, R246, R402): it goes to the inbox, is held, or is discarded. -/
def State.deliver (s : State) (m : Msg) : State :=
  match s.ctxFor m.part m.src with
  | none => s.bumpDevice cNoContext
  | some c =>
    if c.lost then s.bumpDevice cNoContext
    else if m.cls = 0 && (m.type = 1 || m.type = 2) then s.toInbox m.part c.index [m]
    else
      let k := c.cls m.cls
      let n := k.expected
      let d := serialDiff 32 m.peerSeq (n % 2 ^ 32)
      if d < k.window then
        let seq := n + d
        if k.accepted.contains seq then
          (s.bumpDevice cDupDiscard).modCtx c.index fun c => { c with needReturn := true }
        else
          match s.openAt m.part c m seq with
          | none => s
          | some x =>
            let k := { k with accepted := k.accepted ++ [seq], held := if m.cls = 0 then k.held ++ [x] else k.held }
            let (k, out) := advanceExpected (k.window + 1) k []
            let s := s.modCtx c.index fun c => (c.modClass m.cls fun _ => k).covers m.stamp
            s.toInbox m.part c.index (if m.cls = 0 then out else [x])
      else if 2 ^ 32 - d ≤ 2 ^ 31 then
        (s.bumpDevice cDupDiscard).modCtx c.index fun c => { c with needReturn := true }
      else s.bumpDevice cSeqReject

/-- The oldest of the messages that satisfies a test, TC0 messages of one context in their order (R246); returns and PROBEs
are not numbered. `seen` are the contexts of numbered TC0 messages passed over. -/
def findInOrder (f : Nat × Nat × Msg → Bool) : List (Nat × Nat) → List (Nat × Nat × Msg) → Option (Nat × Nat × Msg)
  | _, [] => none
  | seen, x :: xs =>
    let numbered := x.2.2.cls == 0 && x.2.2.type != 1 && x.2.2.type != 2
    if f x && !(numbered && seen.contains (x.1, x.2.1)) then some x
    else findInOrder f (if numbered then (x.1, x.2.1) :: seen else seen) xs

/-- The oldest entry of the inbox that satisfies a test and may be acted on, with its partition and context. -/
def State.inboxNext (s : State) (f : Nat × Nat × Msg → Bool) : Option (Nat × Nat × Msg) := findInOrder f [] s.router.inbox

/-- The oldest message in the inbox that satisfies a test and may be acted on, with its partition and context. -/
def State.inboxFind (s : State) (f : Msg → Bool) : Option (Nat × Nat × Msg) := s.inboxNext fun x => f x.2.2

/-- Take a message out of the inbox; unless it is unnumbered, it is placed and its credit is owed back (R245, R247). -/
def State.take (s : State) (x : Nat × Nat × Msg) (credit : Bool) : State :=
  let s := { s with router := { s.router with inbox := s.router.inbox.erase x } }
  if credit then
    s.modCtx x.2.1 fun c => { c.modClass x.2.2.cls (fun k => { k with owed := k.owed + 1 }) with needReturn := true }
  else s

/-- Handle the oldest inbox message of a class and type: its credit is returned and `go` acts on it; nothing happens
when there is none. -/
def State.onMessage (s : State) (isCls : Nat → Bool) (type : Nat) (go : State → Nat → Nat → Msg → State) : State :=
  match s.inboxFind fun m => isCls m.cls && m.type == type with
  | none => s
  | some x => go (s.take x true) x.1 x.2.1 x.2.2

/-! ### Acting on returns (R247, R249, R251) -/

/-- One class of a return: messages below `ack` are acknowledged and credit comes back. -/
def CtxClass.acked (ack credit : Nat) (k : CtxClass) : CtxClass :=
  { k with unacked := k.unacked.filter fun u => !(serialLater 32 ack u.msg.peerSeq)
           credit := min k.window (k.credit + credit) }

/-- PROBEs are answered by a return within 100 µs of them; an answer ends the row of unanswered ones (R249). -/
def PeerCtx.answered (now : Nat) (c : PeerCtx) : PeerCtx :=
  if c.probes.any fun t => now < t + 100000 then { c with probes := [], probesMissed := 0 } else c

/-- RETURN: acknowledgements and credit, the round trip, and the PROBEs it answers. -/
def State.onReturn (s : State) (i : Nat) (m : Msg) : State :=
  let p := m.payload
  let s := (List.range 4).foldl (fun (s : State) k =>
    s.modCtx i fun c => c.modClass k (CtxClass.acked (fieldB p (8 + 8 * k) 4) (fieldB p (12 + 8 * k) 2))) s
  let d := serialDiff 32 (s.time % 2 ^ 32) (fieldB p 40 4)
  let s := s.modCtx i fun c => { c.answered s.time with roundTrip := if d < 2 ^ 31 then d else c.roundTrip }
  let s := if d < 2 ^ 31 then s else s.bumpDevice cStampStale
  let s := (List.range 4).foldl (fun (s : State) k => s.sendQueued i k) s
  s.completeRemote

end Sys2Proof.Machine
end

