-- ==== Sys2Proof/Machine/Sync.lean ====
section
/-! DEFINITION. Sync operations, remote sets, tree and pair barriers (spec 13 R288 to R294), layer marks and skipped
descriptors (05 R111 to R113), descriptors of no class (01 R27), and the end of a task's runs and its clearing
(15 R345, R346; 13 R296). -/

namespace Sys2Proof.Machine

/-! ### Sync descriptors (Tables 13.3, 13.4, 5.3) -/

/-- The first illegal field of a sync operation (R111, R291). -/
def syncIllegal (d : Bytes) : Option Nat :=
  let op := dOp d
  let cell := fieldB d 2 1
  let b3 := fieldB d 3 1
  let dev := fieldB d 4 2
  let v := fieldB d 6 2
  let step := fieldB d 8 8
  if op = 0x40 then
    let b4 := fieldB d 4 1
    firstIllegal
      [(2, fieldB d 2 2 < 4096), (4, b4 < 8 && (bits b4 2 1 == 2 || !bit b4 0)), (5, allZero (sliceB d 5 11))]
  else
    firstIllegal
      [(1, 1 ≤ op && op ≤ 7),
       (2, op != 7 || cell == 0),
       (3, if op = 2 then b3 < 64 else if op = 6 then b3 < 64 && b3 % 8 == 0 else b3 == 0),
       (4, if op = 2 || op = 6 then dev < 16384 else dev == 0),
       (6, if op = 1 || op = 2 || op = 3 then 1 ≤ v else if op = 5 then v < 32 else v == 0),
       (8, op == 7 || step == 0)]

/-- A sync operation at the head of its slot; sync operations run in skipped regions too (R113). -/
def State.syncStep (s : State) (b k : Nat) (isOp : Nat → Bool) (go : Bytes → State) : State :=
  s.atHead b k 6 isOp syncIllegal go

/-! ### Barriers (R293, R294) -/

/-- Tree `t` of partition `p`. -/
def State.tree (s : State) (p t : Nat) : Option TreeRec := (s.partition p).trees.find? fun x => x.treeId == t

/-- Change tree `t` of partition `p`. -/
def State.modTree (s : State) (p t : Nat) (f : TreeRec → TreeRec) : State :=
  s.modPartition p fun x => { x with trees := x.trees.map fun y => if y.treeId == t then f y else y }

/-- The payload of ARRIVE, RELEASE and PAIR_ARRIVE after the Place field (Table 13.10). -/
def barrierRest (tree number : Nat) : Bytes := toLE 1 tree ++ zeros 1 ++ toLE 4 number

/-- Send RELEASE of tree `t` to its children. -/
def State.sendRelease (s : State) (p : Nat) (t : TreeRec) : State :=
  (t.children.zip t.childParts).foldl (fun s c =>
    s.sendTo p c.1 (tc0 0x12 c.2 0 (barrierRest t.treeId t.number)) .none) s

/-- A LOST child or parent has taken part in the barrier (R294). -/
def State.barrierLoss (s : State) (p : Nat) (t : TreeRec) : Bool :=
  (t.children.any fun c => !s.peerLive p c && !t.arrivals.contains (c, t.number)) ||
    match t.parent with
    | some d => !s.peerLive p d
    | none => false

/-- Set the Cell that a barrier or a pair names; an abandoned one names none (R296). -/
def State.setWaited (s : State) (b : Nat) (cell : Option Nat) : State :=
  match cell with
  | some c => s.addCell b c 1
  | none => s

/-- The outstanding barrier of a tree is released at this device: RELEASE goes to the children, the Cell is set, the
next barrier has the next number. -/
def State.releaseTree (s : State) (p : Nat) (t : TreeRec) : State :=
  let lost := s.barrierLoss p t
  let s := s.sendRelease p t
  let s := s.modTree p t.treeId fun x =>
    { x with number := (x.number + 1) % 2 ^ 32, outstanding := none, arriveSent := false
             arrivals := x.arrivals.filter fun a => a.2 != t.number }
  match t.outstanding with
  | some (b, _, c) => (s.setWaited b c).bumpBasin b cBarrierLost (if lost then 1 else 0)
  | none => s

/-- Step 2 of R293: once this device has issued and every child has arrived, it arrives at its parent, or, as the root
or with a LOST parent, releases. -/
def State.barrierStep (s : State) (p i : Nat) : State :=
  match s.tree p i with
  | none => s
  | some t =>
    let all := t.children.all fun c => t.arrivals.contains (c, t.number) || !s.peerLive p c
    if t.outstanding.isNone || !all then s
    else
      match t.parent with
      | none => s.releaseTree p t
      | some d =>
        if !s.peerLive p d then s.releaseTree p t
        else if t.arriveSent then s
        else
          (s.sendTo p d (tc0 0x11 t.parentPart 0 (barrierRest t.treeId t.number)) .none).modTree p i fun x =>
            { x with arriveSent := true }

/-- Contexts of partition `p` were lost or rewritten: barriers and pairs that waited for them go on (R294). -/
def State.syncRecheck (s : State) (p : Nat) : State :=
  ((s.partition p).trees.map (·.treeId)).foldl (fun s t => s.barrierStep p t) s

/-- Complete the pairs of a context whose peer is lost (R294). -/
def State.losePairs (s : State) (i : Nat) : State :=
  match s.ctx i with
  | none => s
  | some c =>
    let s := c.pairOut.foldl (fun (s : State) x => (s.setWaited x.1 x.2.2.1).bumpBasin x.1 cBarrierLost) s
    s.modCtx i fun c => { c with pairOut := [] }

/-! ### The operations -/

/-- SET_REMOTE at its issue (R289). -/
def State.setRemote (s : State) (b k : Nat) (d : Bytes) : State :=
  let p := (s.partitionOf b).getD 8
  let dev := fieldB d 4 2
  match s.ctxFor p dev with
  | none => s.halt b k .noPeer dev 0 0 0
  | some c =>
    let id := s.nextFlight
    let s := s.addFlight
      { id := 0, unit := .remoteSet, basin := b, slot := k, setCell := none, writes := [], basins := [b]
        step := s.stepOf b, isPlace := false, lateFault := none }
    let m := tc0 0x10 (bits (fieldB d 3 1) 5 3) 0 (toLE 1 (fieldB d 3 1 % 8) ++ toLE 1 (fieldB d 2 1) ++ toLE 2 (fieldB d 6 2))
    ((s.sendVia c.index m (.flight id)).advance b k 16).completeRemote

/-- BARRIER at its issue (R291, R293). -/
def State.barrier (s : State) (b k : Nat) (d : Bytes) : State :=
  let p := (s.partitionOf b).getD 8
  let i := fieldB d 6 2
  match s.tree p i with
  | none => s.halt b k .treeUndefined i 0 0 0
  | some t =>
    if t.outstanding.isSome then s
    else
      let s := s.modTree p i fun x => { x with outstanding := some (b, k, some (fieldB d 2 1)) }
      (s.advance b k 16).barrierStep p i

/-- PAIR at its issue (R291, R293, R294). -/
def State.pair (s : State) (b k : Nat) (d : Bytes) : State :=
  let p := (s.partitionOf b).getD 8
  let dev := fieldB d 4 2
  let cell := fieldB d 2 1
  match s.ctxFor p dev with
  | none => s.halt b k .noPeer dev 0 0 0
  | some c =>
    let s := s.advance b k 16
    if c.lost then (s.addCell b cell 1).bumpBasin b cBarrierLost
    else
      let n := c.pairNumber
      let s := s.sendVia c.index (tc0 0x13 (bits (fieldB d 3 1) 5 3) 0 (barrierRest 0 n)) .none
      let s := s.modCtx c.index fun c => { c with pairNumber := (n + 1) % 2 ^ 32 }
      if c.pairIn.contains n then
        (s.modCtx c.index fun c => { c with pairIn := c.pairIn.erase n }).addCell b cell 1
      else s.modCtx c.index fun c => { c with pairOut := c.pairOut ++ [(b, k, some cell, n)] }

/-- LAYER_MARK (R112, R113). -/
def State.layerMark (s : State) (b k : Nat) (d : Bytes) : State :=
  let b4 := fieldB d 4 1
  (s.modSlot b k fun x => { x with regionPart := bits b4 2 1, regionFrozen := bit b4 0 }).advance b k 16

/-! ### The messages -/

/-- SYNC_SET arrives (R289). -/
def State.onSyncSet (s : State) (p _ctx : Nat) (m : Msg) : State :=
  let b := fieldB m.payload 6 1 % 8
  if s.holdsBasin p b then s.addCell b (fieldB m.payload 7 1) (fieldB m.payload 8 2) else s.bumpBasin b cSyncReject

/-- ARRIVE arrives from a child (R293). -/
def State.onArrive (s : State) (p _ctx : Nat) (m : Msg) : State :=
  let i := fieldB m.payload 6 1 % 32
  match s.tree p i with
  | none => s
  | some t =>
    if t.children.contains m.src then
      (s.modTree p i fun x => { x with arrivals := x.arrivals ++ [(m.src, fieldB m.payload 8 4)] }).barrierStep p i
    else s

/-- RELEASE arrives from the parent (R293). -/
def State.onRelease (s : State) (p _ctx : Nat) (m : Msg) : State :=
  match s.tree p (fieldB m.payload 6 1 % 32) with
  | none => s
  | some t =>
    if t.parent == some m.src && t.outstanding.isSome && t.number == fieldB m.payload 8 4 then s.releaseTree p t else s

/-- PAIR_ARRIVE arrives from the peer (R293). -/
def State.onPairArrive (s : State) (_p i : Nat) (m : Msg) : State :=
  let n := fieldB m.payload 8 4
  match s.ctx i with
  | none => s
  | some c =>
    match c.pairOut.find? fun x => x.2.2.2 == n with
    | some x =>
      let s := s.modCtx i fun c => { c with pairOut := c.pairOut.filter fun y => y.2.2.2 != n }
      s.setWaited x.1 x.2.2.1
    | none => s.modCtx i fun c => { c with pairIn := c.pairIn ++ [n] }

/-! ### Clearing and ends of runs (R296, R345, R346) -/

/-- The staged pass of slot (b, k) is dropped (R296 step 1); one of an SPMM belongs to an issued descriptor and stays
(R145). -/
def State.dropStaged (s : State) (b k : Nat) : State :=
  { s with basins := s.basins.map fun x =>
      if x.mere.staged.any fun p => p.lead == b && p.slot == k && p.item.isNone then { x with mere := { x.mere with staged := none } } else x }

/-- Step 1 of the clearing: the slot stops, and a running one leaves State 2 (R319). -/
def Slot.stopped (x : Slot) : Slot :=
  { x with state := if x.state == .running then .loaded else x.state, clearing := true, stoppedAt := x.position }

/-- Step 1 of the clearing of slot (b, k): it stops, and its staged pass is dropped. -/
def State.stopSlot (s : State) (b k : Nat) : State := (s.modSlot b k Slot.stopped).dropStaged b k

/-- The slot's outstanding BARRIER and PAIR are abandoned (R296 step 5). -/
def State.abandonBarriers (s : State) (b k : Nat) : State :=
  let free (x : Nat × Nat × Option Nat) : Nat × Nat × Option Nat :=
    if x.1 == b && x.2.1 == k then (x.1, x.2.1, none) else x
  let s : State := { s with partitions := s.partitions.map fun (p : Partition) =>
    { p with trees := p.trees.map fun (t : TreeRec) => { t with outstanding := t.outstanding.map free } } }
  { s with contexts := s.contexts.map fun (c : PeerCtx) =>
    { c with pairOut := c.pairOut.map fun x => if x.1 == b && x.2.1 == k then (x.1, x.2.1, none, x.2.2.2) else x } }

/-- The cells that slot `k` of basin `b` owns are reset (R296 step 5). -/
def State.freeCells (s : State) (b k : Nat) : State :=
  s.modBasin b fun x =>
    { x with cells := x.cells.map fun c => if c.owned && c.owner.toNat == k then {} else c }

/-- Steps 3 and 4: the mere's tags and sets are cleared and the tarn's inlets zeroed. An operation that another slot has on
the tarn keeps them. -/
def State.clearUnits (s : State) (b : Nat) : State :=
  s.modBasin b fun x =>
    { x with mere := { x.mere with sets := List.replicate 2 {}, lastSet := 0 }
             inlets := if s.unitBusy b .tarn then x.inlets else List.replicate 64 {}
             spmm := if s.unitBusy b .tarn then x.spmm else none }

/-- Steps 3 to 6 of the clearing of one slot: it ends in State 1 with its stream loaded, and its Position stays where it
stopped (R346). -/
def State.clearSlot (s : State) (b k : Nat) : State :=
  let s := ((s.clearUnits b).freeCells b k).abandonBarriers b k
  s.modSlot b k fun x => { x with state := .loaded, clearing := false }

/-- CLEARING_COMPLETE: the slot's issued descriptors have completed and the mere is at rest (R296). -/
def State.clearingDone (s : State) (b k : Nat) : State :=
  if (s.slot b k).clearing && (s.slotFlights b k).isEmpty && (s.basin b).mere.staged.isNone && (s.passesOn b).isEmpty then
    let pos := (s.slot b k).stoppedAt
    let s := s.clearSlot b k
    (s.opens.filter fun o => o.kind == .taskStop b k).foldl (fun (s : State) o => s.finish o .done (toLE 8 pos)) s
  else s

/-- TASK_RUN_END: Position is Length; another run starts at Position 0 if runs remain (R345). A still holds only staging
and issue (R299). -/
def State.runEnd (s : State) (b k : Nat) : State :=
  let x := s.slot b k
  if x.state == .running && !x.clearing && s.head b k == .atEnd && (x.repeatCount == 0 || x.runsDone < x.repeatCount) then
    s.modSlot b k fun x =>
      { x with runsDone := x.runsDone + 1, regionPart := 3, regionFrozen := false
               position := if x.repeatCount = 0 || x.runsDone + 1 < x.repeatCount then 0 else x.position }
  else s

/-- TASK_FINISH: the last run has ended and every issued descriptor has completed (R346). -/
def State.taskFinish (s : State) (b k : Nat) : State :=
  let x := s.slot b k
  if x.state == .running && !x.clearing && x.repeatCount != 0 && x.runsDone == x.repeatCount && x.length ≤ x.position &&
      (s.slotFlights b k).isEmpty then
    (s.postSlot b k 2 0 0 0 0 0).modSlot b k fun x => { x with state := .finished }
  else s

/-- SKIPPED_DESCRIPTOR: a descriptor of a frozen weight-gradient region leaves the head (R113). -/
def State.skipDescriptor (s : State) (b k : Nat) : State :=
  if s.slotIssues b k then
    match s.head b k with
    | .desc d => if (s.slot b k).skips d then (s.setCellIf b (dSetCell d)).advance b k d.length else s
    | _ => s
  else s

/-- UNKNOWN_CLASS_DESCRIPTOR (R27). -/
def State.unknownClass (s : State) (b k : Nat) : State :=
  if s.slotIssues b k && s.head b k == .illegal then s.haltIllegal b k 0 else s

/-! ### Commands -/

/-- SET (R286), and the sync descriptors whose Op is none of Table 13.4 (R291). -/
def execSyncSetCell (t b k : Nat) (s : State) : Host.Outcome State Fault Refusal :=
  s.runAlive t fun u => u.syncStep b k (fun op => op == 1 || !([2, 3, 4, 5, 6, 7, 0x40].contains op)) fun d =>
    (u.addCell b (fieldB d 2 1) (fieldB d 6 2)).advance b k 16
/-- SET_REMOTE (R289). -/
def execSetRemote (t b k : Nat) (s : State) : Host.Outcome State Fault Refusal :=
  s.runAlive t fun u => u.syncStep b k (· == 2) fun d => u.setRemote b k d
/-- ARM (R286). -/
def execArm (t b k : Nat) (s : State) : Host.Outcome State Fault Refusal :=
  s.runAlive t fun u => u.syncStep b k (· == 3) fun d =>
    (u.modCell b (fieldB d 2 1) fun c => { c with count := 0, target := BitVec.ofNat 16 (fieldB d 6 2) }).advance b k 16
/-- WAIT (R288). -/
def execWait (t b k : Nat) (s : State) : Host.Outcome State Fault Refusal :=
  s.runAlive t fun u => u.syncStep b k (· == 4) fun d =>
    if (u.cell b (fieldB d 2 1)).isSet then u.advance b k 16 else u
/-- BARRIER (R293). -/
def execBarrier (t b k : Nat) (s : State) : Host.Outcome State Fault Refusal :=
  s.runAlive t fun u => u.syncStep b k (· == 5) fun d => u.barrier b k d
/-- PAIR (R293). -/
def execPair (t b k : Nat) (s : State) : Host.Outcome State Fault Refusal :=
  s.runAlive t fun u => u.syncStep b k (· == 6) fun d => u.pair b k d
/-- WAIT_STEP (R288). -/
def execWaitStep (t b k : Nat) (s : State) : Host.Outcome State Fault Refusal :=
  s.runAlive t fun u => u.syncStep b k (· == 7) fun d =>
    if fieldB d 8 8 ≤ u.stepOf b then u.advance b k 16 else u
/-- LAYER_MARK (R112, R113). -/
def execLayerMark (t b k : Nat) (s : State) : Host.Outcome State Fault Refusal :=
  s.runAlive t fun u => u.syncStep b k (· == 0x40) fun d => u.layerMark b k d
/-- SKIPPED_DESCRIPTOR (R113). -/
def execSkippedDescriptor (t b k : Nat) (s : State) : Host.Outcome State Fault Refusal :=
  s.runAlive t fun u => u.skipDescriptor b k
/-- UNKNOWN_CLASS_DESCRIPTOR (R27). -/
def execUnknownClassDescriptor (t b k : Nat) (s : State) : Host.Outcome State Fault Refusal :=
  s.runAlive t fun u => u.unknownClass b k
/-- TASK_RUN_END (R345). -/
def execTaskRunEnd (t b k : Nat) (s : State) : Host.Outcome State Fault Refusal := s.runAlive t fun u => u.runEnd b k
/-- TASK_FINISH (R346). -/
def execTaskFinish (t b k : Nat) (s : State) : Host.Outcome State Fault Refusal := s.runAlive t fun u => u.taskFinish b k
/-- CLEARING_COMPLETE (R296). -/
def execClearingComplete (t b k : Nat) (s : State) : Host.Outcome State Fault Refusal :=
  s.runAlive t fun u => u.clearingDone b k
/-- SYNC_SET (R289). -/
def execSyncSet (t : Nat) (s : State) : Host.Outcome State Fault Refusal :=
  s.runAlive t fun u => u.onMessage (· == 0) 0x10 State.onSyncSet
/-- ARRIVE (R293). -/
def execArrive (t : Nat) (s : State) : Host.Outcome State Fault Refusal :=
  s.runAlive t fun u => u.onMessage (· == 0) 0x11 State.onArrive
/-- RELEASE (R293). -/
def execRelease (t : Nat) (s : State) : Host.Outcome State Fault Refusal :=
  s.runAlive t fun u => u.onMessage (· == 0) 0x12 State.onRelease
/-- PAIR_ARRIVE (R293). -/
def execPairArrive (t : Nat) (s : State) : Host.Outcome State Fault Refusal :=
  s.runAlive t fun u => u.onMessage (· == 0) 0x13 State.onPairArrive

end Sys2Proof.Machine
end

