-- ==== Sys2Proof/Machine/Vector.lean ====
section
/-! DEFINITION. The vector strip (spec 03 R72 to R78): its descriptor, its operations and their completion. -/

namespace Sys2Proof.Machine

/-- Operation codes of Table 3.8. -/
def vectorOps : List Nat := [1, 2, 3, 4, 5, 6, 7, 8, 9, 0x0A, 0x0B, 0x10, 0x11, 0x12, 0x13, 0x14, 0x15, 0x16]

/-- Operations that read no B (R72). -/
def vectorNoB (op : Nat) : Bool := [5, 6, 0x0A, 0x0B, 0x10, 0x11, 0x12, 0x13, 0x14, 0x15].contains op

/-- The reductions of R74: one result. -/
def vectorReduction (op : Nat) : Bool := 0x10 ≤ op && op ≤ 0x15

/-- A format code that the vector strip accepts (Table 3.1). -/
def vectorFormat (c : Nat) : Bool := c ≤ 0x0D

/-- UseScalar of a vector descriptor. -/
def vUseScalar (d : Bytes) : Bool := bit (fieldB d 31 1) 0

/-- A segment field of a vector or table operation: pool or shared, reserved bits 0 (R77). -/
def segVT (v : Nat) : Bool := v == 0 || v == 3

/-- A format code names an MX format; the reserved bits of its byte play no part (R78). -/
def mxCode (c : Nat) : Bool := 5 ≤ c % 32 && c % 32 ≤ 0x0A

/-- An operand of the descriptor is MX: A, B where the operation reads it, or the destination. -/
def vectorAnyMX (noB : Bool) (d : Bytes) : Bool :=
  mxCode (fieldB d 14 1) || (!noB && mxCode (fieldB d 22 1)) || mxCode (ctlFormat (fieldB d 2 2))

/-- The first illegal field of a vector descriptor (R72, R74, R77, R78). -/
def vectorIllegal (d : Bytes) : Option Nat :=
  let op := dOp d
  let ctl := fieldB d 2 2
  let n := fieldB d 4 4
  let noB := vectorNoB op
  let us := vUseScalar d
  firstIllegal
    [(1, vectorOps.contains op),
     (2, if vectorReduction op || op == 0x16 then ctl == 0 else ctlLegal ctl && vectorFormat (ctlFormat ctl)),
     (4, 1 ≤ n && n ≤ 16777216 && (!vectorAnyMX noB d || n % 32 == 0)),
     (14, vectorFormat (fieldB d 14 1)),
     (15, segVT (fieldB d 15 1)),
     (16, !noB || fieldB d 16 6 == 0),
     (22, if noB then fieldB d 22 1 == 0 else vectorFormat (fieldB d 22 1)),
     (23, if noB then fieldB d 23 1 == 0 else segVT (fieldB d 23 1)),
     (30, segVT (fieldB d 30 1)),
     (31, fieldB d 31 1 < 8),
     (32, us || fieldB d 32 6 == 0),
     (38, if us then segVT (fieldB d 38 1) else fieldB d 38 1 == 0),
     (39, fieldB d 39 1 == 0),
     (42, fieldB d 42 2 == 0)]

/-- A format of a legal descriptor. -/
def fmtD (c : Nat) : Fmt := (fmtOf c).getD .fp32

/-- Accesses to a packed tensor of the vector strip or the table units: elements, and the scale array of an MX
format at the next 4 KiB-aligned offset (R72). -/
def tensorAccesses (field seg off : Nat) (f : Fmt) (n : Nat) (write : Bool) (reach : Reach) : List Access :=
  ⟨field, seg, off, f.bytesFor n, write, reach⟩ ::
    (if f.isMX then [⟨field, seg, alignUp (off + f.bytesFor n) 4096, ceilDiv n 32, write, reach⟩] else [])

/-- Bytes of one result, for the operations that do not write a tensor. -/
def vectorRecord (op n : Nat) : Nat :=
  if op == 0x14 then 8 else if op == 0x15 then 16 else if op == 0x16 then 16 * n else 4

/-- The operation writes a tensor element by element. -/
def vectorElementwise (op : Nat) : Bool := !vectorReduction op && op != 0x16

/-- Accesses of a vector descriptor of basin `b`, in the order of the naming fields. -/
def vectorAccesses (b : Nat) (d : Bytes) : List Access :=
  let op := dOp d
  let n := fieldB d 4 4
  let r := Reach.poolsOnly b
  let fd := fmtD (ctlFormat (fieldB d 2 2))
  let dst := fieldB d 24 6
  let sd := fieldB d 30 1
  (if op == 0x16 then [⟨8, fieldB d 15 1, fieldB d 8 6, 16 * n, false, r⟩]
   else tensorAccesses 8 (fieldB d 15 1) (fieldB d 8 6) (fmtD (fieldB d 14 1)) n false r) ++
  (if vectorNoB op then []
   else if op == 0x16 then [⟨16, fieldB d 23 1, fieldB d 16 6, 16 * n, false, r⟩]
   else tensorAccesses 16 (fieldB d 23 1) (fieldB d 16 6) (fmtD (fieldB d 22 1)) n false r) ++
  (if op == 3 then tensorAccesses 24 sd dst fd n false r else []) ++
  (if vectorElementwise op then tensorAccesses 24 sd dst fd n true r else [⟨24, sd, dst, vectorRecord op n, true, r⟩]) ++
  (if vUseScalar d then [⟨32, fieldB d 38 1, fieldB d 32 6, 4, false, r⟩] else [])

/-- The result of one element (Table 3.8), before the one rounding to FP32. -/
def vectorElem (op : Nat) (sc a b d : Val) : Val :=
  match op with
  | 1 => Val.add a b
  | 2 => Val.mul a b
  | 3 => Val.add (Val.mul a b) d
  | 4 => Val.add (Val.mul sc a) b
  | 5 => Val.mul sc a
  | 7 => max2 a b
  | 8 => min2 a b
  | 9 => divVal a b
  | 0x0A => sqrtVal a
  | 0x0B => rsqrtVal a
  | _ => a

/-- The elementwise results of an operation, rounded once to FP32 (R73). -/
def vectorElems (op : Nat) (sc : Val) : List Val → List Val → List Val → List Val
  | [], _, _ => []
  | a :: as, bs, ds => rn32 (vectorElem op sc a (bs.headD Val.zero) (ds.headD Val.zero)) :: vectorElems op sc as bs.tail ds.tail

/-- A value comes at or above the other in the order of MAX: +0 above −0 (R74). -/
def maxTie (m a : Val) : Bool := Val.numEq m a && (!m.isZero || m.signBit == a.signBit)

/-- The index that ARGMAX writes and its value (R74). -/
def argmaxOf (vs : List Val) : Nat × Val :=
  match vs.findIdx? Val.isNaN with
  | some i => (i, .nan)
  | none =>
    let m := vs.tail.foldl max2 (vs.headD Val.zero)
    ((vs.findIdx? (maxTie m)).getD 0, m)

/-- The square of a value. -/
def Val.sq (v : Val) : Val := Val.mul v v

/-- A quotient of a value by a positive number, to be rounded once. -/
def Val.divNat (v : Val) (n : Nat) : Val :=
  match v with
  | .fin s m e => quotient s m n e
  | x => x

/-- A mean and variance state record (R75). -/
def meanVarRecord (n : Nat) (mean m2 : Nat) : Bytes := toLE 8 n ++ toLE 4 mean ++ toLE 4 m2

/-- MEAN_VAR (R75): mean Σa/n and M2 = Σa² − (Σa)²/n, each as if exact and rounded once. -/
def meanVarOf (vs : List Val) : Bytes :=
  let n := vs.length
  let t := Val.sum vs
  let q := Val.sum (vs.map Val.sq)
  let m2 := (Val.add (Val.mul (Val.ofInt n) q) (Val.sq t).neg).divNat n
  meanVarRecord n (toF32 (t.divNat n)) (toF32 m2)

/-- MEAN_VAR_MERGE of two records (R75). Where the counts add up to 2^64 or more, which the specification does not speak of,
the quotients use the whole sum and the record keeps its low 64 bits (DESIGN CHOICE, assumption 59). -/
def meanVarMerge (a b : Bytes) : Bytes :=
  let an := fieldB a 0 8
  let bn := fieldB b 0 8
  let n := an + bn
  if an = 0 then sliceB b 0 16
  else if bn = 0 then sliceB a 0 16
  else
    let am := f32 (fieldB a 8 4)
    let bm := f32 (fieldB b 8 4)
    let d := rn32 (Val.add bm am.neg)
    let f := rn32 (quotient false bn n 0)
    let g := rn32 (quotient false (an * bn) n 0)
    let mean := rn32 (Val.add am (rn32 (Val.mul d f)))
    let m2 := rn32 (Val.add (rn32 (Val.add (f32 (fieldB a 12 4)) (f32 (fieldB b 12 4)))) (rn32 (Val.mul (rn32 (Val.sq d)) g)))
    meanVarRecord n (toF32 mean) (toF32 m2)

/-- The bytes a reduction writes (R74, R75). -/
def reductionBytes (op : Nat) (vs : List Val) : Bytes :=
  match op with
  | 0x10 => toLE 4 (toF32 (Val.sum vs))
  | 0x11 => toLE 4 (toF32 (Val.sum (vs.map Val.sq)))
  | 0x12 => toLE 4 (toF32 (vs.tail.foldl max2 (vs.headD Val.zero)))
  | 0x13 => toLE 4 (toF32 (vs.tail.foldl min2 (vs.headD Val.zero)))
  | 0x14 => let r := argmaxOf vs; toLE 4 r.1 ++ toLE 4 (toF32 r.2)
  | _ => meanVarOf vs

/-- The scalar s of R73. -/
def State.vectorScalar (s : State) (b k : Nat) (d : Bytes) : Val :=
  let imm := f32 (fieldB d 44 4)
  if vUseScalar d then rn32 (Val.mul imm (f32 (leNat (s.read (s.segAddr b k (fieldB d 38 1) (fieldB d 32 6)) 4)))) else imm

/-- What a vector descriptor writes, computed from the state at its issue. -/
def State.vectorResult (s : State) (b k : Nat) (bad : List Range) (d : Bytes) : List Stored :=
  let op := dOp d
  let n := fieldB d 4 4
  let ctl := fieldB d 2 2
  let fa := fmtD (fieldB d 14 1)
  let fb := fmtD (fieldB d 22 1)
  let fd := fmtD (ctlFormat ctl)
  let a := s.segAddr b k (fieldB d 15 1) (fieldB d 8 6)
  let ab := s.segAddr b k (fieldB d 23 1) (fieldB d 16 6)
  let ad := s.segAddr b k (fieldB d 30 1) (fieldB d 24 6)
  let scalarBad := vUseScalar d && s.readPoison bad (s.segAddr b k (fieldB d 38 1) (fieldB d 32 6)) 4
  if op == 0x16 then
    let rec1 (i : Nat) : Bytes := meanVarMerge (s.read (a + 16 * i) 16) (s.read (ab + 16 * i) 16)
    let badRec (i : Nat) : Bool := scalarBad || s.readPoison bad (a + 16 * i) 16 || s.readPoison bad (ab + 16 * i) 16
    [{ ranges := [(ad, (List.range n).flatMap rec1)]
       marks := ((List.range n).filter badRec).map fun i => (ad + 16 * i, 16) }]
  else
    let va := s.valuesAt fa a (scaleAddr fa a n) n
    let pa := s.poisonAt bad fa a (scaleAddr fa a n) n
    if vectorReduction op then
      let bs := reductionBytes op va
      [{ ranges := [(ad, bs)], marks := if scalarBad || pa.any id then [(ad, bs.length)] else [] }]
    else if op == 6 && fa == fd then
      let sa := scaleAddr fa a n
      let sd := scaleAddr fa ad n
      [{ ranges := (ad, s.read a (fa.bytesFor n)) :: (if fa.isMX then [(sd, s.read sa (ceilDiv n 32))] else [])
         marks := markedElems fa ad sd (pa.map (· || scalarBad)) }]
    else
      let vb := if vectorNoB op then [] else s.valuesAt fb ab (scaleAddr fb ab n) n
      let vd := if op == 3 then s.valuesAt fd ad (scaleAddr fd ad n) n else []
      let pb := if vectorNoB op then [] else s.poisonAt bad fb ab (scaleAddr fb ab n) n
      let pd := if op == 3 then s.poisonAt bad fd ad (scaleAddr fd ad n) n else []
      let marks := (List.range n).map fun i => scalarBad || pa.getD i false || pb.getD i false || pd.getD i false
      [storeTensor fd ctl (s.slot b k).seed.toNat (s.stepOf b) (fieldB d 30 1) (fieldB d 24 6) ad
        (vectorElems op (s.vectorScalar b k d) va vb vd) marks]

/-- A vector descriptor at the head of its slot: halts, waits or issues (R73, R78, R185, R194). -/
def State.vectorIssue (s : State) (b : Nat) (errs : List CheckErr) (k : Nat) : State :=
  s.atHead b k 3 (fun _ => true) vectorIllegal fun d =>
    let xs := vectorAccesses b d
    s.checked b k xs <|
      let w := (xs.filter (·.write)).map fun x => (s.segAddr b k x.seg x.off, x.len)
      if s.countsAllow w then
        let s := s.noteErrs b errs
        let out := s.vectorResult b k (badReads errs) d
        (s.putStored b k errs out).issued b k d .vector w [b] false none
      else s

/-- A vector operation that a test admits, in its turn (R26). -/
def State.vectorStep (s : State) (b k : Nat) (errs : List CheckErr) (isOp : Nat → Bool) : State :=
  if s.headMeets b k (· == 3) isOp then s.inTurn b .vector k (s.vectorIssue b errs) else s

/-- ADD (R73), and the vector descriptors whose Op is none of Table 3.8 (R78). -/
def execAdd (t b k : Nat) (errs : List CheckErr) (s : State) : Host.Outcome State Fault Refusal :=
  s.runAlive t fun u => u.vectorStep b k errs fun op => op == 1 || !vectorOps.contains op
/-- MUL (R73). -/
def execMul (t b k : Nat) (errs : List CheckErr) (s : State) : Host.Outcome State Fault Refusal :=
  s.runAlive t fun u => u.vectorStep b k errs (· == 2)
/-- FMA (R73). -/
def execFma (t b k : Nat) (errs : List CheckErr) (s : State) : Host.Outcome State Fault Refusal :=
  s.runAlive t fun u => u.vectorStep b k errs (· == 3)
/-- AXPY (R73). -/
def execAxpy (t b k : Nat) (errs : List CheckErr) (s : State) : Host.Outcome State Fault Refusal :=
  s.runAlive t fun u => u.vectorStep b k errs (· == 4)
/-- SCALE (R73). -/
def execScale (t b k : Nat) (errs : List CheckErr) (s : State) : Host.Outcome State Fault Refusal :=
  s.runAlive t fun u => u.vectorStep b k errs (· == 5)
/-- CONVERT (R73, R68). -/
def execConvert (t b k : Nat) (errs : List CheckErr) (s : State) : Host.Outcome State Fault Refusal :=
  s.runAlive t fun u => u.vectorStep b k errs (· == 6)
/-- MAX2 (R73). -/
def execMax2 (t b k : Nat) (errs : List CheckErr) (s : State) : Host.Outcome State Fault Refusal :=
  s.runAlive t fun u => u.vectorStep b k errs (· == 7)
/-- MIN2 (R73). -/
def execMin2 (t b k : Nat) (errs : List CheckErr) (s : State) : Host.Outcome State Fault Refusal :=
  s.runAlive t fun u => u.vectorStep b k errs (· == 8)
/-- DIV (R73). -/
def execDiv (t b k : Nat) (errs : List CheckErr) (s : State) : Host.Outcome State Fault Refusal :=
  s.runAlive t fun u => u.vectorStep b k errs (· == 9)
/-- SQRT (R73). -/
def execSqrt (t b k : Nat) (errs : List CheckErr) (s : State) : Host.Outcome State Fault Refusal :=
  s.runAlive t fun u => u.vectorStep b k errs (· == 0x0A)
/-- RSQRT (R73). -/
def execRsqrt (t b k : Nat) (errs : List CheckErr) (s : State) : Host.Outcome State Fault Refusal :=
  s.runAlive t fun u => u.vectorStep b k errs (· == 0x0B)
/-- SUM (R74). -/
def execSum (t b k : Nat) (errs : List CheckErr) (s : State) : Host.Outcome State Fault Refusal :=
  s.runAlive t fun u => u.vectorStep b k errs (· == 0x10)
/-- SUMSQ (R74). -/
def execSumsq (t b k : Nat) (errs : List CheckErr) (s : State) : Host.Outcome State Fault Refusal :=
  s.runAlive t fun u => u.vectorStep b k errs (· == 0x11)
/-- MAX (R74). -/
def execMax (t b k : Nat) (errs : List CheckErr) (s : State) : Host.Outcome State Fault Refusal :=
  s.runAlive t fun u => u.vectorStep b k errs (· == 0x12)
/-- MIN (R74). -/
def execMin (t b k : Nat) (errs : List CheckErr) (s : State) : Host.Outcome State Fault Refusal :=
  s.runAlive t fun u => u.vectorStep b k errs (· == 0x13)
/-- ARGMAX (R74). -/
def execArgmax (t b k : Nat) (errs : List CheckErr) (s : State) : Host.Outcome State Fault Refusal :=
  s.runAlive t fun u => u.vectorStep b k errs (· == 0x14)
/-- MEAN_VAR (R75). -/
def execMeanVar (t b k : Nat) (errs : List CheckErr) (s : State) : Host.Outcome State Fault Refusal :=
  s.runAlive t fun u => u.vectorStep b k errs (· == 0x15)
/-- MEAN_VAR_MERGE (R75). -/
def execMeanVarMerge (t b k : Nat) (errs : List CheckErr) (s : State) : Host.Outcome State Fault Refusal :=
  s.runAlive t fun u => u.vectorStep b k errs (· == 0x16)

/-- VECTOR_OPERATION_COMPLETE (R76, R286): the n-th oldest vector operation of basin `b` completes. -/
def execVectorOperationComplete (t b n : Nat) (s : State) : Host.Outcome State Fault Refusal :=
  s.runAlive t fun u => u.completeNth b .vector n

end Sys2Proof.Machine
end

