-- ==== Sys2Proof/Machine/Rings.lean ====
section
/-! DEFINITION. Ring blocks and reduce-scatter (spec 12 R266 to R278; 03 R57, R58): the geometry of a group, the ring
adder, the agreed scale, and what a member does with the blocks and scale bytes that reach it. -/

namespace Sys2Proof.Machine

/-! ### The collective descriptor (Table 12.3) -/

/-- Store control word. -/
def cCtl (d : Bytes) : Nat := fieldB d 2 2
/-- Count. -/
def cCount (d : Bytes) : Nat := fieldB d 4 4
/-- Src. -/
def cSrc (d : Bytes) : Nat := fieldB d 8 6
/-- Format of the source. -/
def cFmtSrc (d : Bytes) : Fmt := fmtD (fieldB d 14 1)
/-- SegSrc. -/
def cSegSrc (d : Bytes) : Nat := fieldB d 15 1 % 4
/-- Dst. -/
def cDst (d : Bytes) : Nat := fieldB d 16 6
/-- SegDst. -/
def cSegDst (d : Bytes) : Nat := fieldB d 22 1 % 4
/-- GroupId. -/
def cGid (d : Bytes) : Nat := fieldB d 23 1
/-- Aux. -/
def cAux (d : Bytes) : Nat := fieldB d 24 6
/-- SegAux. -/
def cSegAux (d : Bytes) : Nat := fieldB d 30 1 % 4
/-- Deterministic. -/
def cDet (d : Bytes) : Bool := bit (fieldB d 31 1) 6
/-- PrePass. -/
def cPre (d : Bytes) : Bool := bit (fieldB d 31 1) 5
/-- Wire: BF16 when set. -/
def cWire (d : Bytes) : Bool := bit (fieldB d 31 1) 4
/-- Mean. -/
def cMean (d : Bytes) : Bool := bit (fieldB d 31 1) 3
/-- Aux2. -/
def cAux2 (d : Bytes) : Nat := fieldB d 32 6
/-- SegAux2. -/
def cSegAux2 (d : Bytes) : Nat := fieldB d 38 1 % 4
/-- Seq. -/
def cSeq (d : Bytes) : Nat := fieldB d 42 2 % 4096
/-- Aux3. -/
def cAux3 (d : Bytes) : Nat := fieldB d 44 6
/-- SegAux3. -/
def cSegAux3 (d : Bytes) : Nat := fieldB d 50 1 % 4
/-- Aux4. -/
def cAux4 (d : Bytes) : Nat := fieldB d 52 6
/-- SegAux4. -/
def cSegAux4 (d : Bytes) : Nat := fieldB d 58 1 % 4
/-- Choices per token. -/
def cK (d : Bytes) : Nat := fieldB d 59 1 % 8 + 1
/-- Row bytes. -/
def cRow (d : Bytes) : Nat := 64 * fieldB d 60 2
/-- Width. -/
def cWidth (d : Bytes) : Nat := fieldB d 62 2
/-- Rec. -/
def cRec (d : Bytes) : Nat := fieldB d 64 6
/-- Row stride of D in bytes. -/
def cStride (d : Bytes) : Nat := 64 * fieldB d 70 2
/-- Format of the store control word. -/
def cFmtDst (d : Bytes) : Fmt := fmtD (ctlFormat (cCtl d))

/-- The item word of a collective message (R261). -/
def collPlace (gid seq item : Nat) : Nat := gid * 2 ^ 37 + seq * 2 ^ 25 + item

/-- GroupId of a collective message. -/
def Msg.gid (m : Msg) : Nat := bits m.place44 44 37
/-- Seq of a collective message. -/
def Msg.seqNo (m : Msg) : Nat := bits m.place44 36 25
/-- Item of a collective message. -/
def Msg.item (m : Msg) : Nat := m.place44 % 2 ^ 25

/-! ### Geometry of a group (R266, R267) -/

/-- Members. -/
def GroupRec.n (g : GroupRec) : Nat := g.members.length
/-- Hierarchical. -/
def GroupRec.hier (g : GroupRec) : Bool := g.algorithm == 2
/-- Members of an inner group, or the whole ring. -/
def GroupRec.a (g : GroupRec) : Nat := if g.hier then max g.inner 1 else max g.n 1
/-- Inner groups. -/
def GroupRec.b (g : GroupRec) : Nat := g.n / g.a

/-- The shard that rank `r` owns (R266). -/
def GroupRec.shardOf (g : GroupRec) (r : Nat) : Nat := if g.hier then r % g.a * g.b + r / g.a else r

/-- The rank that owns shard `s`. -/
def GroupRec.ownerOf (g : GroupRec) (s : Nat) : Nat := if g.hier then s % g.b * g.a + s / g.b else s

/-- The joined ranks of the ring that rank `r` takes part in: its inner group's, or all. -/
def GroupRec.ring (g : GroupRec) (js : List Nat) (r : Nat) : List Nat := js.filter fun x => x / g.a == r / g.a

/-- The member after `x`, cyclically. -/
def succIn (l : List Nat) (x : Nat) : Nat := ((l.find? fun y => x < y).orElse fun _ => l.head?).getD x

/-- The member before `x`, cyclically. -/
def predIn (l : List Nat) (x : Nat) : Nat := (((l.filter fun y => y < x).getLast?).orElse fun _ => l.getLast?).getD x

/-- The holder of position `x`: itself when joined, else the last member before it. -/
def holderIn (l : List Nat) (x : Nat) : Nat := if l.contains x then x else predIn l x

/-- The holder of shard `s` among the joined ranks; none when its whole inner group is absent. -/
def GroupRec.holder (g : GroupRec) (js : List Nat) (s : Nat) : Option Nat :=
  let l := g.ring js (g.ownerOf s)
  if l.isEmpty then none else some (holderIn l (g.ownerOf s))

/-- The position in rank `x`'s ring at which blocks of shard `s` end: the shard's owner, or inner position j. -/
def GroupRec.endPos (g : GroupRec) (x s : Nat) : Nat := if g.hier then x / g.a * g.a + s / g.b else s

/-- Where blocks of shard `s` end in the ring of rank `x`. -/
def GroupRec.innerHolder (g : GroupRec) (js : List Nat) (x s : Nat) : Nat := holderIn (g.ring js x) (g.endPos x s)

/-- The start member of a block of shard `s` in the ring of rank `x`; the second half of a bidirectional ring's shard
goes the other way. -/
def GroupRec.startOf (g : GroupRec) (js : List Nat) (x s : Nat) (rev : Bool) : Nat :=
  let l := g.ring js x
  let h := g.innerHolder js x s
  if rev then predIn l h else succIn l h

/-- The member that follows `x` on a block's way. -/
def GroupRec.nextOf (g : GroupRec) (js : List Nat) (x : Nat) (rev : Bool) : Nat :=
  let l := g.ring js x
  if rev then predIn l x else succIn l x

/-- log2 of the number of inner groups: the outer steps. -/
def GroupRec.steps (g : GroupRec) : Nat := if g.hier then g.b.log2 else 0

/-! ### The ring adder (R57, R58, R269, R273) -/

/-- Bytes of a block on the wire: RB16, or 64 BF16 values. -/
def wireSize (bf : Bool) : Nat := if bf then 128 else 130

/-- Blocks in the largest message. -/
def wireMax (bf : Bool) : Nat := if bf then 32 else 31

/-- The bytes of a block (Table 3.3), or its BF16 codes. -/
def Block.bytes (bf : Bool) (x : Block) : Bytes :=
  (x.mants.flatMap fun m => toLE 2 (unsigned 16 m)) ++
    (if bf then [] else toLE 1 x.exp ++ toLE 1 ((if x.nonfinite then 2 else 0) + (if x.raised then 1 else 0)))

/-- A block from its bytes. Table 3.3 reserves bits 7:2 of byte 129 and states no response to a block that arrives with one
of them set: the model ignores them (DESIGN CHOICE, assumption 61). -/
def blockFrom (bf : Bool) (b : Bytes) (poisoned : Bool) : Block :=
  let ms := (chunksLE 2 64 (b.take 128)).map fun (v : Nat) => if bf then (v : Int) else signed 16 v
  let f := fieldB b 129 1
  { exp := if bf then 0 else fieldB b 128 1, mants := ms, nonfinite := !bf && bit f 1, raised := !bf && bit f 0
    poisoned := poisoned, seen := !bf && bit f 0 }

/-- The exact values of a block (R57), or of BF16 codes. -/
def Block.values (bf : Bool) (x : Block) : List Val :=
  if bf then x.mants.map fun m => decodeElem .bf16 m.toNat
  else if x.nonfinite then x.mants.map fun _ => .nan
  else x.mants.map fun m => .fin (m < 0) m.natAbs ((x.exp : Int) - 142)

/-- The block that a start member begins with (R267). -/
def startBlock (exp : Nat) : Block := { exp := exp, mants := List.replicate 64 0 }

/-- Every value fits the mantissas at exponent `e` (R269). -/
def fitsAt (vs : List Val) (e : Nat) : Bool :=
  vs.all fun v =>
    match v with
    | .fin _ m x => rneAt m x ((e : Int) - 142) ≤ 32767
    | _ => false

/-- The lowest exponent from `e` up to 255 that fits. -/
def fitExp : Nat → List Val → Nat → Option Nat
  | 0, _, _ => none
  | n + 1, vs, e => if 255 < e then none else if fitsAt vs e then some e else fitExp n vs (e + 1)

/-- The mantissa of a value at an exponent (R58). -/
def mantissaAt (e : Nat) : Val → Int
  | .fin s m x => (if s then -1 else 1) * (rneAt m x ((e : Int) - 142) : Nat)
  | _ => 0

/-- hop (R269): an incoming block and addend values, with the addend's exponent and flags when it is a block. -/
def hop (x : Block) (add : List Val) (exp2 : Nat) (raised2 nonfinite2 : Bool) : Block :=
  let base := max x.exp exp2
  if x.nonfinite || nonfinite2 || add.any Val.isSpecial then
    { x with exp := base, mants := List.replicate 64 0, raised := x.raised || raised2, nonfinite := true }
  else
    let vs := List.zipWith Val.add (x.values false) add
    match fitExp 256 vs base with
    | none => { x with exp := 255, mants := List.replicate 64 0, raised := true, nonfinite := true }
    | some e => { x with exp := e, mants := vs.map (mantissaAt e), raised := x.raised || raised2 || base < e }

/-- One hop with BF16 on the wire (R273). -/
def hopBf (x : Block) (add : List Val) : Block :=
  { x with mants := (List.zipWith Val.add (x.values true) add).map fun v => ((storeElem .bf16 .nearest true v : Nat) : Int) }

/-- The normalised exponent N of a block (R272). -/
def normExp : Nat → List Int → Nat → Nat
  | 0, _, e => e
  | n + 1, ms, e =>
    if e = 0 then 0
    else if (ms.map fun m => m * 2).all fun m => m.natAbs ≤ 32767 then normExp n (ms.map fun m => m * 2) (e - 1)
    else e

/-! ### A reduce-scatter at a member -/

/-- What stays fixed while a member works on an instance. -/
structure RingJob where
  p : Nat
  g : GroupRec
  step : Nat
  gid : Nat
  seq : Nat
  /-- Own rank and joined ranks. -/
  x : Nat
  js : List Nat
  b : Nat
  k : Nat
  d : Bytes
  /-- The divisor D of Table 12.8. -/
  divisor : Nat
  late : Option LateStore
  /-- Ranges whose data arrives poisoned although no marking says so (R220, R221). -/
  bad : List Range
  deriving DecidableEq, Repr

/-- Wire 1. -/
def RingJob.bf (q : RingJob) : Bool := cWire q.d
/-- Blocks per shard. -/
def RingJob.c (q : RingJob) : Nat := max (cCount q.d / 64) 1
/-- Blocks of the whole tensor. -/
def RingJob.total (q : RingJob) : Nat := q.g.n * q.c
/-- Shard of a block. -/
def RingJob.shard (q : RingJob) (o : Nat) : Nat := o / q.c
/-- The block goes against rank order: the second half of a bidirectional ring's shard. -/
def RingJob.rev (q : RingJob) (o : Nat) : Bool := q.g.algorithm == 1 && q.c ≤ 2 * (o % q.c)
/-- Start member of a block in this member's ring. -/
def RingJob.start (q : RingJob) (o : Nat) : Nat := q.g.startOf q.js q.x (q.shard o) (q.rev o)
/-- Where the block ends in this member's ring. -/
def RingJob.inner (q : RingJob) (o : Nat) : Nat := q.g.innerHolder q.js q.x (q.shard o)
/-- Holder of the block's shard. -/
def RingJob.holder (q : RingJob) (o : Nat) : Option Nat := q.g.holder q.js (q.shard o)
/-- The member that begins the pre-pass of a block: the one after its holder round the ring of all joined members;
for a ring, the start member. -/
def RingJob.first (q : RingJob) (o : Nat) : Nat :=
  if q.g.hier then succIn q.js ((q.holder o).getD q.x) else q.start o
/-- Device ID of a rank. -/
def RingJob.dev (q : RingJob) (r : Nat) : Nat := q.g.members.getD r 0xFFFF

/-- Progress of a member: state, its part, blocks to send (rank, ordinal, block), scale bytes to send. -/
structure RingRun where
  s : State
  m : MemberPart
  out : List (Nat × Nat × Block) := []
  bytes : List (Nat × Nat × Nat) := []

/-- A member's contribution to block `o`, with any held late contribution, and whether a byte of it is poisoned (R267,
R277, R278). -/
def RingJob.contribution (q : RingJob) (s : State) (o : Nat) : List Val × Bool :=
  let part (d : Bytes) (b k seg off : Nat) : List Val × Bool :=
    let f := cFmtSrc d
    let a := s.segAddr b k seg off + f.bytesFor (64 * o)
    ((s.codesAt f a 64).map (decodeElem f), s.readPoison q.bad a (f.bytesFor 64))
  let (vs, p) := part q.d q.b q.k (cSegSrc q.d) (cSrc q.d)
  match q.late with
  | none => (vs, p)
  | some l =>
    let (ws, w) := part l.desc l.basin l.slot (cSegAux2 l.desc) (cAux2 l.desc)
    (List.zipWith Val.add vs ws, p || w)

/-- The random words' places for 64 elements from element `e0` on of a packed tensor at segment offset `off` (R71). -/
def blockModes (ctl seed step seg : Nat) (f : Fmt) (off e0 : Nat) : List Rounding :=
  (List.range 64).map fun i =>
    if ctlRound ctl = 1 then
      let bitOff := off * 8 + (e0 + i) * f.width
      let region := bitOff / 8 / 4096 * 4096
      let firstElem := ceilDiv (region * 8 - off * 8) f.width
      .stochastic (randomWord (randomKey seed step) region seg (e0 + i - firstElem))
    else .nearest

/-- The squares of values in units of 2^-298 (R274). -/
def squareUnits (v : Val) : Nat :=
  match v with
  | .fin _ m e => (m * m) <<< (2 * e + 298).toNat
  | _ => 0

/-- Where block `o` of a shard that this member holds is written: segment offset, segment, first element (R266, R268). -/
def RingJob.place (q : RingJob) (s : State) (o : Nat) : Option (Nat × Nat × Nat) :=
  let e0 := 64 * (o % q.c)
  if q.shard o = q.g.shardOf q.x then some (cDst q.d, cSegDst q.d, e0)
  else
    match s.orphans.find? fun y => y.part == q.p && y.gid == q.gid && y.seq == q.seq && y.step == q.step && y.shard == q.shard o with
    | some y => if y.dropped then none else some (y.addr - s.segAddr q.b q.k (cSegAux3 q.d) 0, cSegAux3 q.d, e0)
    | none => none

/-- The holder finishes a block (R272, R274, R278): it is written, counted if it was received with Raised set (R269), and
echoed unless it is Nonfinite. -/
def RingRun.final (q : RingJob) (o : Nat) (vs : List Val) (x : Block) (r : RingRun) : RingRun :=
  let f := cFmtDst q.d
  let s := match q.place r.s o with
    | none => r.s
    | some (off, seg, e0) =>
      let ws := if cMean q.d then vs.map fun v => v.divNat q.divisor else vs
      let modes := blockModes (cCtl q.d) (r.s.slot q.b q.k).seed.toNat q.step seg f off e0
      let a := r.s.segAddr q.b q.k seg off + f.bytesFor e0
      let s := r.s.put a (packCodes f.width (plainCodes f (cCtl q.d) modes ws)) false
      if x.poisoned then s.markRange a (f.bytesFor 64) else s
  let s := if x.seen then s.bumpBasin q.b cScaleRaise else s
  let m := { r.m with
    finals := r.m.finals + 1
    raisedBlocks := r.m.raisedBlocks + (if x.seen then 1 else 0)
    raised := r.m.raised || x.raised
    nonfinite := r.m.nonfinite || x.nonfinite || vs.any Val.isSpecial
    poisonOut := r.m.poisonOut || x.poisoned
    sumSq := r.m.sumSq + (vs.map squareUnits).sum
    sumInf := r.m.sumInf || vs.any fun v => v.isSpecial && !v.isNaN
    sumNan := r.m.sumNan || vs.any Val.isNaN }
  if q.bf || x.nonfinite then { r with s := s, m := m }
  else
    let n := min (normExp 256 x.mants x.exp) 254
    let groups := if q.g.hier then (List.range q.g.b).map fun i => i * q.g.a else [q.x]
    let starts := (groups.filter fun y => !(q.g.ring q.js y).isEmpty).map fun y => q.g.startOf q.js y (q.shard o) (q.rev o)
    starts.foldl (fun (r : RingRun) st =>
      if st = q.x then { r with m := { r.m with echoes := r.m.echoes ++ [(o, n)] } }
      else { r with bytes := r.bytes ++ [(st, o, n)] }) { r with s := s, m := m }

/-- The two blocks of an outer step are added (R267, R269, R273); the last step's sum is final. -/
def RingRun.join (q : RingJob) (o level : Nat) (x y : Block) (r : RingRun) : Block × RingRun :=
  let p := x.poisoned || y.poisoned
  if q.bf then
    if level + 1 = q.g.steps then
      (x, r.final q o (List.zipWith Val.add (x.values true) (y.values true)) { x with poisoned := p })
    else ({ hopBf x (y.values true) with poisoned := p }, r)
  else
    let z := { hop x (y.values false) y.exp y.raised y.nonfinite with poisoned := p, seen := x.seen || y.seen }
    if level + 1 = q.g.steps then (z, r.final q o (z.values false) z) else (z, r)

/-- A block that this member holds goes through the outer level from step `level` on (R267). -/
def RingRun.outer (q : RingJob) (o : Nat) : Nat → Nat → Block → RingRun → RingRun
  | 0, _, _, r => r
  | n + 1, level, x, r =>
    let half := q.g.b / 2 ^ (level + 1)
    let mine := q.x / q.g.a
    let ix := q.shard o % q.g.b
    let other := mine.xor half
    let partner := if (q.g.ring q.js (other * q.g.a)).isEmpty then none
      else some (holderIn (q.g.ring q.js (other * q.g.a)) (other * q.g.a + q.shard o / q.g.b))
    if ix / half % 2 = mine / half % 2 then
      match partner with
      | none => if level + 1 = q.g.steps then r.final q o (x.values q.bf) x else RingRun.outer q o n (level + 1) x r
      | some _ =>
        match r.m.held.find? fun h => h.ord == o && h.level == level && h.arrived with
        | none => { r with m := { r.m with held := r.m.held ++ [⟨o, level, false, x⟩] } }
        | some h =>
          let r := { r with m := { r.m with held := r.m.held.filter fun y => y != h } }
          let (z, r) := r.join q o level x h.block
          if level + 1 = q.g.steps then r else RingRun.outer q o n (level + 1) z r
    else
      match partner with
      | some t => { r with out := r.out ++ [(t, o, x)] }
      | none => r

/-- This member's hop on a block of its ring (R267). -/
def RingRun.hopHere (q : RingJob) (o : Nat) (x : Block) (r : RingRun) : RingRun :=
  let (vs, p) := q.contribution r.s o
  let ends := q.inner o == q.x
  let poisoned := x.poisoned || p
  if q.bf && ends && !q.g.hier then r.final q o (List.zipWith Val.add (x.values true) vs) { x with poisoned := poisoned }
  else
    let z := { (if q.bf then hopBf x vs else hop x vs 0 false false) with poisoned := poisoned }
    if !ends then { r with out := r.out ++ [(q.g.nextOf q.js q.x (q.rev o), o, z)] }
    else if q.g.hier then RingRun.outer q o (q.g.steps + 1) 0 z r
    else r.final q o (z.values q.bf) z

/-- The byte of the pre-pass for a block (R271). -/
def prepassByte (vs : List Val) : Nat :=
  if vs.any Val.isSpecial then 255
  else
    let big := vs.foldl maxMag Val.zero
    if big.isZero then 0 else min 255 (big.log2 + 128).toNat

/-- ceil(log2 n). -/
def ceilLog2 (n : Nat) : Nat := if n ≤ 1 then 0 else (n - 1).log2 + 1

/-- The start member begins a block (R270, R271): `known` is the pre-pass's result. -/
def RingRun.begin (q : RingJob) (o : Nat) (known : Option Nat) (r : RingRun) : RingRun :=
  let r := { r with m := { r.m with begun := r.m.begun + 1 } }
  if q.bf then r.hopHere q o (startBlock 0)
  else
    match known with
    | some m => r.hopHere q o (startBlock (min 255 (m + ceilLog2 q.js.length)))
    | none =>
      let h := (r.s.readByte (r.s.segAddr q.b q.k (cSegAux q.d) (cAux q.d + o))).toNat
      if h = 255 then
        let r := { r with s := r.s.bumpBasin q.b cScaleEmpty, m := { r.m with historyEmpty := true } }
        r.hopHere q o (startBlock 255)
      else r.hopHere q o (startBlock (min 255 (h + q.g.headroom)))

/-- The member starts: it begins its blocks, or its part of the pre-pass. -/
def RingRun.start (q : RingJob) (r : RingRun) : RingRun :=
  (List.range q.total).foldl (fun (r : RingRun) o =>
    if cPre q.d then
      if q.first o = q.x then
        let mine := prepassByte (q.contribution r.s o).1
        if q.js.length = 1 then r.begin q o (some mine)
        else { r with bytes := r.bytes ++ [(succIn q.js q.x, o, mine)]
                      m := { r.m with prepass := r.m.prepass ++ [(o, mine, 0)] } }
      else r
    else if q.start o = q.x then r.begin q o none
    else r) r

/-- A block arrives (R269): from the ring, or at the outer level from another inner group. -/
def RingRun.arrive (q : RingJob) (from_ : Nat) (o : Nat) (x : Block) (r : RingRun) : RingRun :=
  if q.total ≤ o then r
  else if !q.g.hier || from_ / q.g.a = q.x / q.g.a then
    ({ r with m := { r.m with received := r.m.received + 1 } } : RingRun).hopHere q o x
  else
    let diff := (from_ / q.g.a).xor (q.x / q.g.a)
    let level := q.g.steps - 1 - diff.log2
    match r.m.held.find? fun h => h.ord == o && h.level == level && !h.arrived with
    | none => { r with m := { r.m with held := r.m.held ++ [⟨o, level, true, x⟩] } }
    | some h =>
      let r := { r with m := { r.m with held := r.m.held.filter fun y => y != h } }
      let (z, r) := r.join q o level h.block x
      if level + 1 = q.g.steps then r else RingRun.outer q o (q.g.steps + 1) (level + 1) z r

/-- A scale byte arrives: of the pre-pass (R271) while that runs for its block, else for the history (R272). -/
def RingRun.scale (q : RingJob) (o v : Nat) (r : RingRun) : RingRun :=
  if q.total ≤ o then r
  else
    let seen := r.m.prepass.find? fun y => y.1 == o
    let count := (seen.map (·.2.2)).getD 0
    let isFirst := q.first o == q.x
    if cPre q.d && count < (if isFirst then 1 else 2) then
      let own := prepassByte (q.contribution r.s o).1
      let m := max v own
      let r := { r with m := { r.m with prepass := (r.m.prepass.filter fun y => y.1 != o) ++ [(o, m, count + 1)] } }
      let next := succIn q.js q.x
      let done := isFirst || count = 1
      let r := if done && next = q.first o then r else { r with bytes := r.bytes ++ [(next, o, m)] }
      if done && q.start o = q.x then r.begin q o (some m) else r
    else { r with m := { r.m with echoes := r.m.echoes ++ [(o, v)] } }

/-- The member has done its part of a reduce-scatter but for acknowledgements and echoes (phase 5 of Table 12.7). -/
def RingJob.finished (q : RingJob) (m : MemberPart) : Bool :=
  let all := List.range q.total
  let starts := (all.filter fun o => q.start o == q.x).length
  let finals := (all.filter fun o => q.holder o == some q.x).length
  m.begun == starts && m.received == q.total - starts && m.finals == finals && m.held.isEmpty

/-! ### Messages of a reduce-scatter -/

/-- Cut a list of (destination, ordinal, item) into runs of consecutive ordinals to one destination, of at most `cap`. -/
def runsOf {α : Type} (cap : Nat) : Nat → List (Nat × Nat × α) → List (Nat × Nat × List α)
  | 0, _ => []
  | _ + 1, [] => []
  | n + 1, (t, o, x) :: tl =>
    match runsOf cap n tl with
    | [] => [(t, o, [x])]
    | (t', o', xs) :: rest =>
      if t' = t && o' = o + 1 && xs.length < cap then (t, o, x :: xs) :: rest
      else (t, o, [x]) :: (t', o', xs) :: rest

/-- A mask of the 256-byte units that the poisoned ones of items of `size` bytes touch. -/
def maskOf (size : Nat) (flags : List Bool) : Nat :=
  (List.range flags.length).foldl (fun acc i =>
    if flags.getD i false then
      (List.range ((size * i + size - 1) / 256 - size * i / 256 + 1)).foldl (fun a j => a ||| 2 ^ (size * i / 256 + j)) acc
    else acc) 0

/-- Send what a member's run has to send. -/
def RingRun.flush (q : RingJob) (r : RingRun) : State × MemberPart :=
  let own : MsgOwner := .instance_ q.p q.gid q.seq
  let s := (runsOf (wireMax q.bf) (r.out.length + 1) r.out).foldl (fun (s : State) x =>
    s.sendTo q.p (q.dev x.1) (dataMsg 1 0x28 q.p (collPlace q.gid q.seq x.2.1) (x.2.2.flatMap (Block.bytes q.bf))
      (maskOf (wireSize q.bf) (x.2.2.map (·.poisoned)))) own) r.s
  let s := (runsOf 4096 (r.bytes.length + 1) r.bytes).foldl (fun (s : State) x =>
    s.sendTo q.p (q.dev x.1) (dataMsg 1 0x29 q.p (collPlace q.gid q.seq x.2.1) (x.2.2.map (BitVec.ofNat 8)) 0) own) s
  (s, r.m)

/-- The blocks of an RS_BLOCKS message with their ordinals. -/
def blocksOf (bf : Bool) (m : Msg) : List (Nat × Block) :=
  let size := wireSize bf
  (List.range (m.payload.length / size)).map fun i =>
    let lo := size * i / 256
    let hi := (size * i + size - 1) / 256
    (m.item + i, blockFrom bf (sliceB m.payload (size * i) size)
      ((List.range (hi - lo + 1)).any fun j => m.unitPoisoned (lo + j)))

end Sys2Proof.Machine
end

