-- ==== Sys2Proof/Machine/Tiles.lean ====
section
/-! DEFINITION. Tiles and their forms (spec 06 R130 to R135): reading a tile with its checks, expanding it, and
writing one. -/

namespace Sys2Proof.Machine

/-- Bytes of a tile in memory (R130). -/
def tileSize : Nat := 4128

/-- Formats that a tile carries (Table 6.2). -/
def tileFormat (c : Nat) : Bool := [1, 2, 3, 4, 0x0B].contains c

/-- Bytes per element of a tile format. -/
def Fmt.tileBytes (f : Fmt) : Nat := f.width / 8

/-- Elements per tile row. -/
def Fmt.tileCols (f : Fmt) : Nat := 64 / f.tileBytes

/-- Nnz of a tile's header. -/
def tNnz (t : Bytes) : Nat := fieldB t 6 2

/-- Stored of a tile's header. -/
def tStored (t : Bytes) : Nat := fieldB t 8 2

/-- Form 1: compressed. -/
def tCompressed (t : Bytes) : Bool := bit (fieldB t 5 1) 0

/-- Kind of a tile's header. -/
def tKind (t : Bytes) : Nat := bits (fieldB t 5 1) 2 1

/-- Poison of a tile's header. -/
def tPoison (t : Bytes) : Bool := bit (fieldB t 5 1) 3

/-- Stored bytes that Table 6.3 gives for the header's form. -/
def tExpected (f : Fmt) (t : Bytes) : Nat :=
  let s := f.tileBytes
  if tCompressed t then (if tKind t = 0 then 64 + tNnz t * (s + 1) else tNnz t * (s + 2)) else 4096

/-- The header is one that R157 and R135 name: a Format other than `f`, a Home other than the ordinal, an illegal
Kind, an Nnz above E, a Stored that disagrees with Table 6.3, or a non-zero reserved bit. -/
def tileHeaderBad (f : Fmt) (ordinal : Nat) (t : Bytes) : Bool :=
  fieldB t 4 1 != f.code || fieldB t 12 4 != ordinal ||
    (if tCompressed t then 2 ≤ tKind t else tKind t != 0) ||
    64 * f.tileCols < tNnz t || tStored t != tExpected f t || 4096 < tStored t ||
    16 ≤ fieldB t 5 1 || fieldB t 10 2 != 0 || fieldB t 24 8 != 0

/-- Check over header bytes 4 to 31 and the stored payload bytes (Table 6.2). -/
def tileCheck (t : Bytes) : Nat := crc32c ((t.drop 4).take (28 + min (tStored t) 4096))

/-- Header Check fails. -/
def tileCheckFails (t : Bytes) : Bool := fieldB t 0 4 != tileCheck t

/-- Row-major (row, column) positions of a compressed tile's elements (Table 6.3). -/
def tilePositions (f : Fmt) (t : Bytes) : List (Nat × Nat) :=
  let n := tNnz t
  let s := f.tileBytes
  let pay := t.drop 32
  if tKind t = 0 then
    let counts := (sliceB pay 0 64).map (·.toNat)
    let cols := (sliceB pay (64 + n * s) n).map (·.toNat)
    ((List.range 64).flatMap fun r => List.replicate (counts.getD r 0) r).zip cols
  else
    ((sliceB pay (n * s) n).map (·.toNat)).zip ((sliceB pay (n * s + n) n).map (·.toNat))

/-- Strictly row-major order. -/
def rowMajor : List (Nat × Nat) → Bool
  | [] => true
  | [_] => true
  | p :: q :: tl => (p.1 < q.1 || (p.1 == q.1 && p.2 < q.2)) && rowMajor (q :: tl)

/-- Bits of a mask of rows. -/
def rowMapOf (rows : List Nat) : Nat := rows.foldl (fun m r => m ||| 2 ^ r) 0

/-- The payload of a compressed tile fails R135. -/
def tilePayloadBad (f : Fmt) (t : Bytes) : Bool :=
  if tCompressed t then
    let pos := tilePositions f t
    let counts := (sliceB (t.drop 32) 0 64).map (·.toNat)
    (tKind t == 0 && (counts.sum != tNnz t || counts.any fun c => f.tileCols < c)) ||
      pos.any (fun p => 64 ≤ p.1 || f.tileCols ≤ p.2) || !rowMajor pos ||
      fieldB t 16 8 != rowMapOf (pos.map (·.1))
  else false

/-- The stored elements of each row of a tile: (column, code), in column order. A dense tile stores every element. -/
def tileRows (f : Fmt) (t : Bytes) : List (List (Nat × Nat)) :=
  let pay := t.drop 32
  if tCompressed t then
    let start := if tKind t = 0 then 64 else 0
    let vals := chunksLE f.tileBytes (tNnz t) (pay.drop start)
    let elems := (tilePositions f t).zip vals
    (List.range 64).map fun r => (elems.filter fun e => e.1.1 == r).map fun e => (e.1.2, e.2)
  else
    (List.range 64).map fun r =>
      let cs := chunksLE f.tileBytes f.tileCols (sliceB pay (64 * r) 64)
      (List.range f.tileCols).zip cs

/-- Spread a row's stored elements to all columns; the others are 0. -/
def denseRow (n : Nat) (row : List (Nat × Nat)) : List Nat :=
  (List.range n).map fun c => ((row.find? fun e => e.1 == c).map (·.2)).getD 0

/-- What a reader makes of a tile. -/
structure TileRead where
  /-- The bytes at its place. -/
  tile : Bytes
  headerBad : Bool
  /-- Its Check fails in memory, and so on the retry too (R220). -/
  checkBad : Bool
  /-- Poisoned, whatever the reason (R135, R220, R224). -/
  poisoned : Bool
  deriving DecidableEq, Repr

/-- Read tile `ordinal` at device address `a`; `failed` are ordinals whose Check failed twice on the way. -/
def State.readTile (s : State) (bad : List Range) (failed : List Nat) (f : Fmt) (ordinal a : Nat) : TileRead :=
  let t := s.read a tileSize
  let hb := tileHeaderBad f ordinal t
  let cb := tileCheckFails t
  { tile := t, headerBad := hb, checkBad := cb
    poisoned := hb || cb || failed.contains ordinal || tPoison t || tilePayloadBad f t ||
      s.readPoison bad a (32 + min (tStored t) 4096) }

/-- Count a tile whose Check fails twice in memory (R228). -/
def State.noteTile (s : State) (b : Nat) (r : TileRead) : State :=
  if r.checkBad then s.noteErr b (.tile 0 true) else s

/-- Number of non-zero codes. -/
def nonzeroCodes (rows : List (List Nat)) : Nat := (rows.map fun r => (r.filter (· != 0)).length).sum

/-- The non-zero elements of the rows, row-major: (row, column, code). -/
def nonzeroElems (rows : List (List Nat)) : List (Nat × Nat × Nat) :=
  ((List.range rows.length).zip rows).flatMap fun x =>
    ((List.range x.2.length).zip x.2).filterMap fun e => if e.2 = 0 then none else some (x.1, e.1, e.2)

/-- Write a tile from its 64 dense rows of codes, in the smallest form (R130 to R133): its 4,128 bytes. -/
def buildTile (f : Fmt) (ordinal : Nat) (rows : List (List Nat)) (poison : Bool) : Bytes :=
  let s := f.tileBytes
  let n := nonzeroCodes rows
  let rl := 64 + n * (s + 1)
  let coo := n * (s + 2)
  let es := nonzeroElems rows
  let vals := es.flatMap fun e => toLE s e.2.2
  let colB := es.map fun e => BitVec.ofNat 8 e.2.1
  let pick : Nat × Nat × Bytes :=
    if 4096 ≤ rl && 4096 ≤ coo then (0, 4096, rows.flatMap fun r => r.flatMap (toLE s))
    else if rl ≤ coo then
      (1, rl, (rows.map fun r => BitVec.ofNat 8 (r.filter (· != 0)).length) ++ vals ++ colB)
    else (3, coo, vals ++ (es.map fun e => BitVec.ofNat 8 e.1) ++ colB)
  let rest := toLE 1 f.code ++ toLE 1 (pick.1 + (if poison then 8 else 0)) ++ toLE 2 n ++ toLE 2 pick.2.1 ++ zeros 2 ++
    toLE 4 ordinal ++ toLE 8 (rowMapOf (es.map (·.1))) ++ zeros 8
  toLE 4 (crc32c (rest ++ pick.2.2.take pick.2.1)) ++ rest ++ sliceB pick.2.2 0 4096

end Sys2Proof.Machine
end

