-- ==== Sys2Proof/Machine/Mere.lean ====
section
/-! DEFINITION. The meres (spec 04): shapes and gangs, the pass descriptor, staging with the stationary load, issue
with the lane sums, completion. -/

namespace Sys2Proof.Machine

/-! ### Gangs and shapes (Tables 1.5, 4.1) -/

/-- The aligned group of `g` basins led by `b`, ascending (Table 1.5), or none when `b` leads no such group. -/
def gangOf (b g : Nat) : Option (List Nat) :=
  if g = 1 then some [b]
  else if g = 2 then (if b % 2 = 0 && b < 8 then some [b, b + 1] else none)
  else if g = 4 then (if b = 0 then some [0, 1, 4, 5] else if b = 2 then some [2, 3, 6, 7] else none)
  else if b = 0 then some (List.range 8) else none

/-- Outputs per row of a shape (Table 4.1). -/
def shapeWidth (sh : Nat) : Nat := 512 <<< sh

/-- Full depth of a shape for one operand's format (Table 4.1). -/
def shapeDepth (sh : Nat) (f : Fmt) : Nat :=
  (match f with
   | .int4 | .mxE2m1 => 2048
   | .bf16 | .fp16 | .fp32 => 512
   | _ => 1024) >>> sh

/-! ### The pass descriptor (Table 4.2) -/

/-- The fields of a mere pass descriptor. -/
structure Pass where
  shape : Nat
  gang : Nat
  fmtA : Fmt
  fmtB : Fmt
  ctl : Nat
  rows : Nat
  kUse : Nat
  nUse : Nat
  transB : Bool
  transA : Bool
  skipEn : Bool
  keep : Bool
  fromZero : Bool
  tiledA : Bool
  nm : Nat
  segB : Nat
  srcA : Nat
  strideA : Nat
  srcB : Nat
  strideB : Nat
  partIn : Nat
  stridePart : Nat
  partOut : Nat
  scaleA : Nat
  scaleB : Nat
  metaB : Nat
  bitmap : Nat
  gangStrideB : Nat
  deriving DecidableEq, Repr

/-- Read the fields of a pass descriptor; strides in bytes, NUse 0 read as 65,536. -/
def passOf (d : Bytes) : Pass :=
  let b1 := fieldB d 1 1
  let b12 := fieldB d 12 1
  let b13 := fieldB d 13 1
  let n := fieldB d 10 2
  { shape := bits b1 4 2, gang := 2 ^ (b1 % 4), fmtA := fmtD (fieldB d 2 1), fmtB := fmtD (fieldB d 3 1)
    ctl := fieldB d 4 2, rows := fieldB d 6 2, kUse := fieldB d 8 2, nUse := if n = 0 then 65536 else n
    transB := bit b12 5, transA := bit b12 4, skipEn := bit b12 3, keep := bit b12 2, fromZero := bit b12 1
    tiledA := bit b13 4, nm := bits b13 3 2, segB := b13 % 4
    srcA := fieldB d 16 6, strideA := 64 * fieldB d 22 2, srcB := fieldB d 24 6, strideB := 64 * fieldB d 30 2
    partIn := fieldB d 32 6, stridePart := 64 * fieldB d 38 2, partOut := fieldB d 40 6, scaleA := fieldB d 48 6
    scaleB := fieldB d 56 6, metaB := fieldB d 64 6, bitmap := fieldB d 72 6, gangStrideB := fieldB d 80 6 }

/-- The pass accumulates integers (R60, R61). -/
def Pass.isInt (p : Pass) : Bool := p.fmtA == .int8 || p.fmtA == .int4

/-- Destination format. -/
def Pass.fmtD (p : Pass) : Fmt := Machine.fmtD (ctlFormat p.ctl)

/-- Full depth of the pass: the slower format's column (R81). -/
def Pass.depth (p : Pass) : Nat := min (shapeDepth p.shape p.fmtA) (shapeDepth p.shape p.fmtB)

/-- Columns of member `m` (R83). -/
def Pass.cols (p : Pass) (m : Nat) : Nat := min (shapeWidth p.shape) (p.nUse - m * shapeWidth p.shape)

/-- Compressed depth lines kept of every 4 (R102). -/
def Pass.kept (p : Pass) : Nat := if p.nm = 1 then 2 else 1

/-- Depth lines that B stores: compressed ones with NM (R102). -/
def Pass.linesB (p : Pass) : Nat := if p.nm = 0 then p.kUse else p.kUse / 4 * p.kept

/-- A format code that the mere accepts as an operand (Table 3.1). -/
def mereFormat (c : Nat) : Bool := c ≤ 0x0C

/-- The pair of operand formats is permitted (R60). -/
def merePair (a b : Fmt) : Bool :=
  a == b || (a == .e4m3 && b == .e5m2) || (a == .e5m2 && b == .e4m3) || (a.isMX && b.isMX) ||
    (a == .int8 && b == .int4) || (a == .int4 && b == .int8)

/-- Formats of B with NM: FP8-class or BF16 (R102). The specification does not define the class: it is taken as the formats
of Table 4.1's FP8 column, E4M3, E5M2, INT8 and every MX format but MXFP4 (DEDUCED, assumption 58). -/
def nmFormat (f : Fmt) : Bool :=
  f == .e4m3 || f == .e5m2 || f == .int8 || f == .bf16 || (f.isMX && f != .mxE2m1)

/-- [a, a + n) meets one of the `rows` ranges of `len` bytes from `p` on at stride `sp`. -/
def meetsRows (p sp rows len a n : Nat) : Bool :=
  if len = 0 || n = 0 || rows = 0 then false
  else
    let j := if a < p + len then 0 else if sp = 0 then rows else (a - p - len) / sp + 1
    j < rows && p + j * sp < a + n

/-- The rows, lines or tiles of A as segment offsets and lengths (R87, R101). -/
def Pass.areasA (p : Pass) : List (Nat × Nat) :=
  if p.tiledA then
    [(p.srcA, p.rows / 64 * (p.fmtA.bytesFor p.kUse / 64) * tileSize)]
  else if p.transA then (List.range p.kUse).map fun k => (p.srcA + k * p.strideA, p.fmtA.bytesFor p.rows)
  else (List.range p.rows).map fun i => (p.srcA + i * p.strideA, p.fmtA.bytesFor p.kUse)

/-- Bytes of A's scale array. -/
def Pass.scaleLenA (p : Pass) : Nat := if p.fmtA.isMX then p.rows * ceilDiv p.kUse 32 else 0

/-- Bytes of the bitmap (R99). -/
def Pass.bitmapLen (p : Pass) : Nat := if p.skipEn then ceilDiv (p.rows / 64 * (p.kUse / 64)) 8 else 0

/-- Offset added to B, its scales and its index array for member basin `bm` (R87). -/
def Pass.shiftB (p : Pass) (b bm : Nat) : Nat := (bm - b) * p.gangStrideB

/-- Offset added to partials for member basin `bm` (R87). -/
def shiftPart (b bm : Nat) : Nat := (bm - b) * 0x08000000

/-- The members of the pass with their columns. -/
def Pass.members (p : Pass) (b : Nat) : List (Nat × Nat) :=
  let ms := (gangOf b p.gang).getD [b]
  (List.range ms.length).map fun i => (ms.getD i b, p.cols i)

/-- R92: the PartOut of a member overlaps the PartIn of a member, A, ScaleA or Bitmap other than by PartIn = PartOut. -/
def Pass.overlaps (p : Pass) (b : Nat) : Bool :=
  let ms := p.members b
  ms.any fun m =>
    let hit (a n : Nat) : Bool := meetsRows (p.partOut + shiftPart b m.1) p.stridePart p.rows (p.fmtD.bytesFor m.2) a n
    (!p.fromZero && p.partIn != p.partOut && ms.any fun x =>
        (List.range p.rows).any fun i => hit (p.partIn + shiftPart b x.1 + i * p.stridePart) (4 * x.2)) ||
      p.areasA.any (fun r => hit r.1 r.2) || hit p.scaleA p.scaleLenA || hit p.bitmap p.bitmapLen

/-- The first illegal field of a pass descriptor of basin `b` that is checked at the head (R103). A case that joins several
fields is reported at one of them: an overlap of R92 at PartOut (40), a forbidden pair at FmtB (3), a basin that leads no
such gang at byte 1, TransA or TransB with an MX operand at byte 12 (DESIGN CHOICE, assumption 58). -/
def passIllegal (b : Nat) (d : Bytes) : Option Nat :=
  let p := passOf d
  let b1 := fieldB d 1 1
  let fo := ctlFormat p.ctl
  let n := fieldB d 10 2
  let wide := p.gang * shapeWidth p.shape
  firstIllegal
    [(1, b1 < 32 && p.shape ≤ 4 && (gangOf b p.gang).isSome),
     (2, mereFormat (fieldB d 2 1) && (!p.tiledA || tileFormat (fieldB d 2 1))),
     (3, mereFormat (fieldB d 3 1) && (!mereFormat (fieldB d 2 1) || merePair p.fmtA p.fmtB) && (p.nm == 0 || nmFormat p.fmtB)),
     (4, ctlLegal p.ctl && (if p.isInt then fo == 0x0D || fo == 0x0B else fo ≤ 4) &&
       (!p.skipEn || fo == 0 || fo == 0x0D)),
     (6, 1 ≤ p.rows && p.rows ≤ 4096 && (!(p.skipEn || p.tiledA) || p.rows % 64 == 0)),
     (8, 1 ≤ p.kUse && p.kUse ≤ p.depth && (!p.skipEn || p.kUse % 64 == 0) &&
       (!p.tiledA || p.fmtA.bytesFor p.kUse % 64 == 0) && (p.nm == 0 || p.kUse % 4 == 0)),
     (10, if n = 0 then wide == 65536 else n ≤ min 65535 wide),
     (12, b12 d && (!p.transB || (!p.fmtB.isMX && p.nm == 0)) && (!p.transA || (!p.fmtA.isMX && !p.tiledA)) &&
       (!p.skipEn || !p.fromZero)),
     (13, fieldB d 13 1 < 32 && p.nm != 3 && p.segB ≤ 1),
     (22, !p.tiledA || p.strideA == 0),
     (32, !p.skipEn || p.partIn == p.partOut),
     (40, !p.overlaps b),
     (46, fieldB d 46 2 == 0),
     (48, p.fmtA.isMX || p.scaleA == 0),
     (54, fieldB d 54 2 == 0),
     (56, p.fmtB.isMX || p.scaleB == 0),
     (62, fieldB d 62 2 == 0),
     (64, p.nm != 0 || p.metaB == 0),
     (70, fieldB d 70 2 == 0),
     (72, p.skipEn || p.bitmap == 0),
     (78, fieldB d 78 2 == 0),
     (80, p.gang != 1 || p.gangStrideB == 0),
     (86, allZero ((d.drop 86).take 10))]
where
  b12 (d : Bytes) : Bool := !bit (fieldB d 12 1) 0

/-! ### Accesses (R87, R193) -/

/-- Lines of member `bm`'s part of B: offsets and lengths. -/
def Pass.areasB (p : Pass) (b bm cm : Nat) : List (Nat × Nat) :=
  let base := p.srcB + p.shiftB b bm
  if cm = 0 then []
  else if p.transB then (List.range cm).map fun c => (base + c * p.strideB, p.fmtB.bytesFor p.kUse)
  else (List.range p.linesB).map fun k => (base + k * p.strideB, p.fmtB.bytesFor cm)

/-- Bytes of member columns `cm`'s scales of B, and of its index array (R54, R102). -/
def Pass.scaleLenB (p : Pass) (cm : Nat) : Nat := if p.fmtB.isMX then cm * ceilDiv p.kUse 32 else 0
/-- Bytes of the index array of `cm` columns (R102). -/
def Pass.metaLen (p : Pass) (cm : Nat) : Nat := if p.nm = 0 then 0 else ceilDiv (p.linesB * cm) 4

/-- An access to a range, none to an empty one. -/
def oneAccess (field seg off len bm : Nat) : List Access :=
  if len = 0 then [] else [⟨field, seg, off, len, false, .pools [bm]⟩]

/-- What the stationary loader of member `bm` with `cm` columns reads (R94). -/
def Pass.loads (p : Pass) (b bm cm : Nat) : List Access :=
  (p.areasB b bm cm).map (fun r => (⟨24, p.segB, r.1, r.2, false, .pools [bm]⟩ : Access)) ++
    oneAccess 56 p.segB (p.scaleB + p.shiftB b bm) (p.scaleLenB cm) bm ++
    oneAccess 64 p.segB (p.metaB + p.shiftB b bm) (p.metaLen cm) bm

/-- Accesses of a pass of basin `b`, in the order of the naming fields (R104). A member's loader reads its own basin's pools,
as R94 has it, where R193 excepts the partials alone from the issuing basin's; each row, line or array is one access, so
that SEGMENT_FAULT reports the first of a field in row order (DESIGN CHOICE, assumption 58). -/
def Pass.accesses (p : Pass) (b : Nat) : List Access :=
  let ms := p.members b
  let rowsOf (field off len : Nat) (w : Bool) (bm : Nat) : List Access :=
    if len = 0 then []
    else (List.range p.rows).map fun i => ⟨field, 0, off + i * p.stridePart, len, w, .pools [bm]⟩
  p.areasA.map (fun r => (⟨16, 0, r.1, r.2, false, .pools [b]⟩ : Access)) ++
  ms.flatMap (fun m => (p.areasB b m.1 m.2).map fun r => (⟨24, p.segB, r.1, r.2, false, .pools [m.1]⟩ : Access)) ++
  (if p.fromZero then [] else ms.flatMap fun m => rowsOf 32 (p.partIn + shiftPart b m.1) (4 * m.2) false m.1) ++
  ms.flatMap (fun m => rowsOf 40 (p.partOut + shiftPart b m.1) (p.fmtD.bytesFor m.2) true m.1) ++
  oneAccess 48 0 p.scaleA p.scaleLenA b ++
  ms.flatMap (fun m => oneAccess 56 p.segB (p.scaleB + p.shiftB b m.1) (p.scaleLenB m.2) m.1) ++
  ms.flatMap (fun m => oneAccess 64 p.segB (p.metaB + p.shiftB b m.1) (p.metaLen m.2) m.1) ++
  oneAccess 72 0 p.bitmap p.bitmapLen b

/-- [a, a + n) lies in the near banks of its basin (R181). -/
def inNear (a n : Nat) : Bool := a % poolSize + n ≤ nearSize

/-- The field of the first range of R90 that lies outside the near banks (R103). -/
def State.passNotNear (s : State) (b k : Nat) (p : Pass) : Option Nat :=
  ((p.accesses b).find? fun x =>
    [16, 32, 40, 48, 72].contains x.field && !inNear (s.segAddr b k x.seg x.off) x.len).map (·.field)

/-! ### The stationary set (R80, R94, R102) -/

/-- The tag of a pass's load (R80). -/
def Pass.tag (p : Pass) (b k : Nat) : SetTag :=
  { slot := 16 * b + k, segB := p.segB, srcB := p.srcB, strideB := p.strideB, gangStrideB := p.gangStrideB
    fmtB := p.fmtB.code
    shape := p.shape, gang := p.gang, kUse := p.kUse, nUse := p.nUse, transB := p.transB, nm := p.nm
    metaB := p.metaB, scaleB := p.scaleB }

/-- Transpose `n` columns out of lines of codes. -/
def columnsOf (n : Nat) (lines : List (List Nat)) : List (List Nat) :=
  (List.range n).map fun c => lines.map fun l => l.getD c 0

/-- Kept values ascend within their group. -/
def ascending : List Nat → Bool
  | [] => true
  | [_] => true
  | a :: b :: tl => a < b && ascending (b :: tl)

/-- One group of 4 depth elements of `w` bits of a column from its kept values and positions; positions that do not ascend
give free values of the group (R15, assumption 22). -/
def restoreGroup (w : Nat) (vals pos : List Nat) : List Nat :=
  if ascending pos then
    (List.range 4).map fun i => (((pos.zip vals).find? fun x => x.1 == i).map (·.2)).getD 0
  else (List.range 4).map fun i => Config.groupChoice vals pos i % 2 ^ w

/-- Restore the zeros of a column (R102): its kept values and positions, line by line. -/
def restoreColumn (q w : Nat) : Nat → List Nat → List Nat → List Nat
  | 0, _, _ => []
  | g + 1, vs, ps => restoreGroup w (vs.take q) (ps.take q) ++ restoreColumn q w g (vs.drop q) (ps.drop q)

/-- What a load of member `bm` with `cm` columns puts into a set (R80, R87). -/
def State.loadSet (s : State) (b k : Nat) (bad : List Range) (p : Pass) (bm cm : Nat) : StatSet :=
  let addr (o : Nat) : Nat := s.segAddr b k p.segB o
  let areas := p.areasB b bm cm
  let lines := areas.map fun r => s.codesAt p.fmtB (addr r.1) (if p.transB then p.kUse else cm)
  let sl := ceilDiv p.kUse 32
  let so := addr (p.scaleB + p.shiftB b bm)
  let mo := addr (p.metaB + p.shiftB b bm)
  let ml := p.metaLen cm
  let cols := if p.transB then lines else columnsOf cm lines
  let pos := if p.nm = 0 then [] else unpackCodes 2 (p.linesB * cm) (s.read mo ml)
  let cols :=
    if p.nm = 0 then cols
    else
      let posLines := (List.range p.linesB).map fun l => (pos.drop (l * cm)).take cm
      (cols.zip (columnsOf cm posLines)).map fun x => restoreColumn p.kept p.fmtB.width (p.kUse / 4) x.1 x.2
  { tag := some (p.tag b k), columns := cols
    scales := if p.fmtB.isMX then (List.range cm).map fun c => (s.read (so + c * sl) sl).map (·.toNat) else []
    poisoned := areas.any (fun r => s.readPoison bad (addr r.1) r.2) ||
      (p.fmtB.isMX && cm != 0 && s.readPoison bad so (cm * sl)) || (p.nm != 0 && s.readPoison bad mo ml) }

/-- The set of a member mere with `cm` columns that a pass computes from, and whether a load fills it (R80, R89): the
last-used set when Keep matches its tag, the idle set otherwise. An FP32 pass uses both sets as one. A member without columns
loads nothing (R83). -/
def Mere.choose (m : Mere) (p : Pass) (b k cm : Nat) : Nat × Bool :=
  let kept (i : Nat) : Bool := (m.sets.getD i {}).tag == some (p.tag b k)
  if cm = 0 then (m.lastSet, false)
  else if p.fmtA == .fp32 then (0, !(p.keep && kept 0 && kept 1))
  else if p.keep && kept m.lastSet then (m.lastSet, false)
  else (1 - m.lastSet, true)

/-- Store a loaded set; an FP32 load puts the hi halves in set 0 and the lo halves in set 1 (R64, R80). -/
def Mere.load (m : Mere) (i : Nat) (x : StatSet) (fp32 : Bool) : Mere :=
  let part (f : Nat × Nat → Nat) : StatSet := { x with columns := x.columns.map fun c => c.map fun e => f (halvesOf e) }
  { m with sets := if fp32 then [part (·.1), part (·.2)] else m.sets.set i x }

/-! ### Staging (R26, R84, R89, R104) -/

/-- The legal mere pass at the head of slot (b, k) whose WaitCell is set. -/
def State.headPass (s : State) (b k : Nat) : Option Bytes :=
  if s.slotIssues b k then
    match s.head b k with
    | .desc d => if dClass d == 1 && !(s.slot b k).skips d && (passIllegal b d).isNone && s.waitMet b d then some d else none
    | _ => none
  else none

/-- The next mere pass of the SPMM that slot (b, k) issued, if any is left (R145). -/
def State.spmmNext (s : State) (b k : Nat) : Option SpmmItem :=
  match (s.basin b).spmm with
  | some w => if w.slot = k then w.items.head? else none
  | none => none

/-- The pass that slot (b, k) stages next: its SPMM's next one, which takes the slot's place on the mere (R145), else the
one at its head. -/
def State.nextPass (s : State) (b k : Nat) : Option (Bytes × Option SpmmItem) :=
  match s.spmmNext b k with
  | some x => some (x.desc, some x)
  | none => (s.headPass b k).map fun d => (d, none)

/-- A clearing on basin `m` holds new stagings: the issued descriptors of its slot have completed (step 3 of R296). -/
def State.clearingHolds (s : State) (m : Nat) : Bool :=
  (List.range 16).any fun j => (s.slot m j).clearing && (s.slotFlights m j).isEmpty

/-- Member `x` can take the pass: nothing is staged, and no load meets an FP32 pass whose rows still enter the lanes, nor an
FP32 load any pass (R80, R89). `lanesFree`: the last row of the pass before has entered the lanes. -/
def State.setsFree (s : State) (b k : Nat) (p : Pass) (lanesFree : Bool) (x : Nat × Nat) : Bool :=
  let m := (s.basin x.1).mere
  m.staged.isNone && !s.clearingHolds x.1 &&
    (lanesFree || (s.passesOn x.1).isEmpty || !(m.fp32Last || p.fmtA == .fp32) || !(m.choose p b k x.2).2)

/-- Slot (b, k) has a pass whose members can take it. -/
def State.passReady (s : State) (b : Nat) (lanesFree : Bool) (k : Nat) : Bool :=
  match s.nextPass b k with
  | some x => let p := passOf x.1; (p.members b).all (s.setsFree b k p lanesFree)
  | none => false

/-- The gang pass of lead `b` waits: a member's previous pass was a gang pass, and one of its own slots is ready (R84). -/
def State.gangWaits (s : State) (b : Nat) (lanesFree : Bool) (k : Nat) : Bool :=
  match s.nextPass b k with
  | some x => ((passOf x.1).members b).any fun m =>
      m.1 != b && (s.basin m.1).mere.gangLast && (List.range 16).any (s.passReady m.1 lanesFree)
  | none => false

/-- A slot of lead `b` is ready to stage on a mere: R84 does not hold it. -/
def State.stageReady (s : State) (b : Nat) (lanesFree : Bool) (k : Nat) : Bool :=
  s.passReady b lanesFree k && !s.gangWaits b lanesFree k

/-- Another lead is ready with a gang pass that includes basin `b` (R84). -/
def State.gangAhead (s : State) (b : Nat) (lanesFree : Bool) : Bool :=
  (List.range 8).any fun l => l != b && (List.range 16).any fun j =>
    s.stageReady l lanesFree j &&
      match s.nextPass l j with
      | some x => ((passOf x.1).members l).any fun m => m.1 == b
      | none => false

/-- The sequencer grants the mere to slot (b, k): it is ready, no gang pass of another lead goes first, and it is first in
turn among the ready slots (R26, R84). -/
def State.stageGranted (s : State) (b : Nat) (lanesFree : Bool) (k : Nat) : Bool :=
  s.stageReady b lanesFree k && ((s.basin b).mere.gangLast || !s.gangAhead b lanesFree) &&
    !(s.slotsBefore b .mere k).any (s.stageReady b lanesFree)

/-- Members of the gang that are not ACTIVE or not in the task's partition, as bits (R104, Table 14.8). -/
def State.gangMissing (s : State) (b : Nat) (ms : List Nat) : Nat :=
  let p := (s.partitionOf b).getD 8
  ms.foldl (fun acc m => if (s.basin m).state == .active && s.holdsBasin p m then acc else acc + 2 ^ m) 0

/-- The pass is staged: every member that loads fills its set, through the home caches (R80, R89, R189). -/
def State.stageLoad (s : State) (b k : Nat) (errs : List CheckErr) (d : Bytes) (item : Option SpmmItem) : State :=
  let p := passOf d
  let bad := badReads errs
  let s := (p.members b).foldl (fun (u : State) x =>
    let m := (u.basin x.1).mere
    let (i, ld) := m.choose p b k x.2
    let m := if ld then m.load i (u.loadSet b k bad p x.1 x.2) (p.fmtA == .fp32) else m
    let u := if ld then u.touchAccesses b k (p.loads b x.1 x.2) else u
    u.modBasin x.1 fun y => { y with mere := { m with staged := some ⟨b, k, d, i, item⟩ } }) (s.noteErrs b errs)
  s.modBasin b fun y =>
    { y with lastGrant := y.lastGrant.set 0 (some k)
             spmm := if item.isSome then y.spmm.map fun w => { w with items := w.items.tail } else y.spmm }

/-- MERE_PASS_STAGE of slot (b, k): an illegal pass at its head halts; one that is granted is checked in the order of R104
and staged. -/
def State.stagePass (s : State) (b k : Nat) (lanesFree : Bool) (errs : List CheckErr) : State :=
  match s.nextPass b k with
  | none => s.atHead b k 1 (fun _ => true) (passIllegal b) fun _ => s
  | some (d, item) =>
    let p := passOf d
    let missing := s.gangMissing b ((p.members b).map (·.1))
    let loads := (p.members b).flatMap fun x => p.loads b x.1 x.2
    if !s.stageGranted b lanesFree k then s
    else if item.isSome then s.stageLoad b k errs d item
    else if p.gang != 1 && missing != 0 then s.halt b k .gangUnavailable missing 0 0 0
    else
      s.checked b k (p.accesses b) <|
        match s.passNotNear b k p with
        | some off => s.haltIllegal b k off
        | none => if s.accessesWait b k loads then s else s.stageLoad b k errs d item

/-! ### Lane sums (R61 to R64) -/

/-- Operands of one row or column, ready to be multiplied. -/
inductive Lane where
  | float (vs : List Val)
  | split (halves : List (Nat × Nat))
  | int (vs : List Int)
  deriving DecidableEq, Repr

/-- Exact values of codes with their block scales. -/
def exactVals (f : Fmt) (codes scales : List Nat) : List Val :=
  if f.isMX then (withScales (codes.length + 1) codes scales).map fun x => decodeMX f x.2 x.1 else codes.map (decodeElem f)

/-- The lane operands of codes. -/
def laneOf (f : Fmt) (codes scales : List Nat) : Lane :=
  match f with
  | .fp32 => .split (codes.map halvesOf)
  | .int8 => .int (codes.map (signed 8))
  | .int4 => .int (codes.map (signed 4))
  | _ => .float (exactVals f codes scales)

/-- The products of one FP32 element pair (R64). -/
def splitProducts (a b : Nat × Nat) : List Val :=
  if halvesSpecial a || halvesSpecial b then [Val.mul (halvesVal a) (halvesVal b)]
  else
    let lo (x : Nat × Nat) : Val := decodeElem .bf16 x.2
    let hi (x : Nat × Nat) : Val := decodeElem .bf16 x.1
    [Val.mul (hi a) (hi b), Val.mul (hi a) (lo b), Val.mul (lo a) (hi b)]

/-- The sum of products of two integer lanes. -/
def dotInt : List Int → List Int → Int → Int
  | a :: as, b :: bs, acc => dotInt as bs (acc + a * b)
  | _, _, acc => acc

/-- The result of one lane (R61): products and incoming partial summed exactly and rounded once. INT32 results are
values of the wrapped code. -/
def laneSum (a b : Lane) (part : Nat) : Val :=
  match a, b with
  | .float xs, .float ys => rn32 (Val.sum (f32 part :: List.zipWith Val.mul xs ys))
  | .split xs, .split ys => rn32 (Val.sum (f32 part :: (List.zipWith splitProducts xs ys).flatten))
  | .int xs, .int ys => Val.ofInt (signed 32 (unsigned 32 (dotInt xs ys (signed 32 part))))
  | _, _ => .nan

/-! ### Issue (R90) -/

/-- Bit `i` of a packed bitmap. -/
def bitmapBit (m : Bytes) (i : Nat) : Bool := ((m.getD (i / 8) 0).toNat).testBit (i % 8)

/-- Slabs computed: all of them without SkipEn (R99). -/
def Pass.slabRuns (p : Pass) (map : Bytes) (i : Nat) : Bool :=
  !p.skipEn || (List.range (p.kUse / 64)).any fun c => bitmapBit map (i / 64 * (p.kUse / 64) + c)

/-- A as rows of codes with each row's poison, and its tiles' reads (R87, R101); the tiles of skipped slabs are not read
(R99). A tile is expanded to zeros whatever makes it poisoned, where R101 speaks of its header alone (DESIGN CHOICE,
assumption 58). `home` is the ordinal of the first tile. -/
def State.rowsOfA (s : State) (b k : Nat) (bad : List Range) (failed : List Nat) (p : Pass) (map : Bytes) (home : Nat) :
    List (List Nat × Bool) × List TileRead :=
  let addr (o : Nat) : Nat := s.segAddr b k 0 o
  if p.tiledA then
    let kt := p.fmtA.bytesFor p.kUse / 64
    let tiles := (List.range (p.rows / 64)).map fun r => (List.range (if p.slabRuns map (64 * r) then kt else 0)).map fun c =>
      s.readTile bad failed p.fmtA (home + r * kt + c) (addr (p.srcA + (r * kt + c) * tileSize))
    let rows := tiles.flatMap fun ts =>
      let expanded := ts.map fun t =>
        if t.poisoned then List.replicate 64 (List.replicate p.fmtA.tileCols 0)
        else (tileRows p.fmtA t.tile).map (denseRow p.fmtA.tileCols)
      let pz := ts.any (·.poisoned)
      (List.range 64).map fun i => (expanded.flatMap fun e => e.getD i [], pz)
    (rows, tiles.flatten)
  else if p.transA then
    let lines := p.areasA.map fun r => s.codesAt p.fmtA (addr r.1) p.rows
    let pz := p.areasA.map fun r => s.poisonAt bad p.fmtA (addr r.1) 0 p.rows
    ((List.range p.rows).map fun i => (lines.map fun l => l.getD i 0, pz.any fun l => l.getD i false), [])
  else
    (p.areasA.map fun r => (s.codesAt p.fmtA (addr r.1) p.kUse, s.readPoison bad (addr r.1) r.2), [])

/-- Column `c` of a member's sets, ready to be multiplied: an FP32 pass takes its halves from both sets (R80). -/
def columnLane (f : Fmt) (st lo : StatSet) (c : Nat) : Lane :=
  if f == .fp32 then .split ((st.columns.getD c []).zip (lo.columns.getD c []))
  else laneOf f (st.columns.getD c []) (st.scales.getD c [])

/-- One member's results: for each computed row its offset in the pool segment, its values and whether it is
marked. -/
def State.memberRows (s : State) (b k : Nat) (bad : List Range) (p : Pass) (rows : List (List Nat × Bool)) (map : Bytes)
    (bm cm : Nat) (st lo : StatSet) (mark : Bool) : List (Nat × List Val × Bool) :=
  let addr (o : Nat) : Nat := s.segAddr b k 0 o
  let sl := ceilDiv p.kUse 32
  let cols := (List.range cm).map (columnLane p.fmtB st lo)
  let mapBad := s.readPoison bad (addr p.bitmap) p.bitmapLen
  ((List.range p.rows).zip rows).filterMap fun x =>
    let i := x.1
    if cm = 0 || !p.slabRuns map i then none
    else
      let sa := addr (p.scaleA + i * sl)
      let scales := if p.fmtA.isMX then (s.read sa sl).map (·.toNat) else []
      let a := laneOf p.fmtA x.2.1 scales
      let pi := addr (p.partIn + shiftPart b bm + i * p.stridePart)
      let parts := if p.fromZero then List.replicate cm 0 else chunksLE 4 cm (s.read pi (4 * cm))
      let marked := mark || x.2.2 || st.poisoned || mapBad || (p.fmtA.isMX && s.readPoison bad sa sl) ||
        (!p.fromZero && s.readPoison bad pi (4 * cm))
      some (p.partOut + shiftPart b bm + i * p.stridePart, List.zipWith (laneSum a) cols parts, marked)

/-- Codes of lane results: integer results keep their INT32 bits, or clamp to INT8 (R68, R69). -/
def Pass.codes (p : Pass) (modes : List Rounding) (vs : List Val) : List Nat := plainCodes p.fmtD p.ctl modes vs

/-- The bit offsets of the elements of result rows, in element order. -/
def rowOffsets (w : Nat) (rows : List (Nat × List Val × Bool)) : List Nat :=
  rows.flatMap fun r => (List.range r.2.1.length).map fun c => r.1 * 8 + c * w

/-- Split a list of modes along result rows. -/
def zipRows : List (Nat × List Val × Bool) → List Rounding → List ((Nat × List Val × Bool) × List Rounding)
  | [], _ => []
  | r :: rs, ms => (r, ms.take r.2.1.length) :: zipRows rs (ms.drop r.2.1.length)

/-- The stored form of one member's rows. -/
def State.storeRows (s : State) (b k : Nat) (p : Pass) (rows : List (Nat × List Val × Bool)) : Stored :=
  let w := p.fmtD.width
  let modes := modesOf p.ctl (s.slot b k).seed.toNat (s.stepOf b) 0 (rowOffsets w rows)
  { ranges := (zipRows rows modes).map fun x =>
      (s.segAddr b k 0 x.1.1, packCodes w (p.codes x.2 x.1.2.1))
    marks := rows.filterMap fun r => if r.2.2 then some (s.segAddr b k 0 r.1, p.fmtD.bytesFor r.2.1.length) else none
    nans := nanToInt p.fmtD (rows.flatMap (·.2.1)) }

/-- Everything a pass writes, one `Stored` per member, and the tiles it read. -/
def State.passResult (s : State) (b k : Nat) (errs : List CheckErr) (p : Pass) (sets : List (Nat × Nat × StatSet × StatSet))
    (item : Option SpmmItem) : List Stored × List TileRead :=
  let bad := badReads errs
  let map := s.read (s.segAddr b k 0 p.bitmap) p.bitmapLen
  let home := (item.map (·.ordinal)).getD 0
  let mark := (item.map (·.marked)).getD false
  let (rows, tiles) := s.rowsOfA b k bad (badTiles errs) p map home
  (sets.map fun x => s.storeRows b k p (s.memberRows b k bad p rows map x.1 x.2.1 x.2.2.1 x.2.2.2 mark), tiles)

/-- Device ranges of one field of a pass. -/
def State.passRanges (s : State) (b k : Nat) (p : Pass) (fields : List Nat) : List Range :=
  ((p.accesses b).filter fun x => fields.contains x.field).map fun x => (s.segAddr b k x.seg x.off, x.len)

/-- Conditions 2 and 3 of R90: nothing of A, its scales and bitmap is pending; PartIn is pending only by earlier
passes on the same mere; no other unit will write a granule of PartOut. The SPMM that a pass belongs to has written what it
writes itself (R145). -/
def State.passResident (s : State) (b k : Nat) (p : Pass) (own : Option Nat) : Bool :=
  let a := s.passRanges b k p [16, 48, 72]
  let parts := s.passRanges b k p [32, 40]
  let others := s.flights.filter fun f => own != some f.id
  (others.all fun f => a.all fun r => !f.pendingIn r) &&
    (others.filter fun f => f.unit != .mere).all fun f => parts.all fun r => !f.pendingIn r

/-- The flight of the SPMM that a staged pass belongs to. -/
def State.spmmFlight (s : State) (b : Nat) (st : StagedPass) : Option Nat :=
  if st.item.isSome then (s.basin b).spmm.map (·.flight) else none

/-- POISON_MARKED counts a descriptor once (R228): the marked rows of an SPMM's pass count for the SPMM. -/
def State.countMarked (s : State) (b k : Nat) (st : StagedPass) (marks : Bool) : State :=
  if !marks then s
  else
    match st.item, (s.basin b).spmm with
    | some _, some w =>
      if w.counted then s
      else (s.bumpSlot b k cPoisonMarked).modBasin b fun y => { y with spmm := some { w with counted := true } }
    | _, _ => s.bumpSlot b k cPoisonMarked

/-- Write the rows of a pass, with their markings, failed chunks and counters (R69, R220, R226). -/
def State.putPass (s : State) (b k : Nat) (errs : List CheckErr) (st : StagedPass) (xs : List Stored) : State :=
  let marks := xs.flatMap (·.marks)
  let s := (xs.foldl (fun s x => s.putRanges x.ranges) s).markRanges marks
  let s := (s.countMarked b k st (!marks.isEmpty)).markFailedChunks errs (rangesOf xs)
  s.bumpSlot b k cNanToInt ((xs.map (·.nans)).sum)

/-- The pass has issued: its flight; Position moves past its descriptor, which an SPMM's pass has none of (R145). -/
def State.passIssued (s : State) (b k : Nat) (st : StagedPass) (w : List Range) (ms : List Nat) : State :=
  if st.item.isSome then
    s.addFlight { id := 0, unit := .mere, basin := b, slot := k, setCell := none, writes := w, basins := ms, step := s.stepOf b
                  isPlace := false, lateFault := none, parent := s.spmmFlight b st }
  else s.issued b k st.desc .mere w ms false none

/-- MERE_PASS_ISSUE of the pass that basin `b` leads (R90): the lane sums are formed and written. `ready` says that the sets
are loaded and the spacing is kept (conditions 1 and 4). -/
def State.issuePass (s : State) (b : Nat) (ready : Bool) (errs : List CheckErr) : State :=
  match (s.basin b).mere.staged with
  | none => s
  | some st =>
    let k := st.slot
    let p := passOf st.desc
    let w := s.passRanges b k p [40]
    if ready && st.lead == b && (st.item.isSome || s.slotIssues b k) && s.passResident b k p (s.spmmFlight b st) && s.countsAllow w
    then
      let s := s.noteErrs b errs
      let ms := p.members b
      let sets := ms.map fun x =>
        let m := (s.basin x.1).mere
        (x.1, x.2, m.sets.getD ((m.staged.map (·.set)).getD 0) {}, m.sets.getD 1 {})
      let (out, tiles) := s.passResult b k errs p sets st.item
      let s := tiles.foldl (fun s t => s.noteTile b t) s
      let s := s.putPass b k errs st out
      let s := ms.foldl (fun s x => s.modBasin x.1 fun y =>
        { y with mere := { y.mere with lastSet := (y.mere.staged.map (·.set)).getD 0, staged := none, gangLast := x.1 != b
                                       fp32Last := p.fmtA == .fp32 } }) s
      s.passIssued b k st w (ms.map (·.1))
    else s

/-- MERE_PASS_COMPLETE (R91): the oldest pass in flight on basin `b`'s mere completes, when no earlier pass is in
flight on any of its meres. -/
def State.completePass (s : State) (b : Nat) : State :=
  match (s.passesOn b).head? with
  | none => s
  | some f =>
    if f.basins.all fun m => ((s.passesOn m).head?.map (·.id)) == some f.id then s.completeFlight f else s

/-- MERE_PASS_ISSUE (R90). -/
def execMerePassIssue (t b : Nat) (ready : Bool) (lowered : List (Nat × Nat)) (errs : List CheckErr) (s : State) :
    Host.Outcome State Fault Refusal :=
  s.runAlive t fun u => (u.lowerCounts lowered).issuePass b ready errs
/-- MERE_PASS_COMPLETE (R91). -/
def execMerePassComplete (t b : Nat) (s : State) : Host.Outcome State Fault Refusal :=
  s.runAlive t fun u => u.completePass b

end Sys2Proof.Machine
end

