-- ==== Sys2Proof/Machine/Tarn.lean ====
section
/-! DEFINITION. The tarns (spec 06): the tarn operation descriptor, sparse products, gather, scatter and atomic
accumulation, merging, packing and unpacking of tiles, completion. -/

namespace Sys2Proof.Machine

/-! ### The descriptor (Tables 6.4 to 6.6) -/

/-- Engine of an SPMM. -/
def tEngine (d : Bytes) : Nat := fieldB d 39 1 % 4

/-- GenEn of a SCATTER_ADD. -/
def tGenEn (d : Bytes) : Bool := bit (fieldB d 39 1) 3

/-- Combine of a MERGE. -/
def tCombine (d : Bytes) : Bool := bit (fieldB d 39 1) 2

/-- FromZero of an SPMM. -/
def tFromZero (d : Bytes) : Bool := bit (fieldB d 31 1) 0

/-- Count. -/
def tCount (d : Bytes) : Nat := fieldB d 4 4

/-- KTiles. -/
def tKTiles (d : Bytes) : Nat := fieldB d 44 2

/-- Stride in bytes. -/
def tStride (d : Bytes) : Nat := 64 * fieldB d 46 2

/-- StridePart in bytes. -/
def tStridePart (d : Bytes) : Nat := 64 * fieldB d 54 2

/-- Row bytes of a GATHER. -/
def tRowBytes (d : Bytes) : Nat := 64 * fieldB d 58 2

/-- The formats that a SCATTER_ADD permits for A and D (R149). -/
def scatterPair (a d : Nat) : Bool :=
  if d = 0 || d = 1 then a == 0 || [1, 2, 3, 4].contains a
  else d == 0x0D && (a == 0x0B || a == 0x0D)

/-- The first illegal field of a tarn operation (R138, R156), the near-bank case apart. -/
def tarnIllegal (d : Bytes) : Option Nat :=
  let op := dOp d
  let ctl := fieldB d 2 2
  let fo := ctlFormat ctl
  let fa := fieldB d 14 1
  let fb := fieldB d 22 1
  let n := tCount d
  let kt := tKTiles d
  let ru := fieldB d 58 2
  let nu := fieldB d 42 2
  let spmm := op == 1
  let gather := op == 2
  let scatter := op == 3
  let mergeOp := op == 4
  let tiles := op == 5 || op == 6
  firstIllegal
    [(1, 1 ≤ op && op ≤ 6),
     (2, ctlRound ctl == 0 && ctl % 256 == 0 && (tiles || !ctlNonsat ctl) &&
       (if spmm then fo == (if fa = 0x0B then 0x0D else 0)
        else if gather || tiles then fo == fa
        else if scatter then fo == 0 || fo == 1 || fo == 0x0D
        else fo == 0 || fo == 0x0D)),
     (4, 1 ≤ n && n ≤ (if gather || scatter then 16777216 else if mergeOp then 64 else 4096)),
     (8, !mergeOp || fieldB d 8 6 == 0),
     (14, if mergeOp then fa == 0
        else if gather then (fmtOf fa).isSome
        else if scatter then scatterPair fa fo || !(fo == 0 || fo == 1 || fo == 0x0D)
        else tileFormat fa),
     (15, fieldB d 15 1 ≤ (if gather then 1 else 0)),
     (16, spmm || (scatter && fo != 0x0D) || fieldB d 16 6 == 0),
     (22, if spmm then fb == fa || (fa == 3 && fb == 4) || (fa == 4 && fb == 3) else fb == 0),
     (23, fieldB d 23 1 == 0),
     (30, fieldB d 30 1 == 0),
     (31, fieldB d 31 1 < 8 && (spmm || !tFromZero d)),
     (32, gather || scatter || mergeOp || op == 5 || fieldB d 32 6 == 0),
     (38, fieldB d 38 1 == 0),
     (39, fieldB d 39 1 < 16 && (scatter || !tGenEn d) && (mergeOp || !tCombine d) &&
       (if spmm then tEngine d != 3 else tEngine d == 0)),
     (42, if spmm || scatter then 1 ≤ nu && nu ≤ 8192 else nu == 0),
     (44, if spmm || tiles then 1 ≤ kt && kt ≤ 4096 &&
            !(op == 5 && fieldB d 32 6 != 0 && (fmtD fa).width == 16 && kt % 2 == 1)
          else kt == 0),
     (46, !mergeOp || fieldB d 46 2 == 0),
     (48, allZero (sliceB d 48 6)),
     (54, spmm || scatter || fieldB d 54 2 == 0),
     (56, scatter || fieldB d 56 2 == 0),
     (58, if gather then 1 ≤ ru && ru ≤ 1024 else ru == 0),
     (60, fieldB d 60 4 == 0)]

/-! ### Accesses (R157, R193) -/

/-- `n` accesses of `len` bytes from `off` on at stride `sp`. -/
def rowAccesses (field seg off sp len n : Nat) (w : Bool) (r : Reach) : List Access :=
  (List.range n).map fun i => ⟨field, seg, off + i * sp, len, w, r⟩

/-- The ranges of a tarn operation of basin `b` that its descriptor fixes, in the order of the naming fields; the rows
that indices and stream tables name come when they are fetched. -/
def tarnAccesses (b : Nat) (d : Bytes) : List Access :=
  let op := dOp d
  let n := tCount d
  let kt := tKTiles d
  let r := Reach.pools [b]
  let a := fieldB d 8 6
  let src := fieldB d 16 6
  let dst := fieldB d 24 6
  let aux := fieldB d 32 6
  let fa := fmtD (fieldB d 14 1)
  let nu := fieldB d 42 2
  if op = 1 then
    let len := 4 * nu
    rowAccesses 8 0 a tileSize tileSize (n * kt) false r ++
      rowAccesses 16 0 src (tStride d) ((fmtD (fieldB d 22 1)).bytesFor nu) (kt * fa.tileCols) false r ++
      rowAccesses 24 0 dst (tStridePart d) len (64 * n) true r ++
      (if tFromZero d then [] else rowAccesses 24 0 dst (tStridePart d) len (64 * n) false r)
  else if op = 2 then
    rowAccesses 24 0 dst (tRowBytes d) (tRowBytes d) n true r ++ [⟨32, 0, aux, 4 * n, false, r⟩]
  else if op = 3 then
    rowAccesses 8 0 a (tStride d) (fa.bytesFor nu) n false r ++
      (if src = 0 then [] else [⟨16, 0, src, 4 * n, false, r⟩]) ++ [⟨32, 0, aux, 4 * n, false, r⟩]
  else if op = 4 then [⟨24, 0, dst, 64, true, r⟩, ⟨32, 0, aux, 16 * n, false, r⟩]
  else if op = 5 then
    rowAccesses 8 0 a (tStride d) (64 * kt) (64 * n) false r ++
      rowAccesses 24 0 dst tileSize tileSize (n * kt) true r ++
      (if aux = 0 then [] else [⟨32, 0, aux, ceilDiv (n * (kt * 8 / fa.width)) 8, false, r⟩])
  else
    rowAccesses 8 0 a tileSize tileSize (n * kt) false r ++
      rowAccesses 24 0 dst (tStride d) (64 * kt) (64 * n) true r

/-- The device ranges of the accesses that write. -/
def State.writeRanges (s : State) (b k : Nat) (xs : List Access) : List Range :=
  (xs.filter (·.write)).map fun x => (s.segAddr b k x.seg x.off, x.len)

/-- The operation has issued on the tarn: its inlets leave ZEROED and hold the entries fetched first (Table 6.1, R129). -/
def State.tarnIssued (s : State) (b k : Nat) (d : Bytes) (w : List Range) (late : Option LateFault)
    (lanes : List (List InletEntry) := []) : State :=
  (s.issued b k d .tarn w [b] (dClass d == 8 && dOp d == 2) late).modBasin b fun x =>
    { x with inlets := (List.range 64).map fun i => { zeroed := false, entries := lanes.getD i [] } }

/-! ### Sparse products (R140 to R146) -/

/-- The engine that a tile goes to. -/
inductive Engine where
  | neither | tarn | mere
  deriving DecidableEq, Repr

/-- R141: the engine of a tile of `e` elements. -/
def engineOf (engine cross e : Nat) (t : TileRead) : Engine :=
  if t.poisoned || tNnz t.tile = 0 then .neither
  else if engine = 0 then .tarn
  else if engine = 2 then .mere
  else if tNnz t.tile * 65536 < cross * e then .tarn
  else .mere

/-- Crossover of a slot: 0 selects 1,311 (R141). -/
def Slot.cross (x : Slot) : Nat := if x.crossover = 0 then 1311 else x.crossover

/-- One row of D on its way: its partial as element codes, whether the tarn contributes to it, the stored elements of its
tarn tiles as (depth line, code), whether the tarn writes it, whether it is marked. -/
structure AccRow where
  codes : List Nat
  isTarn : Bool
  elems : List (Nat × Nat)
  written : Bool
  marked : Bool
  deriving DecidableEq, Repr

/-- The lane operands of selected stored elements against one column of B. -/
def sparseLane (f : Fmt) (codes : List Nat) : Lane := laneOf f codes []

/-- Segments of 2,048 stored elements (R144). -/
def cutRow (fuel : Nat) (xs : List (Nat × Nat)) : List (List (Nat × Nat)) :=
  match fuel with
  | 0 => []
  | n + 1 => if xs.isEmpty then [] else xs.take 2048 :: cutRow n (xs.drop 2048)

/-- A tarn row (R143, R144): stored elements as (depth line, code), the lines of B as rows of codes, and the incoming
partial; one rounding per segment. -/
def tarnRow (fa fb fd : Fmt) (linesB : List (List Nat)) (elems : List (Nat × Nat)) (part : List Nat) : List Nat :=
  (cutRow (elems.length + 1) elems).foldl (fun acc seg =>
    let a := sparseLane fa (seg.map (·.2))
    let lines := seg.map fun e => linesB.getD e.1 []
    ((List.range acc.length).zip acc).map fun c =>
      storeElem fd .nearest false (laneSum a (sparseLane fb (lines.map fun l => l.getD c.1 0)) c.2)) part

/-- The rows of a tile's stored elements as the tarn takes them: an element that is zero forms no product, also where a
dense tile, or a compressed one that lists it, stores it (R143; DEDUCED, assumption 59). -/
def tileStored (f : Fmt) (t : Bytes) : List (List (Nat × Nat)) := (tileRows f t).map fun r => r.filter fun e => e.2 != 0

/-- A row group's tiles with their engines. -/
abbrev TileGroup := List (TileRead × Engine)

/-- Some tile of the group goes to engine `e`. -/
def TileGroup.uses (g : TileGroup) (e : Engine) : Bool := g.any fun x => x.2 == e

/-- Some tile of the group is poisoned. -/
def TileGroup.poisoned (g : TileGroup) : Bool := g.any fun x => x.1.poisoned

/-- The stored elements of row `r` of a group, across its tarn tiles in row-major order (R143, R144). -/
def TileGroup.rowElems (g : TileGroup) (fa : Fmt) (r : Nat) : List (Nat × Nat) :=
  ((List.range g.length).zip g).flatMap fun y =>
    if y.2.2 == .tarn then ((tileStored fa y.2.1.tile).getD r []).map fun z => (y.1 * fa.tileCols + z.1, z.2) else []

/-- The items of a sparse product in deal order (R147): a row, or a segment of a cut row, with a chunk of the columns. -/
def dealItems (chunks : Nat) (rows : List AccRow) : List (List (Nat × Nat) × Nat) :=
  (rows.filter (·.isTarn)).flatMap fun x =>
    (if x.elems.isEmpty then [[]] else cutRow (x.elems.length + 1) x.elems).flatMap fun seg =>
      (List.range chunks).map fun c => (seg, c)

/-- The entries that each lane's inlet takes first (R129, R147): an element and its chunk of B's line. -/
def dealLanes (line : Nat → Bytes) (items : List (List (Nat × Nat) × Nat)) : List (List InletEntry) :=
  ((List.range items.length).zip items).foldl (fun lanes x => lanes.modify (x.1 % 64) fun es =>
    es ++ (x.2.1.take (32 - es.length)).map fun e => ⟨e.2, ((line e.1).drop (256 * x.2.2)).take 256⟩) (List.replicate 64 [])

/-- The descriptor of the mere pass that R145 stages for depth tile `c` of row group `r`. -/
def spmmDesc (d : Bytes) (r c : Nat) (fromZero : Bool) : Bytes :=
  let cols := (fmtD (fieldB d 14 1)).tileCols
  let part := toLE 6 (fieldB d 24 6 + 64 * r * tStridePart d)
  toLE 1 1 ++ toLE 1 16 ++ sliceB d 14 1 ++ sliceB d 22 1 ++ sliceB d 2 2 ++ toLE 2 64 ++ toLE 2 cols ++ sliceB d 42 2 ++
    toLE 1 (if fromZero then 6 else 4) ++ toLE 1 16 ++ zeros 2 ++
    toLE 6 (fieldB d 8 6 + (r * tKTiles d + c) * tileSize) ++ zeros 2 ++
    toLE 6 (fieldB d 16 6 + c * cols * tStride d) ++ sliceB d 46 2 ++ part ++ sliceB d 54 2 ++ part ++ zeros 50

/-- The mere passes of one row group (R145); `mark` says that its rows are marked whatever the passes read. -/
def groupItems (d : Bytes) (r : Nat) (g : TileGroup) (mark : Bool) : List SpmmItem :=
  let meres := ((List.range g.length).zip g).filter fun x => x.2.2 == .mere
  ((List.range meres.length).zip meres).map fun x =>
    { ordinal := r * tKTiles d + x.2.1, marked := mark
      desc := spmmDesc d r x.2.1 (tFromZero d && x.1 == 0 && !g.uses .tarn) }

/-- The rows of D that an SPMM computes on the tarn (R143, R144, R146, R226). -/
def State.spmmRows (s : State) (b k : Nat) (bad : List Range) (d : Bytes) (groups : List TileGroup) (badB : Bool) :
    List AccRow :=
  let fa := fmtD (fieldB d 14 1)
  let fb := fmtD (fieldB d 22 1)
  let fd := fmtD (ctlFormat (fieldB d 2 2))
  let nu := fieldB d 42 2
  let addr (o : Nat) : Nat := s.segAddr b k 0 o
  let linesB := (List.range (tKTiles d * fa.tileCols)).map fun l => s.codesAt fb (addr (fieldB d 16 6 + l * tStride d)) nu
  ((List.range groups.length).zip groups).flatMap fun g => (List.range 64).map fun r =>
    let a := addr (fieldB d 24 6 + (64 * g.1 + r) * tStridePart d)
    let isTarn := g.2.uses .tarn
    let written := isTarn || (tFromZero d && !g.2.uses .mere)
    let elems := g.2.rowElems fa r
    let part := if tFromZero d then List.replicate nu 0 else s.codesAt fd a nu
    { codes := tarnRow fa fb fd linesB elems part, isTarn := isTarn, elems := elems, written := written
      marked := g.2.poisoned || (badB && written) || (!tFromZero d && isTarn && s.readPoison bad a (4 * nu)) }

/-- SPMM at its issue (R140 to R146, R156, R157): the tarn contributes to its rows, and the passes of the mere's tiles wait
to be staged. -/
def State.spmm (s : State) (b k : Nat) (errs : List CheckErr) (d : Bytes) : State :=
  let fa := fmtD (fieldB d 14 1)
  let fb := fmtD (fieldB d 22 1)
  let kt := tKTiles d
  let nu := fieldB d 42 2
  let addr (o : Nat) : Nat := s.segAddr b k 0 o
  let xs := tarnAccesses b d
  let far := (xs.find? fun x => [8, 24].contains x.field && !inNear (addr x.off) x.len).map (·.field)
  match if tEngine d = 0 then none else far with
  | some off => s.haltIllegal b k off
  | none =>
    let bad := badReads errs
    let tiles := (List.range (tCount d)).map fun r => (List.range kt).map fun c =>
      s.readTile bad (badTiles errs) fa (r * kt + c) (addr (fieldB d 8 6 + (r * kt + c) * tileSize))
    match ((List.range (tCount d * kt)).zip tiles.flatten).find? fun x => x.2.headerBad with
    | some x => s.halt b k .tileHeader x.1 0 0 0
    | none =>
      let w := s.writeRanges b k xs
      if s.countsAllow w then
        let groups : List TileGroup := tiles.map fun ts =>
          ts.map fun t => (t, engineOf (tEngine d) (s.slot b k).cross (64 * fa.tileCols) t)
        let line (l : Nat) : Nat := addr (fieldB d 16 6 + l * tStride d)
        let badB := (List.range (kt * fa.tileCols)).any fun l => s.readPoison bad (line l) (fb.bytesFor nu)
        let rows := s.spmmRows b k bad d groups badB
        let idx := (List.range rows.length).zip rows
        let rowAddr (i : Nat) : Nat := addr (fieldB d 24 6 + i * tStridePart d)
        let out : Stored :=
          { ranges := idx.filterMap fun x => if x.2.written then some (rowAddr x.1, packCodes 32 x.2.codes) else none
            marks := idx.filterMap fun x => if x.2.marked then some (rowAddr x.1, 4 * nu) else none }
        let lanes := dealLanes (fun l => s.read (line l) (fb.bytesFor nu)) (dealItems (ceilDiv (fb.bytesFor nu) 256) rows)
        let work : SpmmWork :=
          { slot := k, flight := s.nextFlight, counted := !out.marks.isEmpty
            items := ((List.range groups.length).zip groups).flatMap fun g => groupItems d g.1 g.2 (g.2.poisoned || badB) }
        let s := s.noteErrs b errs
        let s := tiles.flatten.foldl (fun s t => s.noteTile b t) s
        ((s.putStored b k errs [out]).tarnIssued b k d w none lanes).modBasin b fun x => { x with spmm := some work }
      else s

/-! ### Index lists (R136, R157) -/

/-- An IDX entry: its value and whether it arrives poisoned. -/
def State.idxEntries (s : State) (bad : List Range) (a n : Nat) : List (Nat × Bool) :=
  ((List.range n).zip (chunksLE 4 n (s.read a (4 * n)))).map fun x => (x.2, s.readPoison bad (a + 4 * x.1) 4)

/-- The entries before the first whose row breaches R193, and that breach. Null entries name no row, and `skip` is
true of entries that are not fetched further. -/
def State.fetchedEntries (s : State) (b k : Nat) (row : Nat → List Access) (skip : Nat × Bool → Bool) :
    Nat → List (Nat × Bool) → List (Nat × Nat × Bool) × Option (Access × SegCause)
  | _, [] => ([], none)
  | i, e :: es =>
    match if e.1 = 0xFFFFFFFF || skip e then none else s.firstFault b k (row e.1) with
    | some f => ([], some f)
    | none =>
      let (rest, f) := s.fetchedEntries b k row skip (i + 1) es
      ((i, e.1, e.2) :: rest, f)

/-- The late SEGMENT_FAULT of a breaching index (R157, Table 14.8): the slot halts at the descriptor. -/
def segmentLate (position : Nat) (x : Access × SegCause) : LateFault :=
  { code := 2, detail0 := x.1.seg + 16 * x.2.code, detail1 := 0, detail2 := x.1.off, detail3 := x.1.len
    position := position }

/-- One entry of a GATHER (R148): the source row, read through the home caches, or zeros for the null entry; `src` none is
the null entry. -/
def State.gatherRow (s : State) (bad : List Range) (rb : Nat) (dst : Nat) (src : Option Nat) (poison : Bool) : State × Bool :=
  match src with
  | none => (s.write dst (zeros rb) poison, poison)
  | some a =>
    let p := poison || s.readPoison bad a rb
    ((s.touchCache a rb).write dst (s.read a rb) p, p)

/-- GATHER at its issue (R148): row by row in entry order. -/
def State.gather (s : State) (b k : Nat) (errs : List CheckErr) (d : Bytes) : State :=
  let bad := badReads errs
  let sa := fieldB d 15 1
  let rb := tRowBytes d
  let row (i : Nat) : List Access := [⟨8, sa, fieldB d 8 6 + i * tStride d, rb, false, .pools [b]⟩]
  let w := s.writeRanges b k (tarnAccesses b d)
  let es := s.idxEntries bad (s.segAddr b k 0 (fieldB d 32 6)) (tCount d)
  let (entries, breach) := s.fetchedEntries b k row (fun _ => false) 0 es
  let rows := entries.flatMap fun e => if e.2.1 = 0xFFFFFFFF then [] else row e.2.1
  if s.countsAllow w && !s.accessesWait b k rows then
    let s := s.noteErrs b errs
    let (s, marked) := entries.foldl (fun (acc : State × Bool) e =>
      let src := if e.2.1 = 0xFFFFFFFF then none else some (s.segAddr b k sa (fieldB d 8 6 + e.2.1 * tStride d))
      let (u, p) := acc.1.gatherRow bad rb (s.segAddr b k 0 (fieldB d 24 6 + e.1 * rb)) src e.2.2
      (u, acc.2 || p)) (s, false)
    let s := (s.bumpSlot b k cPoisonMarked (if marked then 1 else 0)).markFailedChunks errs w
    s.tarnIssued b k d w (breach.map (segmentLate (s.slot b k).position))
  else s

/-! ### The atomic-accumulate unit (R149 to R151, R169, R175) -/

/-- A generation is outstanding in a basin. -/
def State.outstanding (s : State) (b g : Nat) : Bool := (s.basin b).generations.outstanding.contains g

/-- A generation is one that a basin has retired (R151). -/
def State.hasRetired (s : State) (b g : Nat) : Bool := (s.basin b).generations.retired.contains g

/-- rn(d + w × a) on one element (R149); integers wrap. -/
def accumulate (fd fa : Fmt) (w : Val) (d a : Nat) : Nat :=
  if fd == .int32 then unsigned 32 (signed 32 d + signed fa.width a)
  else storeElem fd .nearest false (Val.sum [decodeElem fd d, Val.mul w (decodeElem fa a)])

/-- Add a weighted row of codes into the D row at device address `a`, marked when it or what is added is (R149, R226). -/
def State.addRow (s : State) (bad : List Range) (fd fa : Fmt) (w : Val) (a : Nat) (row : List Nat) (poison : Bool) : State :=
  let n := row.length
  let p := poison || s.readPoison bad a (fd.bytesFor n)
  let old := s.codesAt fd a n
  let s := s.write a (packCodes fd.width (List.zipWith (accumulate fd fa w) old row)) false
  if p then s.markRange a (fd.bytesFor n) else s

/-- SCATTER_ADD at its issue (R149 to R151, R227). -/
def State.scatterAdd (s : State) (b k : Nat) (errs : List CheckErr) (d : Bytes) : State :=
  let bad := badReads errs
  let fa := fmtD (fieldB d 14 1)
  let fd := fmtD (ctlFormat (fieldB d 2 2))
  let nu := fieldB d 42 2
  let len := fd.bytesFor nu
  let row (i : Nat) : List Access :=
    let o := fieldB d 24 6 + i * tStridePart d
    [⟨24, 0, o, len, true, .pools [b]⟩, ⟨24, 0, o, len, false, .pools [b]⟩]
  let es := s.idxEntries bad (s.segAddr b k 0 (fieldB d 32 6)) (tCount d)
  let (entries, breach) := s.fetchedEntries b k row (·.2) 0 es
  let dst (i : Nat) : Nat := s.segAddr b k 0 (fieldB d 24 6 + i * tStridePart d)
  let src (i : Nat) : Nat := s.segAddr b k 0 (fieldB d 8 6 + i * tStride d)
  let wa (i : Nat) : Nat := s.segAddr b k 0 (fieldB d 16 6 + 4 * i)
  let weighted := fieldB d 16 6 != 0
  let unlocated := entries.filter (·.2.2)
  let live := entries.filter fun e => !e.2.2 && e.2.1 != 0xFFFFFFFF
  let discard := tGenEn d && s.hasRetired b (fieldB d 56 2)
  let apply := if discard then [] else live
  let w := apply.map fun e => (dst e.2.1, len)
  if s.countsAllow w then
    let rows := apply.map fun e =>
      (dst e.2.1, if weighted then f32 (leNat (s.read (wa e.1) 4)) else Val.one, s.codesAt fa (src e.1) nu,
        s.readPoison bad (src e.1) (fa.bytesFor nu) || (weighted && s.readPoison bad (wa e.1) 4))
    let s := s.noteErrs b errs
    let marked := rows.any fun r => r.2.2.2 || s.readPoison bad r.1 len
    let s := rows.foldl (fun s r => s.addRow bad fd fa r.2.1 r.1 r.2.2.1 r.2.2.2) s
    let s := s.bumpBasin b cLateDiscard (if discard then live.length else 0)
    let s := s.bumpSlot b k cPoisonUnlocated unlocated.length
    let s := s.bumpSlot b k cPoisonMarked (if marked then 1 else 0)
    let s := s.markFailedChunks errs w
    let late := match breach, unlocated with
      | some x, _ => some (segmentLate (s.slot b k).position x)
      | none, e :: _ => some { code := 6, detail0 := e.1, detail1 := 0, detail2 := 0, detail3 := 0, position := 0 }
      | none, [] => none
    s.tarnIssued b k d w late
  else s

/-! ### Merging keyed streams (R152, R153) -/

/-- A stream of a MERGE: its number, the key it last gave, and the records left. -/
structure KeyedStream where
  number : Nat
  last : Nat
  recs : List (Nat × Nat)
  deriving DecidableEq, Repr

/-- The stream whose next record comes next: the lowest key, then the lowest number. -/
def nextStream (ss : List KeyedStream) : Option (KeyedStream × Nat × Nat) :=
  ss.foldl (fun best x =>
    match x.recs with
    | [] => best
    | r :: _ =>
      match best with
      | some (_, kb, _) => if r.1 < kb then some (x, r.1, r.2) else best
      | none => some (x, r.1, r.2)) none

/-- Merge records in order; the second answer is the stream that is out of order, if one is met. -/
def mergeStreams : Nat → List KeyedStream → List (Nat × Nat) × Option Nat
  | 0, _ => ([], none)
  | n + 1, ss =>
    match nextStream ss with
    | none => ([], none)
    | some (x, key, v) =>
      if key < x.last then ([], some x.number)
      else
        let rest := ss.map fun y => if y.number = x.number then { y with last := key, recs := y.recs.tail } else y
        let (out, bad) := mergeStreams n rest
        ((key, v) :: out, bad)

/-- One value of a run of equal keys (R61). -/
def runValue (int : Bool) (vs : List Nat) : Nat :=
  if int then unsigned 32 ((vs.map (signed 32)).foldl (· + ·) 0) else toF32 (Val.sum (vs.map f32))

/-- Combine runs of equal keys, newest first. -/
def combineRuns : List (Nat × Nat) → List (Nat × List Nat) → List (Nat × List Nat)
  | [], acc => acc
  | r :: rs, [] => combineRuns rs [(r.1, [r.2])]
  | r :: rs, a :: acc => combineRuns rs (if a.1 = r.1 then (a.1, a.2 ++ [r.2]) :: acc else (r.1, [r.2]) :: a :: acc)

/-- A stream table entry: offset, record count, and whether it names the pool with its reserved fields 0. -/
def streamEntry (e : Bytes) : Nat × Nat × Bool :=
  (fieldB e 0 6, fieldB e 8 4, fieldB e 6 1 == 0 && fieldB e 7 1 == 0 && fieldB e 12 4 == 0)

/-- MERGE at its issue. -/
def State.mergeOp (s : State) (b k : Nat) (errs : List CheckErr) (d : Bytes) : State :=
  let bad := badReads errs
  let n := tCount d
  let ta := s.segAddr b k 0 (fieldB d 32 6)
  let ents := (List.range n).map fun i => streamEntry (s.read (ta + 16 * i) 16)
  let total := (ents.map fun e => e.2.1).sum
  let xs := (ents.filter fun e => e.2.1 != 0).map fun e => (⟨32, 0, e.1, 8 * e.2.1, false, .pools [b]⟩ : Access)
  let dst := s.segAddr b k 0 (fieldB d 24 6)
  if !ents.all (fun e => e.2.2) then s.haltIllegal b k 32
  else
    s.checked b k (⟨24, 0, fieldB d 24 6, 64 + 8 * total, true, .pools [b]⟩ :: xs) <|
      let w := [(dst, 64 + 8 * total)]
      if s.countsAllow w then
        let addr (o : Nat) : Nat := s.segAddr b k 0 o
        let pairs (x : Bytes) (m : Nat) : List (Nat × Nat) := (chunksLE 8 m x).map fun v => (v % 2 ^ 32, v / 2 ^ 32)
        let streams := ((List.range n).zip ents).map fun e =>
          (⟨e.1, 0, pairs (s.read (addr e.2.1) (8 * e.2.2.1)) e.2.2.1⟩ : KeyedStream)
        let poison := s.readPoison bad ta (16 * n) || xs.any fun x => s.readPoison bad (addr x.off) x.len
        let (recs, unsorted) := mergeStreams (total + 1) streams
        let int := ctlFormat (fieldB d 2 2) == 0x0D
        let out :=
          if tCombine d then
            let runs := combineRuns recs []
            let runs := if unsorted.isSome then runs.tail else runs
            (runs.map fun r => (r.1, runValue int r.2)).reverse
          else recs
        let s := s.noteErrs b errs
        let bytes := out.flatMap fun r => toLE 4 r.1 ++ toLE 4 r.2
        let st : Stored :=
          { ranges := [(dst + 64, bytes), (dst, toLE 8 out.length)]
            marks := if poison then [(dst, 8), (dst + 64, bytes.length)] else [] }
        let late := unsorted.map fun x =>
          ({ code := 5, detail0 := x, detail1 := out.length, detail2 := 0, detail3 := 0
             position := (s.slot b k).position } : LateFault)
        (s.putStored b k errs [st]).tarnIssued b k d w late
      else s

/-! ### Packing and unpacking tiles (R154) -/

/-- TILE_PACK at its issue. -/
def State.tilePack (s : State) (b k : Nat) (errs : List CheckErr) (d : Bytes) : State :=
  let bad := badReads errs
  let fa := fmtD (fieldB d 14 1)
  let kt := tKTiles d
  let addr (o : Nat) : Nat := s.segAddr b k 0 o
  let aux := fieldB d 32 6
  let nb := kt * 8 / fa.width
  let mapLen := ceilDiv (tCount d * nb) 8
  let map := if aux = 0 then [] else s.read (addr aux) mapLen
  let mapBad := aux != 0 && s.readPoison bad (addr aux) mapLen
  let w := s.writeRanges b k (tarnAccesses b d)
  if s.countsAllow w then
    let s := s.noteErrs b errs
    let tiles := (List.range (tCount d * kt)).map fun t =>
      let r := t / kt
      let c := t % kt
      let on := aux = 0 || bitmapBit map (r * nb + c * 8 / fa.width)
      let at_ (i : Nat) : Nat := addr (fieldB d 8 6 + (64 * r + i) * tStride d + 64 * c)
      let rows := (List.range 64).map fun i =>
        if on then chunksLE fa.tileBytes fa.tileCols (s.read (at_ i) 64) else List.replicate fa.tileCols 0
      let p := mapBad || (on && (List.range 64).any fun i => s.readPoison bad (at_ i) 64)
      (t, rows, p)
    let out : Stored :=
      { ranges := tiles.map fun x => (addr (fieldB d 24 6 + x.1 * tileSize), buildTile fa x.1 x.2.1 x.2.2), marks := [] }
    let s := s.putStored b k errs [out]
    (s.bumpSlot b k cPoisonMarked (if tiles.any (·.2.2) then 1 else 0)).tarnIssued b k d w none
  else s

/-- TILE_UNPACK at its issue. -/
def State.tileUnpack (s : State) (b k : Nat) (errs : List CheckErr) (d : Bytes) : State :=
  let bad := badReads errs
  let fa := fmtD (fieldB d 14 1)
  let kt := tKTiles d
  let addr (o : Nat) : Nat := s.segAddr b k 0 o
  let w := s.writeRanges b k (tarnAccesses b d)
  if s.countsAllow w then
    let tiles := (List.range (tCount d * kt)).map fun t =>
      (t, s.readTile bad (badTiles errs) fa t (addr (fieldB d 8 6 + t * tileSize)))
    let s := s.noteErrs b errs
    let s := tiles.foldl (fun s x => s.noteTile b x.2) s
    let place (t i : Nat) : Nat := addr (fieldB d 24 6 + (64 * (t / kt) + i) * tStride d + 64 * (t % kt))
    let out : Stored :=
      { ranges := tiles.flatMap fun x =>
          let rows := tileRows fa x.2.tile
          (List.range 64).map fun i =>
            (place x.1 i, if x.2.poisoned then zeros 64
              else (denseRow fa.tileCols (rows.getD i [])).flatMap (toLE fa.tileBytes))
        marks := tiles.flatMap fun x => if x.2.poisoned then (List.range 64).map fun i => (place x.1 i, 64) else [] }
    (s.putStored b k errs [out]).tarnIssued b k d w none
  else s

/-! ### Issue and completion -/

/-- The effect of a tarn operation at its issue, by its Op (Table 6.5). -/
def State.tarnOp (s : State) (b k : Nat) (errs : List CheckErr) (d : Bytes) : State :=
  match dOp d with
  | 1 => s.spmm b k errs d
  | 2 => s.gather b k errs d
  | 3 => s.scatterAdd b k errs d
  | 4 => s.mergeOp b k errs d
  | 5 => s.tilePack b k errs d
  | _ => s.tileUnpack b k errs d

/-- A tarn operation at the head of its slot: halts, waits for its cell or the tarn, or issues (R139). -/
def State.tarnIssue (s : State) (b : Nat) (errs : List CheckErr) (k : Nat) : State :=
  s.atHead b k 2 (fun _ => true) tarnIllegal fun d =>
    if s.unitBusy b .tarn then s else s.checked b k (tarnAccesses b d) (s.tarnOp b k errs d)

/-- The mere passes of the SPMM with flight `id` are all done (R145). -/
def State.spmmDone (s : State) (b id : Nat) : Bool :=
  match (s.basin b).spmm with
  | none => true
  | some w =>
    w.flight != id || (w.items.isEmpty && !((s.basin b).mere.staged.any fun x => x.item.isSome) &&
      !s.flights.any fun f => f.parent == some id)

/-- The tarn's operation completes, an SPMM after the last of its mere passes; its inlets are empty (R139, R145, Table 6.1). -/
def State.tarnComplete (s : State) (b : Nat) : State :=
  match s.oldestFlight b .tarn with
  | none => s
  | some f =>
    if s.spmmDone b f.id then
      (s.completeFlight f).modBasin b fun x => { x with spmm := none, inlets := x.inlets.map fun i => { i with entries := [] } }
    else s

/-- TARN_OPERATION_COMPLETE (R139, R158): the tarn's operation completes. -/
def execTarnOperationComplete (t b : Nat) (s : State) : Host.Outcome State Fault Refusal :=
  s.runAlive t fun u => u.tarnComplete b

end Sys2Proof.Machine
end

