-- ==== Sys2Proof/Machine/Route.lean ====
section
/-! DEFINITION. Route operations (spec 07): ranking, placement under quotas, combining in rank order, dispatch
generations, and the masks of ragged batches. -/

namespace Sys2Proof.Machine

/-! ### The descriptor (Tables 7.1 to 7.3) -/

/-- Choice list length (1 to 16). -/
def rLen (d : Bytes) : Nat := fieldB d 30 1 / 16 + 1

/-- Choices placed per token (1 to 8). -/
def rK (d : Bytes) : Nat := fieldB d 30 1 % 8 + 1

/-- Width. -/
def rWidth (d : Bytes) : Nat := fieldB d 22 2

/-- Stride in bytes. -/
def rStride (d : Bytes) : Nat := 64 * fieldB d 50 2

/-- Bytes of a staging slot (R170). -/
def stageBytes (width : Nat) (f : Fmt) : Nat := alignUp (f.bytesFor width) 64

/-- The first illegal field of a route operation (R159, R180). -/
def routeIllegal (d : Bytes) : Option Nat :=
  let op := dOp d
  let ctl := fieldB d 2 2
  let n := fieldB d 4 4
  let fa := fieldB d 14 1
  let w := rWidth d
  let b30 := fieldB d 30 1
  let b31 := fieldB d 31 1
  let rank := op == 1
  let place := op == 2
  let comb := op == 3
  let ret := op == 4
  let build := op == 5
  let apply := op == 6
  let base := fieldB d 60 4
  firstIllegal
    [(1, 1 ≤ op && op ≤ 6),
     (2, if comb then ctl == 0 || ctl == 0x0800 else ctl == 0),
     (4, if ret then n == 0 else 1 ≤ n && n ≤ 65536),
     (8, rank || place || comb || build || fieldB d 8 6 == 0),
     (14, if rank || comb then fa ≤ 1 else fa == 0),
     (15, fieldB d 15 1 == 0),
     (16, comb || fieldB d 16 6 == 0),
     (22, if rank then rLen d ≤ w && w ≤ 4096
        else if comb || apply then 1 ≤ w && w ≤ 8192
        else if build then w % 64 == 0 && 64 ≤ w && w ≤ 8192
        else w == 0),
     (24, !ret || fieldB d 24 6 == 0),
     (30, !bit b30 3 && (rank || place || b30 / 16 == 0) && (place || comb || b30 % 8 == 0) &&
       (!place || rK d ≤ rLen d)),
     (31, !bit b31 0 && (build || !bit b31 7) && (ret || !bit b31 6) && (place || bits b31 5 3 == 0)),
     (32, place || comb || build || apply || fieldB d 32 6 == 0),
     (38, place || ret || fieldB d 38 2 == 0),
     (42, fieldB d 42 1 < 16 && (place || fieldB d 42 1 == 0)),
     (43, fieldB d 43 1 == 0),
     (44, place || fieldB d 44 6 == 0),
     (50, rank || comb || apply || fieldB d 50 2 == 0),
     (52, place || fieldB d 52 6 == 0),
     (58, fieldB d 58 2 == 0),
     (60, if build then w != 0 && base % w == 0 && base ≤ 1048576 else apply || base == 0)]

/-! ### Quotas and regions (R162, R165) -/

/-- The quota table at device address `a`. -/
def State.quotas (s : State) (a : Nat) : List Nat := chunksLE 2 4096 (s.read a 8192)

/-- Bytes of a span bitmap (R177). -/
def spanBytes (t w : Nat) : Nat := alignUp (ceilDiv (t / 64 * (w / 64)) 8) 64

/-- The ranges of a route operation of basin `b`, in the order of the naming fields; `q` is the sum of the quotas. -/
def routeAccesses (b q : Nat) (d : Bytes) : List Access :=
  let op := dOp d
  let n := fieldB d 4 4
  let r := Reach.pools [b]
  let a := fieldB d 8 6
  let dst := fieldB d 24 6
  let aux := fieldB d 32 6
  let w := rWidth d
  let fa := fmtD (fieldB d 14 1)
  let one (field off len : Nat) (wr : Bool) : List Access := if len = 0 then [] else [⟨field, 0, off, len, wr, r⟩]
  if op = 1 then
    rowAccesses 8 0 a (rStride d) (fa.bytesFor w) n false r ++ one 24 dst (128 * n) true
  else if op = 2 then
    one 8 a (128 * n) false ++ rowAccesses 24 0 dst 64 (8 * rK d) n true r ++ one 32 aux 8192 false ++
      one 44 (fieldB d 44 6) (4 * q) true ++ one 44 (alignUp (fieldB d 44 6 + 4 * q) 4096) (4 * q) true ++
      one 52 (fieldB d 52 6) (8 * q) true ++ one 52 (alignUp (fieldB d 52 6 + 8 * q) 4096) 8192 true
  else if op = 3 then
    let len := (fmtD (ctlFormat (fieldB d 2 2))).bytesFor w
    let map := ceilDiv (n * rK d) 8
    one 8 a (n * rK d * stageBytes w fa) false ++ one 16 (fieldB d 16 6) (64 * n) false ++
      rowAccesses 24 0 dst (rStride d) len n true r ++ rowAccesses 24 0 dst (rStride d) len n false r ++
      one 32 aux map true ++ one 32 aux map false
  else if op = 5 then
    let t := fieldB d 60 4
    one 8 a (8 * n) false ++ one 24 dst (if w = 0 then 0 else t / w * spanBytes t w) true ++ one 32 aux (8 * t) true
  else if op = 6 then
    rowAccesses 24 0 dst (rStride d) (4 * w) n true r ++ one 32 aux (8 * n) false
  else []

/-! ### RANK (R161) -/

/-- Score `a` of expert `i` goes before score `c` of expert `j`, for i < j. -/
def rankBefore (a c : Val) : Bool := if a.isNaN then c.isNaN else c.isNaN || !Val.lt a c

/-- The best of (expert, score) pairs in ascending expert order. -/
def bestScore : List (Nat × Val) → Option (Nat × Val)
  | [] => none
  | x :: xs =>
    match bestScore xs with
    | none => some x
    | some y => if rankBefore x.2 y.2 then some x else some y

/-- The first `n` experts in ranked order. -/
def ranked : Nat → List (Nat × Val) → List (Nat × Val)
  | 0, _ => []
  | n + 1, xs =>
    match bestScore xs with
    | none => []
    | some x => x :: ranked n (xs.filter fun y => y.1 != x.1)

/-- A list record (R160, R161) of ranked experts, given every expert's score code; FP32 scores keep their bits. -/
def listRecord (fa : Fmt) (codes : List Nat) (experts : List Nat) : Bytes :=
  (experts.flatMap fun e =>
    let c := codes.getD e 0
    toLE 2 e ++ zeros 2 ++ toLE 4 (if fa == .fp32 then c else toF32 (decodeElem fa c))) ++
    (List.replicate (16 - experts.length) (toLE 2 0xFFFF ++ zeros 6)).flatten

/-- RANK at its issue. -/
def State.rankOp (s : State) (b k : Nat) (errs : List CheckErr) (d : Bytes) : State :=
  let bad := badReads errs
  let fa := fmtD (fieldB d 14 1)
  let n := fieldB d 4 4
  let w := rWidth d
  let addr (o : Nat) : Nat := s.segAddr b k 0 o
  let row (t : Nat) : Nat := addr (fieldB d 8 6 + t * rStride d)
  let wr := s.writeRanges b k (routeAccesses b 0 d)
  if s.countsAllow wr then
    let s := s.noteErrs b errs
    let dst := addr (fieldB d 24 6)
    let out : Stored :=
      { ranges := (List.range n).map fun t =>
          let codes := s.codesAt fa (row t) w
          (dst + 128 * t, listRecord fa codes ((ranked (rLen d) ((List.range w).zip (codes.map (decodeElem fa)))).map (·.1)))
        marks := (List.range n).filterMap fun t =>
          if s.readPoison bad (row t) (fa.bytesFor w) then some (dst + 128 * t, 128) else none }
    (s.putStored b k errs [out]).tarnIssued b k d wr none
  else s

/-! ### PLACE (R162 to R166) -/

/-- A placed choice. -/
structure Choice where
  token : Nat
  rank : Nat
  expert : Nat
  slot : Nat
  weight : Nat
  deriving DecidableEq, Repr

/-- What a choice counts as (R166). -/
inductive Tally where
  | placed (e : Nat)
  | movedIn (e : Nat)
  | dropped (e : Nat)
  | routeEmpty
  deriving DecidableEq, Repr

/-- Placement so far: how many choices each expert took (other experts 0), the choices and the tallies, newest
first. -/
structure Placing where
  fill : List (Nat × Nat)
  choices : List Choice
  tallies : List Tally
  deriving DecidableEq, Repr

/-- fill[e]. -/
def Placing.fillOf (x : Placing) (e : Nat) : Nat := ((x.fill.find? fun y => y.1 == e).map (·.2)).getD 0

/-- take(t, r, e, w). -/
def Placing.take (x : Placing) (t r e w : Nat) (y : Tally) : Placing :=
  { fill := (e, x.fillOf e + 1) :: x.fill.filter fun z => z.1 != e
    choices := ⟨t, r, e, x.fillOf e, w⟩ :: x.choices
    tallies := y :: x.tallies }

/-- One choice of token `t` (R162): `list` holds (expert, weight code) of the first Len entries. -/
def Placing.choose (quota : List Nat) (nextBest : Bool) (t : Nat) (list : List (Nat × Nat)) (x : Placing) (r : Nat) :
    Placing :=
  let taken (e : Nat) : Bool := x.choices.any fun c => c.token == t && c.expert == e
  let room (e : Nat) : Bool := x.fillOf e < quota.getD e 0
  let (e, w) := list.getD r (0xFFFF, 0)
  if 4096 ≤ e then { x with tallies := .routeEmpty :: x.tallies }
  else if !taken e && room e then x.take t r e w (.placed e)
  else
    let walk := if nextBest then (list.drop (r + 1)).find? fun y => y.1 < 4096 && !taken y.1 && room y.1 else none
    match walk with
    | some (f, v) => x.take t r f v (.movedIn f)
    | none => { x with tallies := .dropped e :: x.tallies }

/-- The choices of one token with the weights of R164; a token whose choices all landed on their own experts keeps its
weights bit for bit, special values too. -/
def renormed (renorm : Bool) (list : List (Nat × Nat)) (k : Nat) (cs : List Choice) : List Choice :=
  let own := (list.take k).filter fun e => e.1 < 4096
  let sk := Val.sum (own.map fun e => f32 e.2)
  let sp := Val.sum (cs.map fun c => f32 c.weight)
  if renorm && !cs.isEmpty && !sp.isZero && cs.map (fun c => (c.expert, c.weight)) != own then
    cs.map fun c => { c with weight := toF32 (divVal (Val.mul (f32 c.weight) sk) sp) }
  else cs

/-- Saturating advance of a 32-bit counter: the new value and whether it stands at the end (R166). -/
def satAdd (n : Nat) : Nat × Bool := (min (n + 1) 0xFFFFFFFF, 0xFFFFFFFF ≤ n + 1)

/-- Advance one expert's counter. -/
def ExpertSet.advance (x : ExpertSet) (e : Nat) (f : ExpertCount → ExpertCount × Bool) : ExpertSet :=
  let old := ((x.counts.find? fun y => y.1 == e).map (·.2)).getD {}
  let (new, sat) := f old
  { saturated := x.saturated || sat
    counts := (x.counts.filter fun y => y.1 < e) ++ [(e, new)] ++ x.counts.filter fun y => e < y.1 }

/-- Count a tally. -/
def ExpertSet.tally (x : ExpertSet) : Tally → ExpertSet
  | .placed e => x.advance e fun c => ({ c with placed := (satAdd c.placed).1 }, (satAdd c.placed).2)
  | .movedIn e => x.advance e fun c => ({ c with movedIn := (satAdd c.movedIn).1 }, (satAdd c.movedIn).2)
  | .dropped e => x.advance e fun c => ({ c with dropped := (satAdd c.dropped).1 }, (satAdd c.dropped).2)
  | .routeEmpty => x

/-- A generation may become outstanding (R172). -/
def State.generationFits (s : State) (b g : Nat) : Bool :=
  s.outstanding b g || (s.basin b).generations.outstanding.all fun h => serialDiff 16 g h < 4096

/-- A PLACE with generation `g` issues in basin `b` (R172, R173). -/
def Generations.place (x : Generations) (g : Nat) (still : Bool) : Generations :=
  { retired := x.retired.filter fun h => h != g
    outstanding := if x.outstanding.contains g then x.outstanding else x.outstanding ++ [g]
    atStill := if still && !x.atStill.contains g then x.atStill ++ [g] else x.atStill }

/-- Retire generations (R173): `g` alone, or with every older outstanding one. -/
def Generations.retire (x : Generations) (g : Nat) (older : Bool) : Generations :=
  let gone (h : Nat) : Bool := h == g || (older && serialDiff 16 g h < 4096)
  { outstanding := x.outstanding.filter fun h => !gone h, atStill := x.atStill.filter fun h => !gone h
    retired := x.retired ++ x.outstanding.filter fun h => gone h && !x.retired.contains h }

/-- Off(e) for every expert with a quota (R165): (expert, quota, first entry). -/
def regionTable : Nat → Nat → List Nat → List (Nat × Nat × Nat)
  | _, _, [] => []
  | e, off, q :: qs => if q = 0 then regionTable (e + 1) off qs else (e, q, off) :: regionTable (e + 1) (off + q) qs

/-- PLACE at its issue. Bytes 2 and 3 of a list entry (Table 7.4) are ignored, whatever they hold: chapter 7 states no
response to a non-zero value there (DESIGN CHOICE, assumption 61). -/
def State.placeOp (s : State) (b k : Nat) (errs : List CheckErr) (d : Bytes) : State :=
  let bad := badReads errs
  let n := fieldB d 4 4
  let kk := rK d
  let b31 := fieldB d 31 1
  let g := fieldB d 38 2
  let addr (o : Nat) : Nat := s.segAddr b k 0 o
  let quota := s.quotas (addr (fieldB d 32 6))
  let q := quota.sum
  let wr := s.writeRanges b k (routeAccesses b q d)
  if !s.generationFits b g || !s.countsAllow wr then s
  else
    let quotaBad := s.readPoison bad (addr (fieldB d 32 6)) 8192
    let la (t : Nat) : Nat := addr (fieldB d 8 6 + 128 * t)
    let lists := (List.range n).map fun t =>
      let p := s.readPoison bad (la t) 128
      let es := (chunksLE 8 (rLen d) (s.read (la t) 128)).map fun v => if p then (0xFFFF, 0) else (v % 65536, v / 2 ^ 32)
      (t, es, p)
    let done := lists.foldl (fun (x : Placing) l =>
      (List.range kk).foldl (Placing.choose quota (!bit b31 4) l.1 l.2.1) x) ⟨[], [], []⟩
    let perToken := lists.map fun l =>
      (l.1, renormed (bit b31 5) l.2.1 kk (done.choices.filter fun c => c.token == l.1).reverse)
    let all := perToken.flatMap (·.2)
    let entry (cs : List Choice) (r : Nat) : Bytes :=
      match cs.find? fun c => c.rank == r with
      | some c => toLE 2 c.expert ++ toLE 2 c.slot ++ toLE 4 c.weight
      | none => toLE 2 0xFFFF ++ toLE 2 0xFFFF ++ zeros 4
    let regions := regionTable 0 0 quota
    let region (f : Option Choice → Bytes) : Bytes :=
      regions.flatMap fun x => (List.range x.2.1).flatMap fun i => f (all.find? fun c => c.expert == x.1 && c.slot == i)
    let rd (t : Nat) : Nat := addr (fieldB d 24 6 + 64 * t)
    let rest : List (Nat × Bytes) :=
      [(addr (fieldB d 44 6), region fun c => toLE 4 ((c.map (·.token)).getD 0xFFFFFFFF)),
       (addr (alignUp (fieldB d 44 6 + 4 * q) 4096), region fun c => toLE 4 ((c.map (·.weight)).getD 0)),
       (addr (fieldB d 52 6), region fun c =>
         match c with
         | some c => toLE 4 c.token ++ toLE 1 c.rank ++ toLE 1 b ++ toLE 2 g
         | none => toLE 4 0xFFFFFFFF ++ zeros 4),
       (addr (alignUp (fieldB d 52 6 + 8 * q) 4096), (List.range 4096).flatMap fun e => toLE 2 (done.fillOf e))]
    let out : Stored :=
      { ranges := (perToken.map fun x => (rd x.1, (List.range kk).flatMap (entry x.2))) ++ rest
        marks := (lists.filterMap fun l => if l.2.2 || quotaBad then some (rd l.1, 8 * kk) else none) ++
          (if quotaBad then rest.map fun r => (r.1, r.2.length) else []) }
    let s := s.noteErrs b errs
    let s := s.modBasin b fun x =>
      { x with generations := x.generations.place g (bit b31 3)
               experts := x.experts.modify (fieldB d 42 1) fun e => done.tallies.foldl ExpertSet.tally e }
    let s := s.bumpBasin b cRouteEmpty (done.tallies.filter (· == .routeEmpty)).length
    (s.putStored b k errs [out]).tarnIssued b k d wr none

/-! ### COMBINE and RETIRE (R171, R173) -/

/-- COMBINE of one token: the row, the bits cleared, whether a poisoned input reached it, and the absent ranks. -/
structure CombineRow where
  row : List Nat
  cleared : List Nat
  poisoned : Bool
  absent : Nat
  deriving DecidableEq, Repr

/-- COMBINE at its issue. -/
def State.combineOp (s : State) (b k : Nat) (errs : List CheckErr) (d : Bytes) : State :=
  let bad := badReads errs
  let n := fieldB d 4 4
  let kk := rK d
  let w := rWidth d
  let fa := fmtD (fieldB d 14 1)
  let fd := fmtD (ctlFormat (fieldB d 2 2))
  let addr (o : Nat) : Nat := s.segAddr b k 0 o
  let sb := stageBytes w fa
  let slotAt (t r : Nat) : Nat := addr (fieldB d 8 6 + (t * kk + r) * sb)
  let recAt (t : Nat) : Nat := addr (fieldB d 16 6 + 64 * t)
  let rowAt (t : Nat) : Nat := addr (fieldB d 24 6 + t * rStride d)
  let ma := addr (fieldB d 32 6)
  let ml := ceilDiv (n * kk) 8
  let map := s.read ma ml
  let mapBad := s.readPoison bad ma ml
  let wr := s.writeRanges b k (routeAccesses b 0 d)
  if s.countsAllow wr then
    let token (s : State) (t : Nat) : CombineRow :=
      let start : CombineRow :=
        { row := s.codesAt fd (rowAt t) w, cleared := [], absent := 0
          poisoned := mapBad || s.readPoison bad (rowAt t) (fd.bytesFor w) || s.readPoison bad (recAt t) (8 * kk) }
      (List.range kk).foldl (fun x r =>
        let e := s.read (recAt t + 8 * r) 8
        if fieldB e 0 2 = 0xFFFF then x
        else if bitmapBit map (t * kk + r) then
          { row := List.zipWith (accumulate fd fa (f32 (fieldB e 4 4))) x.row (s.codesAt fa (slotAt t r) w)
            cleared := (t * kk + r) :: x.cleared, absent := x.absent
            poisoned := x.poisoned || s.readPoison bad (slotAt t r) (fa.bytesFor w) }
        else { x with absent := x.absent + 1 }) start
    let s := s.noteErrs b errs
    let (s, rows) := (List.range n).foldl (fun (acc : State × List (Nat × CombineRow)) t =>
      let x := token acc.1 t
      (acc.1.write (rowAt t) (packCodes fd.width x.row) false, acc.2 ++ [(t, x)])) (s, [])
    let gone := rows.flatMap (·.2.cleared)
    let newMap := ((List.range ml).zip map).map fun y =>
      gone.foldl (fun (v : Byte) i => if i / 8 = y.1 then v &&& ~~~ (1#8 <<< (i % 8)) else v) y.2
    let s := s.write ma newMap false
    let s := if mapBad then s.markRange ma ml else s
    let s := s.markOutputs b k (rows.filterMap fun x => if x.2.poisoned then some (rowAt x.1, fd.bytesFor w) else none)
    let s := s.markFailedChunks errs wr
    let s := s.bumpBasin b cRouteAbsent ((rows.map (·.2.absent)).sum)
    s.tarnIssued b k d wr none
  else s

/-- RETIRE at its issue (R173, R174). -/
def State.retireOp (s : State) (b k : Nat) (errs : List CheckErr) (d : Bytes) : State :=
  let s := s.noteErrs b errs
  let s := s.modBasin b fun x =>
    { x with generations := x.generations.retire (fieldB d 38 2) (bit (fieldB d 31 1) 6) }
  s.tarnIssued b k d [] none

/-! ### Masks (R176 to R178) -/

/-- The index of the first sequence record that breaks R176. -/
def sequenceBad (t : Nat) : Nat → Nat → List (Nat × Nat) → Option Nat
  | _, _, [] => none
  | i, free, (st, len) :: rest =>
    if len = 0 || st < free || t < st + len then some i else sequenceBad t (i + 1) (st + len) rest

/-- The visible keys of every packed token from `q` on (R177): records (first, end). -/
def visibleKeys (causal : Bool) (t : Nat) : Nat → List (Nat × Nat) → List (Nat × Nat)
  | q, [] => List.replicate (t - q) (0, 0)
  | q, (st, len) :: rest =>
    List.replicate (st - q) (0, 0) ++
      ((List.range len).map fun i => if causal then (st, st + i + 1) else (st, st + len)) ++
      visibleKeys causal t (st + len) rest

/-- The bitmap of one span of keys from `lo` on (R177). -/
def spanBitmap (t w lo : Nat) (groups : List (List (Nat × Nat))) : Bytes :=
  let bitsOf := groups.flatMap fun g => (List.range (w / 64)).map fun c =>
    let a := lo + 64 * c
    if g.any fun r => r.1 < r.2 && r.1 < a + 64 && a < r.2 then 1 else 0
  let bs := packCodes 1 bitsOf
  bs ++ zeros (spanBytes t w - bs.length)

/-- Cut a list into groups of 64. -/
def groups64 : Nat → List (Nat × Nat) → List (List (Nat × Nat))
  | 0, _ => []
  | n + 1, xs => xs.take 64 :: groups64 n (xs.drop 64)

/-- MASK_BUILD at its issue. -/
def State.maskBuildOp (s : State) (b k : Nat) (errs : List CheckErr) (d : Bytes) : State :=
  let bad := badReads errs
  let n := fieldB d 4 4
  let w := rWidth d
  let t := fieldB d 60 4
  let addr (o : Nat) : Nat := s.segAddr b k 0 o
  let sa := addr (fieldB d 8 6)
  let seqs := (chunksLE 8 n (s.read sa (8 * n))).map fun v => (v % 2 ^ 32, v / 2 ^ 32)
  match sequenceBad t 0 0 seqs with
  | some i => s.halt b k .sequenceTable i 0 0 0
  | none =>
    let wr := s.writeRanges b k (routeAccesses b 0 d)
    if s.countsAllow wr then
      let p := s.readPoison bad sa (8 * n)
      let s := s.noteErrs b errs
      let recs := visibleKeys (bit (fieldB d 31 1) 7) t 0 seqs
      let groups := groups64 (t / 64) recs
      let sz := spanBytes t w
      let ranges : List (Nat × Bytes) :=
        (addr (fieldB d 32 6), recs.flatMap fun r => toLE 4 r.1 ++ toLE 4 r.2) ::
          (List.range (t / w)).map fun j => (addr (fieldB d 24 6) + j * sz, spanBitmap t w (j * w) groups)
      let out : Stored := { ranges := ranges, marks := if p then ranges.map fun r => (r.1, r.2.length) else [] }
      (s.putStored b k errs [out]).tarnIssued b k d wr none
    else s

/-- FP32 −infinity, `n` times. -/
def minusInfinity (n : Nat) : Bytes := (List.replicate n (toLE 4 0xFF800000)).flatten

/-- MASK_APPLY at its issue. -/
def State.maskApplyOp (s : State) (b k : Nat) (errs : List CheckErr) (d : Bytes) : State :=
  let bad := badReads errs
  let n := fieldB d 4 4
  let w := rWidth d
  let base := fieldB d 60 4
  let addr (o : Nat) : Nat := s.segAddr b k 0 o
  let recAt (i : Nat) : Nat := addr (fieldB d 32 6 + 8 * i)
  let rowAt (i : Nat) : Nat := addr (fieldB d 24 6 + i * rStride d)
  let wr := s.writeRanges b k (routeAccesses b 0 d)
  if s.countsAllow wr then
    let s := s.noteErrs b errs
    let out : Stored :=
      { ranges := (List.range n).flatMap fun i =>
          let lo := min w (leNat (s.read (recAt i) 4) - base)
          let hi := max lo (min w (leNat (s.read (recAt i + 4) 4) - base))
          [(rowAt i, minusInfinity lo), (rowAt i + 4 * hi, minusInfinity (w - hi))]
        marks := (List.range n).filterMap fun i =>
          if s.readPoison bad (recAt i) 8 then some (rowAt i, 4 * w) else none }
    (s.putStored b k errs [out]).tarnIssued b k d wr none
  else s

/-! ### Issue -/

/-- The effect of a route operation at its issue, by its Op (Table 7.2). -/
def State.routeOp (s : State) (b k : Nat) (errs : List CheckErr) (d : Bytes) : State :=
  match dOp d with
  | 1 => s.rankOp b k errs d
  | 2 => s.placeOp b k errs d
  | 3 => s.combineOp b k errs d
  | 4 => s.retireOp b k errs d
  | 5 => s.maskBuildOp b k errs d
  | _ => s.maskApplyOp b k errs d

/-- A route operation at the head of its slot: halts, waits for its cell or the tarn, or issues (R158). -/
def State.routeIssue (s : State) (b : Nat) (errs : List CheckErr) (k : Nat) : State :=
  s.atHead b k 8 (fun _ => true) routeIllegal fun d =>
    if s.unitBusy b .tarn then s
    else
      let q := if dOp d = 2 then
          (if (s.firstFault b k [⟨32, 0, fieldB d 32 6, 8192, false, .pools [b]⟩]).isSome then 0
           else (s.quotas (s.segAddr b k 0 (fieldB d 32 6))).sum)
        else 0
      s.checked b k (routeAccesses b q d) (s.routeOp b k errs d)

/-- What the tarn does with the head of slot (b, k): tarn and route operations share it (R139, R158). -/
def State.weaveIssue (s : State) (b : Nat) (errs : List CheckErr) (k : Nat) : State :=
  if s.headMeets b k (· == 2) fun _ => true then s.tarnIssue b errs k else s.routeIssue b errs k

/-- A tarn or route operation of a class and Op that are admitted, in its turn (R26). -/
def State.weaveStep (s : State) (b k : Nat) (errs : List CheckErr) (cls : Nat) (isOp : Nat → Bool) : State :=
  if s.headMeets b k (· == cls) isOp then s.inTurn b .tarn k (s.weaveIssue b errs) else s

/-! ### Commands -/

/-- SPMM (R140 to R146), and the tarn descriptors whose Op is none of Table 6.5 (R156). -/
def execSpmm (t b k : Nat) (errs : List CheckErr) (s : State) : Host.Outcome State Fault Refusal :=
  s.runAlive t fun u => u.weaveStep b k errs 2 fun op => op == 1 || op == 0 || 6 < op
/-- SCATTER_ADD (R149). -/
def execScatterAdd (t b k : Nat) (errs : List CheckErr) (s : State) : Host.Outcome State Fault Refusal :=
  s.runAlive t fun u => u.weaveStep b k errs 2 (· == 3)
/-- MERGE (R152). -/
def execMerge (t b k : Nat) (errs : List CheckErr) (s : State) : Host.Outcome State Fault Refusal :=
  s.runAlive t fun u => u.weaveStep b k errs 2 (· == 4)
/-- TILE_PACK (R154). -/
def execTilePack (t b k : Nat) (errs : List CheckErr) (s : State) : Host.Outcome State Fault Refusal :=
  s.runAlive t fun u => u.weaveStep b k errs 2 (· == 5)
/-- TILE_UNPACK (R154). -/
def execTileUnpack (t b k : Nat) (errs : List CheckErr) (s : State) : Host.Outcome State Fault Refusal :=
  s.runAlive t fun u => u.weaveStep b k errs 2 (· == 6)
/-- RANK (R161), and the route descriptors whose Op is none of Table 7.2 (R180). -/
def execRank (t b k : Nat) (errs : List CheckErr) (s : State) : Host.Outcome State Fault Refusal :=
  s.runAlive t fun u => u.weaveStep b k errs 8 fun op => op == 1 || op == 0 || 6 < op
/-- PLACE (R162 to R166, R172). -/
def execPlace (t b k : Nat) (errs : List CheckErr) (s : State) : Host.Outcome State Fault Refusal :=
  s.runAlive t fun u => u.weaveStep b k errs 8 (· == 2)
/-- COMBINE (R171). -/
def execCombine (t b k : Nat) (errs : List CheckErr) (s : State) : Host.Outcome State Fault Refusal :=
  s.runAlive t fun u => u.weaveStep b k errs 8 (· == 3)
/-- RETIRE (R173). -/
def execRetire (t b k : Nat) (errs : List CheckErr) (s : State) : Host.Outcome State Fault Refusal :=
  s.runAlive t fun u => u.weaveStep b k errs 8 (· == 4)
/-- MASK_BUILD (R177). -/
def execMaskBuild (t b k : Nat) (errs : List CheckErr) (s : State) : Host.Outcome State Fault Refusal :=
  s.runAlive t fun u => u.weaveStep b k errs 8 (· == 5)
/-- MASK_APPLY (R178). -/
def execMaskApply (t b k : Nat) (errs : List CheckErr) (s : State) : Host.Outcome State Fault Refusal :=
  s.runAlive t fun u => u.weaveStep b k errs 8 (· == 6)

end Sys2Proof.Machine
end

