-- ==== Sys2Proof/Machine/Collect.lean ====
section
/-! DEFINITION. Collectives (spec 12): issue, joining and the weir at the root, START, EXCLUDED, DONE, END and BREAK,
completion records, late contributions and orphan areas, and the data of all-gather, norm, re-shard, dispatch and
return. -/

namespace Sys2Proof.Machine

/-! ### Groups and instances -/

/-- Group `gid` of partition `p`. -/
def State.group (s : State) (p gid : Nat) : Option GroupRec := (s.partition p).groups.find? fun g => g.gid == gid

/-- Change the instance of a partition, group, Seq and step. -/
def State.modInst (s : State) (i : Inst) (f : Inst → Inst) : State :=
  { s with instances := s.instances.map fun (x : Inst) =>
      if x.part == i.part && x.gid == i.gid && x.seq == i.seq && x.step == i.step then f x else x }

/-- Change the member's part of an instance. -/
def State.modMember (s : State) (i : Inst) (f : MemberPart → MemberPart) : State :=
  s.modInst i fun x => { x with member := x.member.map f }

/-- Change the root's part of an instance. -/
def State.modRoot (s : State) (i : Inst) (f : RootPart → RootPart) : State :=
  s.modInst i fun x => { x with root := x.root.map f }

/-- The root's part of an instance stands: it has not ended (R262). -/
def Inst.rootOpen (i : Inst) : Bool := i.root.any fun r => !r.ended

/-- The root of the instance has started it and not ended it. -/
def Inst.rootRuns (i : Inst) : Bool :=
  match i.root with
  | some r => r.started && !r.ended
  | none => false

/-- Drop instances that nothing keeps. -/
def State.sweepInsts (s : State) : State :=
  { s with instances := s.instances.filter fun (x : Inst) => x.member.isSome || x.root.isSome }

/-- The instance of a partition, group and Seq that satisfies a test. -/
def State.findInst (s : State) (p gid seq : Nat) (f : Inst → Bool) : Option Inst :=
  s.instances.find? fun x => x.part == p && x.gid == gid && x.seq == seq && f x

/-- This device is the root of a group's tree. -/
def State.isRoot (s : State) (p : Nat) (g : GroupRec) : Bool :=
  match s.tree p g.tree with
  | some t => t.parent.isNone
  | none => false

/-- The context index under which a message of this device to itself stands in the inbox: no context has it. -/
def selfCtx : Nat := 16384

/-- Deliver a message to this device through its local port. -/
def State.sendSelf (s : State) (p : Nat) (m : Msg) : State :=
  s.toInbox p selfCtx [{ m with src := s.deviceId, dst := s.deviceId }]

/-- Send to a member of partition `p`, which may be this device. The destination's partition has the same number
(assumption 32). -/
def State.sendMember (s : State) (p dev : Nat) (m : Msg) (o : MsgOwner) : State :=
  if dev = s.deviceId then s.sendSelf p m else s.sendTo p dev m o

/-- Send a TC0 message up the group's tree: to the parent, or to this device when it is the root (R262). -/
def State.sendUp (s : State) (p : Nat) (g : GroupRec) (type place : Nat) (rest : Bytes) : State :=
  match s.tree p g.tree with
  | none => s
  | some t =>
    match t.parent with
    | none => s.sendSelf p (tc0 type p place rest)
    | some d => s.sendTo p d (tc0 type t.parentPart place rest) .none

/-- The fields of a reduce-scatter that stay fixed at a member. -/
def State.ringJob (s : State) (i : Inst) (m : MemberPart) (g : GroupRec) : RingJob :=
  { p := i.part, g := g, step := i.step, gid := i.gid, seq := i.seq, x := g.ownRank, js := m.joined
    b := m.basin, k := m.slot, d := m.desc, divisor := max (m.joinedCount + m.lateFolded) 1, bad := badReads m.errs
    late := if m.lateHeld then
        ((s.partition i.part).lates.find? fun l => l.gid == i.gid && l.seq == i.seq && l.heldFrom.isSome).map fun (l : LateStore) =>
          if l.desc.isEmpty then { l with basin := m.basin, slot := m.slot, desc := m.desc } else l
      else none }

/-! ### Illegal fields (R259, R284) -/

/-- The first illegal field of a collective that does not depend on the group. -/
def collIllegal (d : Bytes) : Option Nat :=
  let op := dOp d
  let fc := fieldB d 14 1
  let n := cCount d
  let b31 := fieldB d 31 1
  let rs := op == 1
  let ag := op == 2
  let nm := op == 3
  let sh := op == 4
  let di := op == 5
  let re := op == 6
  let fs := ctlFormat (cCtl d)
  let zero (off len : Nat) : Bool := allZero (sliceB d off len)
  let used (ok : Bool) (off len : Nat) : Bool := ok || zero off len
  firstIllegal
    [(1, 1 ≤ op && op ≤ 6),
     (2, if sh then cCtl d == 0
         else ctlLegal (cCtl d) && (if rs || re then fs ≤ 1 else if nm then fs == 0 else fs == fc)),
     (4, if rs then 1 ≤ n && n ≤ 16777216 && n % 64 == 0
         else if ag then 1 ≤ n && n ≤ 16777216 && n * (fmtD fc).width % 512 == 0
         else if nm then n == 0
         else if sh then 1 ≤ n && n ≤ 65536
         else if di then 1 ≤ n && n ≤ 1048576
         else 1 ≤ n && n ≤ 65536),
     (8, used (!sh) 8 6),
     (14, if sh || nm then fc == 0 else if rs || re then fc ≤ 1 else fc ≤ 0x0D),
     (15, fieldB d 15 1 < 4 && used (!sh) 15 1),
     (16, used (!sh) 16 6),
     (22, fieldB d 22 1 < 4 && used (!sh) 22 1),
     (24, used ((rs && !cWire d) || sh || di || re) 24 6),
     (30, fieldB d 30 1 < 4 && used ((rs && !cWire d) || sh || di || re) 30 1),
     (31, !bit b31 7 && !bit b31 0 && (re || !cDet d) && (rs || (!cMean d && !cWire d && !cPre d)) && !(cWire d && cPre d)),
     (32, used (rs || di || re) 32 6),
     (38, fieldB d 38 1 < 4 && used (rs || di || re) 38 1),
     (39, fieldB d 39 1 == 0),
     (42, fieldB d 42 2 < 4096),
     (44, used (rs || di || re) 44 6),
     (50, fieldB d 50 1 < 4 && used (rs || di || re) 50 1),
     (51, fieldB d 51 1 == 0),
     (52, used re 52 6),
     (58, fieldB d 58 1 < 4 && used re 58 1),
     (59, fieldB d 59 1 < 8 && used re 59 1),
     (60, if di || re then 1 ≤ fieldB d 60 2 && fieldB d 60 2 ≤ 1024 else fieldB d 60 2 == 0),
     (62, if re then 1 ≤ cWidth d && cWidth d ≤ 8192 else cWidth d == 0),
     (70, used re 70 2),
     (72, used (nm || sh) 72 4),
     (76, used nm 76 4),
     (80 + (firstNonZero (sliceB d 80 16)).getD 0, zero 80 16)]

/-- The cases of R284 that depend on the group, in the order of their offsets. -/
def collGroupIllegal (g : GroupRec) (d : Bytes) : Option Nat :=
  let op := dOp d
  let n := cCount d
  firstIllegal
    [(4, !(op == 1 && (2 ^ 31 < g.n * n || (g.algorithm == 1 && n % 128 != 0))) &&
         !(op == 2 && 2 ^ 31 < g.n * (fmtD (fieldB d 14 1)).bytesFor n)),
     (32, !(op == 1 && !g.lateAdd && cAux2 d != 0)),
     (38, !(op == 1 && !g.lateAdd && fieldB d 38 1 != 0))]

/-! ### Accesses (R193, R259, R284) -/

/-- The entries of a transfer table (Table 12.9). What the device does with one that holds an illegal value (Rows 0 or above
16,777,216, RowUnits 0) or a reserved field that is not 0, chapter 12 does not say (R280, R284): the model ignores the
reserved bits and runs the entry as it stands (DESIGN CHOICE, assumption 61). -/
def State.transferEntries (s : State) (b k : Nat) (d : Bytes) : List Bytes :=
  (List.range (cCount d)).map fun i => s.read (s.segAddr b k (cSegAux d) (cAux d) + 32 * i) 32

/-- Hosted experts of this member: (expert, Cap, RecvOff). -/
def GroupRec.hosted (g : GroupRec) : List (Nat × Nat × Nat) :=
  (g.map.filter fun e => e.2.rank == g.ownRank).map fun e => (e.1, e.2.cap, e.2.recvOff)

/-- Receive entries that this member may have to hold: one past the highest. -/
def GroupRec.recvEnd (g : GroupRec) : Nat := g.hosted.foldl (fun acc e => max acc (e.2.2 + g.n * e.2.1)) 0

/-- The accesses that a collective's descriptor fixes, in the order of the naming fields. -/
def State.collAccesses (s : State) (b k : Nat) (g : GroupRec) (held : Bool) (d : Bytes) : List Access :=
  let op := dOp d
  let n := cCount d
  let fs := cFmtSrc d
  let fd := cFmtDst d
  let all := Reach.any
  let rec_ : Access := ⟨64, 0, cRec d, 32, true, all⟩
  if op = 1 then
    [⟨8, cSegSrc d, cSrc d, fs.bytesFor (g.n * n), false, all⟩, ⟨16, cSegDst d, cDst d, fd.bytesFor n, true, all⟩] ++
      (if cWire d then [] else
        [⟨24, cSegAux d, cAux d, g.n * n / 64, false, all⟩, ⟨24, cSegAux d, cAux d, g.n * n / 64, true, all⟩]) ++
      (if g.lateAdd then
        (if held then [⟨32, cSegAux2 d, cAux2 d, fs.bytesFor (g.n * n), false, all⟩] else []) ++
          [⟨32, cSegAux2 d, cAux2 d, fs.bytesFor (g.n * n), true, all⟩]
      else []) ++ [rec_]
  else if op = 2 then
    [⟨8, cSegSrc d, cSrc d, fs.bytesFor n, false, all⟩, ⟨16, cSegDst d, cDst d, g.n * fs.bytesFor n, true, all⟩, rec_]
  else if op = 3 then [⟨8, cSegSrc d, cSrc d, 4, false, all⟩, ⟨16, cSegDst d, cDst d, 16, true, all⟩, rec_]
  else if op = 4 then
    ⟨24, cSegAux d, cAux d, 32 * n, false, all⟩ ::
      ((s.transferEntries b k d).flatMap fun e =>
        rowAccesses 24 (fieldB e 14 1 % 4) (fieldB e 8 6) (64 * fieldB e 28 2) (64 * fieldB e 24 2) (fieldB e 4 4) false all) ++
      [rec_]
  else if op = 5 then
    [⟨8, cSegSrc d, cSrc d, n * cRow d, false, all⟩, ⟨16, cSegDst d, cDst d, g.recvEnd * cRow d, true, all⟩,
     ⟨24, cSegAux d, cAux d, 8192, false, all⟩, ⟨32, cSegAux2 d, cAux2 d, 8 * n, false, all⟩,
     ⟨32, cSegAux2 d, alignUp (cAux2 d + 8 * n) 4096, 8192, false, all⟩,
     ⟨44, cSegAux3 d, cAux3 d, 8 * g.recvEnd, true, all⟩, rec_]
  else
    [⟨8, cSegSrc d, cSrc d, g.recvEnd * cRow d, false, all⟩] ++
      (if cDet d then [] else
        rowAccesses 16 (cSegDst d) (cDst d) (cStride d) (fd.bytesFor (cWidth d)) n false all ++
          rowAccesses 16 (cSegDst d) (cDst d) (cStride d) (fd.bytesFor (cWidth d)) n true all) ++
      [⟨24, cSegAux d, cAux d, 64 * n, false, all⟩] ++
      (if cDet d then [⟨32, cSegAux2 d, cAux2 d, n * cK d * stageBytes (cWidth d) fs, true, all⟩] else []) ++
      [⟨44, cSegAux3 d, cAux3 d, 8 * g.recvEnd, false, all⟩] ++
      (if cDet d then
        [⟨52, cSegAux4 d, cAux4 d, ceilDiv (n * cK d) 8, false, all⟩, ⟨52, cSegAux4 d, cAux4 d, ceilDiv (n * cK d) 8, true, all⟩]
      else []) ++ [rec_]

/-! ### Issue (R260, R262 phase 1) -/

/-- An unused route tag (R165). -/
def unusedTag : Bytes := toLE 4 0xFFFFFFFF ++ zeros 4

/-- The host member of a DISPATCH writes unused tags into the receive entries of its experts (R281). -/
def State.clearTags (s : State) (b k : Nat) (g : GroupRec) (d : Bytes) : State :=
  g.hosted.foldl (fun (s : State) e =>
    (List.range (g.n * e.2.1)).foldl (fun (s : State) j =>
      s.put (s.segAddr b k (cSegAux3 d) (cAux3 d + 8 * (e.2.2 + j))) unusedTag false) s) s

/-- JOIN's bytes after the Place field: rank, LateHeld, step counter (assumption 33). -/
def joinRest (rank : Nat) (held : Bool) (step : Nat) : Bytes :=
  toLE 2 rank ++ toLE 1 (if held then 1 else 0) ++ toLE 1 0 ++ toLE 8 step

/-- A collective at its issue (R260, R284), with the check outcomes that its reads and writes meet (R216). -/
def State.collIssue (errs : List CheckErr) (s : State) (b k : Nat) (d : Bytes) : State :=
  let p := (s.partitionOf b).getD 8
  let gid := cGid d
  let seq := cSeq d
  let mine := s.instances.filter fun (i : Inst) => i.member.isSome
  if 64 ≤ mine.length || mine.any (fun i => i.gid == gid && i.seq == seq) then s
  else
    match s.group p gid with
    | none => s.halt b k .groupUndefined gid 0 0 0
    | some g =>
      match collGroupIllegal g d with
      | some off => s.haltIllegal b k off
      | none =>
        match s.tree p g.tree with
        | none => s.halt b k .treeUndefined g.tree 0 0 0
        | some _ =>
          let held := dOp d == 1 && (s.partition p).lates.any fun l => l.gid == gid && l.seq == seq && l.heldFrom.isSome
          let xs := s.collAccesses b k g held d
          s.checked b k xs <|
            let w := s.writeRanges b k xs
            if s.accessesWait b k xs || !s.countsAllow w then s
            else
              let s := s.touchAccesses b k xs
              let s := (xs.filter fun x => !x.write).foldl (fun (s : State) x => s.noteLostReads (s.segAddr b k x.seg x.off) x.len) s
              let s := s.noteErrs b errs
              let s := if dOp d = 5 then s.clearTags b k g d else s
              let step := (s.partition p).step
              let part : MemberPart := { basin := b, slot := k, flight := s.nextFlight, desc := d, lateHeld := held, errs := errs }
              let s := s.addFlight
                { id := 0, unit := .collective, basin := b, slot := k, setCell := dSetCell d, writes := w, basins := [b]
                  step := step, isPlace := false, lateFault := none }
              let s : State :=
                if (s.findInst p gid seq fun i => i.step == step).isSome then
                  s.modInst { part := p, gid := gid, seq := seq, step := step } fun i => { i with member := some part }
                else { s with instances := s.instances ++ [{ part := p, gid := gid, seq := seq, step := step, member := some part }] }
              (s.advance b k d.length).sendUp p g 0x20 (collPlace gid seq 0) (joinRest g.ownRank held step)

/-- A collective row: its descriptor at the head, illegal in a weight-gradient region (R112). -/
def State.collStep (s : State) (b k : Nat) (errs : List CheckErr) (isOp : Nat → Bool) : State :=
  s.atHead b k 7 isOp (fun d => if (s.slot b k).regionPart = 2 then some 0 else collIllegal d) fun d => s.collIssue errs b k d

/-! ### Completion records (R276) -/

/-- The code of a status (Table 12.8). -/
def CollStatus.code : CollStatus → Nat
  | .done => 0 | .excluded => 1 | .broken => 2 | .stale => 3

/-- SumSq of a member (R274): the exact sum, over D², rounded once; +0 where it holds nothing. -/
def MemberPart.sumSqCode (m : MemberPart) (st : CollStatus) : Nat :=
  if dOp m.desc != 1 || st != .done then 0
  else if m.sumNan then toF32 .nan
  else if m.sumInf then toF32 (.inf false)
  else
    let v : Val := .fin false m.sumSq (-298)
    let n := m.joinedCount + m.lateFolded
    toF32 (if cMean m.desc then v.divNat (n * n) else v)

/-- The 32 bytes of a completion record (Table 12.8). -/
def MemberPart.record (m : MemberPart) (i : Inst) (st : CollStatus) (adopted : Bool) : Bytes :=
  let flag (b : Bool) (n : Nat) : Nat := if b then n else 0
  let flags := flag m.raised 1 + flag m.nonfinite 2 + flag m.poisonOut 4 +
    flag (m.started && dOp m.desc == 1 && cPre m.desc) 8 + flag m.historyEmpty 16 + flag adopted 32
  toLE 1 st.code ++ toLE 1 flags ++ toLE 2 m.joinedCount ++ toLE 2 m.lateFolded ++
    toLE 2 (if dOp m.desc = 1 then m.joinedCount + m.lateFolded else 0) ++ toLE 4 (m.sumSqCode st) ++ toLE 2 i.seq ++ toLE 2 0 ++
    toLE 8 (if m.started then m.startStep else i.step) ++ toLE 4 m.raisedBlocks ++ toLE 4 m.missing

/-- A chunk that failed its check twice on the way out of a unit (R220). -/
def CheckErr.failsOut : CheckErr → Bool
  | .xfer _ failed => failed
  | _ => false

/-- The member completes with a status: chunks that failed on their way stay marked (R220), the record is written, marked
when an output is, and SetCell is set (R260, R276, R278). -/
def State.completeMember (s : State) (i : Inst) (m : MemberPart) (st : CollStatus) : State :=
  let flight := s.flights.find? fun f => f.id == m.flight
  let s := s.markFailedChunks m.errs ((flight.map (·.writes)).getD [])
  let m := { m with poisonOut := m.poisonOut || m.errs.any CheckErr.failsOut }
  let adopted := s.orphans.any fun o => o.part == i.part && o.gid == i.gid && o.seq == i.seq && o.step == i.step
  let a := s.segAddr m.basin m.slot 0 (cRec m.desc)
  let s := s.put a (m.record i st adopted) false
  let s := if m.poisonOut then (s.markRange a 32).bumpSlot m.basin m.slot cPoisonMarked else s
  let s := (s.modInst i fun x => { x with member := none }).sweepInsts
  match flight with
  | some f => s.completeFlight f
  | none => s

/-- The orphan areas of an instance are forgotten. -/
def State.dropOrphans (s : State) (i : Inst) : State :=
  { s with orphans := s.orphans.filter fun (o : Orphan) =>
      !(o.part == i.part && o.gid == i.gid && o.seq == i.seq && o.step == i.step) }

/-- A held contribution of the instance that was being folded in is held again (R265). -/
def State.unfold (s : State) (i : Inst) : State :=
  s.modPartition i.part fun (x : Partition) =>
    { x with lates := x.lates.map fun l => if l.gid == i.gid && l.seq == i.seq then { l with foldedIn := false } else l }

/-- A range whose content a break leaves undefined takes free values; its markings stay (R265, assumption 12). -/
def State.scramble (s : State) (a n : Nat) : State :=
  let (bs, s) := s.freeBytes a n
  match placeOf a with
  | .cxl p _ => if (s.port p).state == .lost then s else s.writeBytes a bs
  | _ => s.writeBytes a bs

/-- After a break Dst and the orphan areas are undefined (R265): of a member that had started, all that it was to write there. -/
def State.scrambleOutputs (s : State) (i : Inst) (m : MemberPart) (g : GroupRec) : State :=
  if m.started then
    let dst := (s.collAccesses m.basin m.slot g false m.desc).filter fun x => x.write && x.field == 16
    let s := dst.foldl (fun (s : State) x => s.scramble (s.segAddr m.basin m.slot x.seg x.off) x.len) s
    (s.orphans.filter fun o => o.part == i.part && o.gid == i.gid && o.seq == i.seq && o.step == i.step && !o.dropped).foldl
      (fun (s : State) o => s.scramble o.addr o.length) s
  else s

/-- The member's part of an instance breaks (R265): status BROKEN, counted. -/
def State.breakMember (s : State) (i : Inst) : State :=
  match i.member with
  | none => s
  | some m =>
    let s := match s.group i.part i.gid with
      | some g => s.scrambleOutputs i m g
      | none => s
    (((s.unfold i).bumpBasin m.basin cCollBroken).completeMember i m .broken).dropOrphans i

/-- The root breaks an instance: BREAK goes to every member (R265), and nothing of it is kept. -/
def State.rootBreak (s : State) (i : Inst) : State :=
  match s.group i.part i.gid with
  | none => s
  | some g =>
    let s := g.members.foldl (fun (s : State) d =>
      s.sendMember i.part d (tc0 0x25 i.part (collPlace i.gid i.seq 0) []) .none) s
    (s.modInst i fun x => { x with root := none }).sweepInsts

/-- A member detects a loss, or has to give up: it sends BREAK up the tree and completes BROKEN (R265). -/
def State.memberGivesUp (s : State) (i : Inst) : State :=
  match s.group i.part i.gid with
  | none => s.breakMember i
  | some g =>
    if s.isRoot i.part g then
      match s.findInst i.part i.gid i.seq Inst.rootOpen with
      | some x => (s.rootBreak x).breakMember i
      | none => s.breakMember i
    else (s.sendUp i.part g 0x25 (collPlace i.gid i.seq 0) []).breakMember i

/-! ### The root (R263) -/

/-- Member `dev` counts as lost at this device (R263). -/
def State.memberLost (s : State) (p : Nat) (g : GroupRec) (dev : Nat) : Bool :=
  dev != s.deviceId && (g.lost.contains dev ||
    match s.ctxFor p dev with
    | some c => c.lost
    | none => false)

/-- The weir of an instance has closed (R263). -/
def State.weirClosed (s : State) (i : Inst) (r : RootPart) : Bool :=
  let x := s.partition i.part
  r.weir != 0 && (if r.weirFromStill then x.openStill.getD x.openedAt else r.firstJoin) + 1000 * r.weir ≤ s.time

/-- Ascending order of ranks. -/
def sortRanks (n : Nat) (rs : List Nat) : List Nat := (List.range n).filter fun r => rs.contains r

/-- Cut a list into pieces of `k`. -/
def piecesOf {α : Type} (k : Nat) : Nat → List α → List (List α)
  | 0, _ => []
  | _ + 1, [] => []
  | n + 1, xs => xs.take k :: piecesOf k n (xs.drop k)

/-- The START messages of an instance: joined count, LateFolded, up to 24 absent ranks each (assumption 33). -/
def startRests (joined late : Nat) (absent : List Nat) : List Bytes :=
  let parts := if absent.isEmpty then [[]] else piecesOf 24 (absent.length + 1) absent
  parts.map fun x => toLE 2 joined ++ toLE 2 late ++ x.flatMap (toLE 2)

/-- The basin that counts WEIR_CLOSED (R263). -/
def State.weirBasin (s : State) (i : Inst) : Option Nat :=
  match i.member with
  | some m => some m.basin
  | none => (List.range 8).find? fun b => s.holdsBasin i.part b && (s.basin b).state == .active

/-- The root starts an instance if a condition of R263 holds; one of whose joined members is lost already breaks (R265). -/
def State.rootCheck (s : State) (i : Inst) : State :=
  match s.group i.part i.gid, i.root with
  | some g, some r =>
    let js := sortRanks g.n (r.joins.map (·.1))
    let absent := (List.range g.n).filter fun x => !js.contains x
    let allIn := absent.all fun x => s.memberLost i.part g (g.members.getD x 0xFFFF)
    if r.started || !(allIn || (s.weirClosed i r && r.minJoin ≤ js.length)) then s
    else
      let late := (r.joins.filter (·.2)).length
      let s := s.modRoot i fun r => { r with started := true, joined := js }
      let s := if absent.isEmpty then s else
        match s.weirBasin i with
        | some b => s.bumpBasin b cWeirClosed
        | none => s
      let dev (x : Nat) : Nat := g.members.getD x 0xFFFF
      let s := js.foldl (fun (s : State) x =>
        (startRests js.length late absent).foldl (fun (s : State) rest =>
          s.sendMember i.part (dev x) (tc0 0x21 i.part (collPlace i.gid i.seq 0) rest) .none) s) s
      if js.any fun x => s.memberLost i.part g (dev x) then s.rootBreak i else s
  | _, _ => s

/-- EXCLUDED's bytes after the Place field: rank of the excluded member (Table 12.6). -/
def excludedRest (rank : Nat) : Bytes := toLE 2 rank

/-- A JOIN that comes after START: EXCLUDED to its sender and to the adopter of its shard (R262, R268). Where no adopter
exists, the root answers in its place that the shard was dropped (assumption 34). -/
def State.excludeLate (s : State) (i : Inst) (g : GroupRec) (r : RootPart) (rank : Nat) : State :=
  let dev (x : Nat) : Nat := g.members.getD x 0xFFFF
  let adopter := g.holder r.joined (g.shardOf rank)
  let m := tc0 0x22 i.part (collPlace i.gid i.seq 0) (excludedRest rank)
  let s := s.sendMember i.part (dev rank) m .none
  match adopter with
  | some a => s.sendMember i.part (dev a) m .none
  | none => s.sendMember i.part (dev rank) (dataMsg 1 0x2B i.part (collPlace i.gid i.seq 1) [] 0) .none

/-- A JOIN at the root (R262, R263). -/
def State.rootJoin (s : State) (p : Nat) (g : GroupRec) (seq step rank : Nat) (held : Bool) : State :=
  let key : Inst := { part := p, gid := g.gid, seq := seq, step := step }
  let fresh : RootPart :=
    { firstJoin := s.time, weir := g.weir, weirFromStill := g.weirFromStill, minJoin := g.minJoin }
  let s : State :=
    match s.findInst p g.gid seq fun i => i.step == step with
    | none => { s with instances := s.instances ++ [{ key with root := some fresh }] }
    | some i => if i.root.isNone then s.modInst key fun x => { x with root := some fresh } else s
  match (s.findInst p g.gid seq fun i => i.step == step).bind fun i => i.root.map fun r => (i, r) with
  | none => s
  | some (i, r) =>
    if r.joins.any fun j => j.1 == rank then s
    else if r.started then s.excludeLate i g r rank
    else
      let s := s.modRoot key fun r => { r with joins := r.joins ++ [(rank, held)] }
      match s.findInst p g.gid seq fun i => i.step == step with
      | some i => s.rootCheck i
      | none => s

/-- Forward a message that climbs the tree to the parent. -/
def State.climb (s : State) (p : Nat) (g : GroupRec) (m : Msg) : State :=
  s.sendUp p g m.type (m.place44) (m.payload.drop 6)

/-- JOIN arrives (R262): it climbs on, or the root takes it; without a group record it is answered with BREAK. -/
def State.onJoin (s : State) (p _ctx : Nat) (m : Msg) : State :=
  match s.group p m.gid with
  | none => s.sendMember p m.src (tc0 0x25 p (collPlace m.gid m.seqNo 0) []) .none
  | some g =>
    if s.isRoot p g then s.rootJoin p g m.seqNo (fieldB m.payload 10 8) (fieldB m.payload 6 2) (bit (fieldB m.payload 8 1) 0)
    else
      (s.climb p g m).modPartition p fun (x : Partition) => { x with climbed := x.climbed ++ [(m.gid, m.seqNo, m.src)] }

/-- The JOINs that climbed through this device for an instance are settled: the root holds its record (R262). -/
def State.settleJoins (s : State) (p gid seq : Nat) : State :=
  s.modPartition p fun (x : Partition) => { x with climbed := x.climbed.filter fun c => !(c.1 == gid && c.2.1 == seq) }

/-- A BREAK from above goes on to the children whose JOINs climbed through this device: with it the root answers a JOIN for
a group of which it holds no record (R262, assumption 34). -/
def State.breakDown (s : State) (p : Nat) (g : GroupRec) (seq : Nat) : State :=
  match s.tree p g.tree with
  | none => s
  | some t =>
    let down := (t.children.zip t.childParts).filter fun c => (s.partition p).climbed.contains (g.gid, seq, c.1)
    (down.foldl (fun (s : State) c => s.sendTo p c.1 (tc0 0x25 c.2 (collPlace g.gid seq 0) []) .none) s).settleJoins p g.gid seq

/-- WEIR_CLOSE: the deadline of an instance expires at the root (R263). -/
def State.weirClose (s : State) (p gid seq : Nat) : State :=
  match s.findInst p gid seq fun i => match i.root with | some r => !r.started && s.weirClosed i r | none => false with
  | some i => s.rootCheck i
  | none => s

/-- DONE arrives: at the root it is noted, and with the last one END goes to every joined member (R262). -/
def State.onDone (s : State) (p _ctx : Nat) (m : Msg) : State :=
  match s.group p m.gid with
  | none => s
  | some g =>
    if !s.isRoot p g then s.climb p g m
    else
      match s.findInst p m.gid m.seqNo fun i => i.rootRuns with
      | none => s
      | some i =>
        let rank := fieldB m.payload 6 2
        let dones := ((i.root.map (·.dones)).getD []).erase rank ++ [rank]
        let js := (i.root.map (·.joined)).getD []
        let s := s.modRoot i fun r => { r with dones := dones }
        if js.all fun x => dones.contains x then
          js.foldl (fun (s : State) x =>
            s.sendMember p (g.members.getD x 0xFFFF) (tc0 0x24 p (collPlace m.gid m.seqNo 0) []) .none)
            (s.modRoot i fun r => { r with ended := true })
        else s

/-- The own part of an instance breaks, where there is one. -/
def State.breakOwn (s : State) (p gid seq : Nat) : State :=
  match s.findInst p gid seq fun i => i.member.isSome with
  | some i => s.breakMember i
  | none => s

/-- BREAK arrives (R265): one of another member climbs to the root, which forwards it to every member, started or not (R323);
the root's breaks this member's part, and goes on down to JOINs that it answers (R262). -/
def State.onBreak (s : State) (p _ctx : Nat) (m : Msg) : State :=
  match s.group p m.gid with
  | none => s
  | some g =>
    let below := match s.tree p g.tree with
      | some t => t.children.contains m.src
      | none => false
    if m.src = s.deviceId then s.breakOwn p m.gid m.seqNo
    else if s.isRoot p g then
      match s.findInst p m.gid m.seqNo Inst.rootOpen with
      | some i => s.rootBreak i
      | none => s
    else if below then s.climb p g m
    else (s.breakDown p g m.seqNo).breakOwn p m.gid m.seqNo

/-! ### Loss of a member (R263, R265, R268) -/

/-- The context of partition `p` for a device is LOST (R268). -/
def State.ctxLost (s : State) (p dev : Nat) : Bool := (s.ctxFor p dev).any (·.lost)

/-- Device `dev` is lost for partition `p`: instances that wait for it start without it, those it joined break. -/
def State.collLost (s : State) (p dev : Nat) : State :=
  (s.instances.filter fun (i : Inst) => i.part == p).foldl (fun (s : State) i =>
    match s.group p i.gid with
    | none => s
    | some g =>
      let devOf (x : Nat) : Nat := g.members.getD x 0xFFFF
      let s := match i.root with
        | some r =>
          if !r.started then s.rootCheck i
          else if !r.ended && r.joined.any (fun x => devOf x == dev) then s.rootBreak i
          else s
        | none => s
      match i.member with
      | none => s
      | some m =>
        if m.started then
          if m.root == dev || m.joined.any (fun x => devOf x == dev) then s.memberGivesUp i else s
        else if m.excluded then
          if m.adopter.any (fun x => devOf x == dev) && s.ctxLost p dev then s.completeMember i { m with missing := 0 } .broken
          else s
        else
          let parentLost := match s.tree p g.tree with
            | some t => t.parent == some dev
            | none => false
          if parentLost then s.breakMember i else s) s

/-! ### All-gather (R279) -/

/-- 64-byte units of a shard. -/
def RingJob.units (q : RingJob) : Nat := max ((cFmtSrc q.d).bytesFor (cCount q.d) / 64) 1

/-- Unit `u` goes against rank order. -/
def RingJob.unitRev (q : RingJob) (u : Nat) : Bool := q.g.algorithm == 1 && q.units ≤ 2 * (u % q.units)

/-- Where a unit goes next from this member, which obtained it at outer level `level` (`steps` for its own), or from
its ring (`none`) (R279). -/
def RingJob.spread (q : RingJob) (u : Nat) (level : Option Nat) : List Nat :=
  let shard := u / q.units
  let rev := q.unitRev u
  let src := q.g.innerHolder q.js q.x shard
  let next := q.g.nextOf q.js q.x rev
  let ring := if next = src || next = q.x then [] else [next]
  match level with
  | none => ring
  | some l =>
    ring ++ (List.range l).reverse.filterMap fun t =>
      let other := (q.x / q.g.a).xor (q.g.b / 2 ^ (t + 1))
      let r := q.g.ring q.js (other * q.g.a)
      if r.isEmpty then none else some (holderIn r (other * q.g.a + shard / q.g.b))

/-- A unit of the shard whose owner stands in inner group `from_` reaches inner group `to` (R279). -/
def GroupRec.reaches (g : GroupRec) (js : List Nat) (from_ dest : Nat) : Bool :=
  ((List.range g.steps).reverse.foldl (fun (acc : Nat × Bool) t =>
    let half := g.b / 2 ^ (t + 1)
    if acc.1 / half % 2 = dest / half % 2 then acc
    else
      let cur := acc.1.xor half
      (cur, acc.2 && !(g.ring js (cur * g.a)).isEmpty)) (from_, true)).2

/-- Units that this member will receive. -/
def RingJob.unitsDue (q : RingJob) : Nat :=
  q.units * (q.js.filter fun y => y != q.x && (!q.g.hier || q.g.reaches q.js (y / q.g.a) (q.x / q.g.a))).length

/-- Send units: (destination rank, unit, bytes, poisoned) in messages of up to 64 units. -/
def State.sendUnits (s : State) (q : RingJob) (xs : List (Nat × Nat × Bytes × Bool)) : State :=
  (runsOf 64 (xs.length + 1) xs).foldl (fun (s : State) x =>
    s.sendTo q.p (q.dev x.1) (dataMsg 1 0x2B q.p (collPlace q.gid q.seq x.2.1) (x.2.2.flatMap (·.1)) (maskOf 64 (x.2.2.map (·.2))))
      (.instance_ q.p q.gid q.seq)) s

/-- Units of one run, (unit, bytes, poisoned), are written to Dst: together, so that a clean run clears the marking units
that it covers (R225). -/
def State.placeUnits (s : State) (q : RingJob) (us : List (Nat × Bytes × Bool)) : State :=
  let base := s.segAddr q.b q.k (cSegDst q.d) (cDst q.d)
  match us with
  | [] => s
  | u :: _ =>
    (s.put (base + 64 * u.1) (us.flatMap (·.2.1)) false).markRanges
      ((us.filter (·.2.2)).map fun x => (base + 64 * x.1, 64))

/-- The member of an all-gather starts: its own shard is placed and sent. -/
def State.gatherStart (s : State) (q : RingJob) (i : Inst) : State :=
  let own := q.g.shardOf q.x
  let n := q.units
  let src := s.segAddr q.b q.k (cSegSrc q.d) (cSrc q.d)
  let us := (List.range n).map fun i => (own * n + i, s.read (src + 64 * i) 64, s.readPoison q.bad (src + 64 * i) 64)
  let s := s.placeUnits q us
  let s := s.modMember i fun x => { x with poisonOut := x.poisonOut || us.any (·.2.2) }
  let dests := (us.flatMap fun u => (q.spread u.1 (some q.g.steps)).map fun t => (t, u.1, u.2.1, u.2.2))
  let targets := (dests.map (·.1)).eraseDups
  targets.foldl (fun (s : State) t => s.sendUnits q (dests.filter fun x => x.1 == t)) s

/-- Units of an all-gather arrive: they are placed and sent on. -/
def State.gatherUnits (s : State) (q : RingJob) (i : Inst) (m : Msg) : State :=
  let n := m.payload.length / 64
  let from_ := (q.g.members.findIdx? fun d => d == m.src).getD q.x
  let level := if !q.g.hier || from_ / q.g.a = q.x / q.g.a then none
    else some (q.g.steps - 1 - ((from_ / q.g.a).xor (q.x / q.g.a)).log2)
  let us := ((List.range n).map fun j => (m.item + j, sliceB m.payload (64 * j) 64, m.unitPoisoned (j / 4))).filter fun u =>
    u.1 < q.g.n * q.units
  let s := s.placeUnits q us
  let s := s.modMember i fun x => { x with received := x.received + us.length, poisonOut := x.poisonOut || us.any (·.2.2) }
  let dests := (us.flatMap fun u => (q.spread u.1 level).map fun t => (t, u.1, u.2.1, u.2.2))
  ((dests.map (·.1)).eraseDups).foldl (fun (s : State) t => s.sendUnits q (dests.filter fun x => x.1 == t)) s

/-! ### Re-shard (R280) -/

/-- Send the rows of the transfer table. -/
def State.reshardStart (s : State) (q : RingJob) : State :=
  (s.transferEntries q.b q.k q.d).foldl (fun (s : State) e =>
    let peer := fieldB e 0 2
    let len := 64 * fieldB e 24 2
    if !q.js.contains peer then s
    else
      (List.range (fieldB e 4 4)).foldl (fun (s : State) r =>
        let src := s.segAddr q.b q.k (fieldB e 14 1 % 4) (fieldB e 8 6) + r * 64 * fieldB e 28 2
        let dst := fieldB e 16 6 + r * 64 * fieldB e 30 2
        (List.range (ceilDiv len 4032)).foldl (fun (s : State) c =>
          let n := min 4032 (len - 4032 * c)
          let a := src + 4032 * c
          let mask := (List.range (ceilDiv (n + 8) 256)).foldl (fun acc j =>
            let lo := max (256 * j) 8 - 8
            if s.readPoison q.bad (a + lo) (min (256 * j + 248) n - lo) then acc ||| 2 ^ j else acc) 0
          s.sendMember q.p (q.dev peer) (dataMsg 1 0x2B q.p (collPlace q.gid q.seq 0)
            (toLE 6 (dst + 4032 * c) ++ toLE 1 (fieldB e 22 1 % 4) ++ toLE 1 0 ++ s.read a n) mask)
            (.instance_ q.p q.gid q.seq)) s) s) s

/-- Bytes of a re-shard arrive: placed within the segment bound, otherwise discarded and counted. -/
def State.reshardBytes (s : State) (q : RingJob) (i : Inst) (m : Msg) : State :=
  let body := m.payload.drop 8
  let x : Access := ⟨0, fieldB m.payload 6 1 % 4, fieldB m.payload 0 6, body.length, true, .any⟩
  match s.accessCause q.b q.k x with
  | some _ => s.bumpBasin q.b cRecvBound
  | none =>
    let a := s.segAddr q.b q.k x.seg x.off
    let s := s.put a body false
    let s := (List.range (ceilDiv m.payload.length 256)).foldl (fun (s : State) j =>
      if m.unitPoisoned j then
        let lo := max (256 * j) 8 - 8
        s.markRange (a + lo) (min (256 * j + 248) body.length - lo)
      else s) s
    s.modMember i fun y => { y with received := y.received + body.length / 64, poisonOut := y.poisonOut || m.anyPoison }

/-! ### Norm (R275) -/

/-- A member of a NORM sends its value to the root. -/
def State.normStart (s : State) (q : RingJob) (root : Nat) : State :=
  let a := s.segAddr q.b q.k (cSegSrc q.d) (cSrc q.d)
  s.sendMember q.p root (dataMsg 1 0x2A q.p (collPlace q.gid q.seq 0) (s.read a 4) (if s.readPoison q.bad a 4 then 1 else 0))
    (.instance_ q.p q.gid q.seq)

/-- The norm record of S (R275). -/
def normRecord (d : Bytes) (sCode joined : Nat) : Bytes :=
  let norm := rn32 (sqrtVal (f32 sCode))
  let q := rn32 (divVal (f32 (fieldB d 72 4)) (rn32 (Val.add norm (f32 (fieldB d 76 4)))))
  let c := if q.isNaN then Val.nan else if Val.lt q Val.one then q else Val.one
  toLE 4 sCode ++ toLE 4 (toF32 norm) ++ toLE 4 (toF32 c) ++ toLE 4 joined

/-- A value of a NORM arrives: a member's at the root, which sends S with the last one, or S at a member. -/
def State.onNormValue (s : State) (i : Inst) (g : GroupRec) (msg : Msg) : State :=
  let v := fieldB msg.payload 0 4
  let collecting := match i.root with
    | some r => r.started && r.norms.length < r.joined.length
    | none => false
  if collecting then
    let rank := (g.members.findIdx? fun d => d == msg.src).getD 0
    let norms := ((i.root.map (·.norms)).getD []) ++ [(rank, v, msg.anyPoison)]
    let js := (i.root.map (·.joined)).getD []
    let s := s.modRoot i fun r => { r with norms := norms }
    if norms.length < js.length then s
    else
      let sum := toF32 (Val.sum (norms.map fun x => f32 x.2.1))
      let bad := norms.any fun x => x.2.2
      js.foldl (fun (s : State) x =>
        s.sendMember i.part (g.members.getD x 0xFFFF)
          (dataMsg 1 0x2A i.part (collPlace i.gid i.seq 0) (toLE 4 sum) (if bad then 1 else 0)) .none) s
  else
    match i.member with
    | none => s
    | some m =>
      let a := s.segAddr m.basin m.slot (cSegDst m.desc) (cDst m.desc)
      let s := s.put a (normRecord m.desc v m.joinedCount) msg.anyPoison
      s.modMember i fun y => { y with normValue := some (v, msg.anyPoison), poisonOut := y.poisonOut || msg.anyPoison }

/-! ### Expert dispatch and return (R281, R282) -/

/-- Pieces in which a row of `n` bytes travels behind its tag (assumption 35): one message where it fits. -/
def rowPieces (n : Nat) : Nat := if n ≤ 4088 then 1 else ceilDiv n 4032

/-- Piece `c` of a row: offset and length. -/
def rowPiece (n c : Nat) : Nat × Nat := if n ≤ 4088 then (0, n) else (4032 * c, min 4032 (n - 4032 * c))

/-- A tag with the number of the piece in the bits above its Rank. -/
def pieceTag (tag : Bytes) (c : Nat) : Bytes := tag.take 4 ++ toLE 1 (fieldB tag 4 1 % 8 + 8 * c) ++ tag.drop 5

/-- The tag without the piece number. -/
def wholeTag (tag : Bytes) : Bytes := tag.take 4 ++ toLE 1 (fieldB tag 4 1 % 8) ++ (tag.drop 5).take 3

/-- Send a tagged row of `n` bytes at device address `a`. -/
def State.sendRow (s : State) (q : RingJob) (type rank item : Nat) (tag : Bytes) (tagBad : Bool) (a n : Nat) : State :=
  (List.range (rowPieces n)).foldl (fun (s : State) c =>
    let (off, len) := rowPiece n c
    let mask := (List.range (ceilDiv (len + 8) 256)).foldl (fun acc j =>
      let lo := max (256 * j) 8 - 8
      if (j = 0 && tagBad) || s.readPoison q.bad (a + off + lo) (min (256 * j + 248) len - lo) then acc ||| 2 ^ j else acc) 0
    s.sendMember q.p (q.dev rank) (dataMsg 2 type q.p (collPlace q.gid q.seq item) (pieceTag tag c ++ s.read (a + off) len) mask)
      (.instance_ q.p q.gid q.seq)) s

/-- A member of a DISPATCH sends its placed rows (R281). -/
def State.dispatchStart (s : State) (q : RingJob) (i : Inst) : State :=
  let quota := s.quotas (s.segAddr q.b q.k (cSegAux q.d) (cAux q.d))
  let tagOff := s.segAddr q.b q.k (cSegAux2 q.d) (cAux2 q.d)
  let fillAt := s.segAddr q.b q.k (cSegAux2 q.d) (alignUp (cAux2 q.d + 8 * quota.sum) 4096)
  let src := s.segAddr q.b q.k (cSegSrc q.d) (cSrc q.d)
  (regionTable 0 0 quota).foldl (fun (s : State) x =>
    let fill := fieldB (s.read (fillAt + 2 * x.1) 2) 0 2
    let overflow (n : Nat) (s : State) : State :=
      (s.bumpBasin q.b cDispatchOver n).modMember i fun m => { m with missing := m.missing + n }
    match (q.g.map.find? fun e => e.1 == x.1).map (·.2) with
    | none => overflow fill s
    | some e =>
      let s := (List.range (min fill e.cap)).foldl (fun (s : State) j =>
        let entry := x.2.2 + j
        if q.js.contains e.rank then
          s.sendRow q 0x2C e.rank (e.recvOff + q.x * e.cap + j) (s.read (tagOff + 8 * entry) 8)
            (s.readPoison q.bad (tagOff + 8 * entry) 8) (src + entry * cRow q.d) (cRow q.d)
        else s) s
      overflow (fill - e.cap) s) s

/-- A member of a RETURN sends the results of its hosted entries (R282). -/
def State.returnStart (s : State) (q : RingJob) : State :=
  let src := s.segAddr q.b q.k (cSegSrc q.d) (cSrc q.d)
  let tags := s.segAddr q.b q.k (cSegAux3 q.d) (cAux3 q.d)
  q.g.hosted.foldl (fun (s : State) e =>
    (List.range (q.g.n * e.2.1)).foldl (fun (s : State) j =>
      let entry := e.2.2 + j
      let tag := s.read (tags + 8 * entry) 8
      if fieldB tag 0 4 = 0xFFFFFFFF || !q.js.contains (j / max e.2.1 1) then s
      else s.sendRow q 0x2D (j / max e.2.1 1) 0 tag (s.readPoison q.bad (tags + 8 * entry) 8) (src + entry * cRow q.d) (cRow q.d)) s) s

/-- The pieces of a tagged row, in order: its bytes, and the poisoned parts (offset, length); and whether the tag's unit
is poisoned. -/
def joinPieces (n : Nat) (ms : List Msg) : Bytes × List (Nat × Nat) × Bool :=
  let parts := (List.range (rowPieces n)).filterMap fun c => (ms.find? fun m => fieldB m.payload 4 1 / 8 == c).map fun m => (c, m)
  (parts.flatMap (fun x => x.2.payload.drop 8),
   parts.flatMap fun x =>
     let (off, len) := rowPiece n x.1
     (List.range 16).filterMap fun j =>
       let lo := max (256 * j) 8 - 8
       if x.2.unitPoisoned j && lo < len then some (off + lo, min (256 * j + 248) len - lo) else none,
   parts.any fun x => x.2.unitPoisoned 0)

/-- A dispatched row has arrived at its host: the row and its tag are written (R281). -/
def State.dispatchRow (s : State) (q : RingJob) (i : Inst) (ms : List Msg) : State :=
  match ms with
  | [] => s
  | m :: _ =>
    let n := cRow q.d
    let (row, bad, tagBad) := joinPieces n ms
    let xs : List Access := [⟨16, cSegDst q.d, cDst q.d + m.item * n, n, true, .any⟩, ⟨44, cSegAux3 q.d, cAux3 q.d + 8 * m.item, 8, true, .any⟩]
    if xs.any fun x => (s.accessCause q.b q.k x).isSome then s.bumpBasin q.b cRecvBound
    else
      let a := s.segAddr q.b q.k (cSegDst q.d) (cDst q.d + m.item * n)
      let s := (s.put a (sliceB row 0 n) false).markRanges (bad.map fun r => (a + r.1, r.2))
      let s := s.put (s.segAddr q.b q.k (cSegAux3 q.d) (cAux3 q.d + 8 * m.item)) (wholeTag (m.payload.take 8)) tagBad
      s.modMember i fun y => { y with received := y.received + 1, poisonOut := y.poisonOut || !bad.isEmpty || tagBad }

/-- A returning row has arrived: it is added, staged or discarded (R169, R170, R174, R175, R227, R282). A Token that is not
one of the RETURN's Count has no result entry: the row counts as one whose choice was dropped (assumption 35). -/
def State.returnRow (s : State) (q : RingJob) (i : Inst) (flight : Nat) (ms : List Msg) : State :=
  match ms with
  | [] => s
  | m :: _ =>
    let n := cRow q.d
    let (row, bad, tagBad) := joinPieces n ms
    let tag := m.payload
    let token := fieldB tag 0 4
    let rank := fieldB tag 4 1 % 8
    let home := fieldB tag 5 1 % 8
    let fs := cFmtSrc q.d
    let fd := cFmtDst q.d
    let w := cWidth q.d
    let s := s.modMember i fun y => { y with received := y.received + 1 }
    if tagBad then
      let (e, s) := s.freeNat
      let s := s.bumpSlot q.b q.k cPoisonUnlocated
      { s with flights := s.flights.map fun (f : Flight) =>
          if f.id == flight && f.lateFault.isNone then
            { f with lateFault := some { code := 6, detail0 := e % 2 ^ 32, detail1 := 0, detail2 := 0, detail3 := 0, position := 0 } }
          else f }
    else if !s.holdsBasin q.p home then s.bumpBasin q.b cLateDiscard
    else if !s.outstanding home (fieldB tag 6 2) then s.bumpBasin home cLateDiscard
    else if cCount q.d ≤ token then s.bumpBasin home cRouteAbsent
    else if cDet q.d then
      let at_ := token * cK q.d + rank
      let sb := stageBytes w fs
      let a := s.segAddr q.b q.k (cSegAux2 q.d) (cAux2 q.d + at_ * sb)
      let pm := s.segAddr q.b q.k (cSegAux4 q.d) (cAux4 q.d + at_ / 8)
      if cK q.d ≤ rank then s.bumpBasin home cRouteAbsent
      else
        let s := s.put a (sliceB row 0 (fs.bytesFor w)) (!bad.isEmpty)
        let s := s.put pm [s.readByte pm ||| (1#8 <<< (at_ % 8))] (s.poisoned pm 1)
        s.modMember i fun y => { y with poisonOut := y.poisonOut || !bad.isEmpty }
    else
      let at_ := s.segAddr q.b q.k (cSegAux q.d) (cAux q.d + 64 * token + 8 * rank)
      let e := s.read at_ 8
      if fieldB e 0 2 = 0xFFFF || cK q.d ≤ rank then s.bumpBasin home cRouteAbsent
      else
        let a := s.segAddr q.b q.k (cSegDst q.d) (cDst q.d + token * cStride q.d)
        let p := !bad.isEmpty || s.readPoison q.bad at_ 8
        let s := s.addRow q.bad fd fs (f32 (fieldB e 4 4)) a (unpackCodes fs.width w row) p
        s.modMember i fun y => { y with poisonOut := y.poisonOut || p }

/-! ### START (R262, R267, R268) -/

/-- The orphan areas of the shards that this member adopts (R268); those of the same shards in an earlier step are
forgotten, which their owners have asked for before. -/
def State.adopt (s : State) (q : RingJob) (i : Inst) : State :=
  let size := (cFmtDst q.d).bytesFor (cCount q.d)
  let shards := (List.range q.g.n).filter fun sh => q.g.holder q.js sh == some q.x && sh != q.g.shardOf q.x
  let s : State := { s with orphans := s.orphans.filter fun (o : Orphan) =>
      !(o.part == q.p && o.gid == q.gid && o.seq == q.seq && shards.contains o.shard) }
  shards.foldl (fun (s : State) (sh : Nat) =>
    let k : Int := ((sh : Int) - (q.x : Int)) % (q.g.n : Int) - 1
    let off : Int := (cAux3 q.d : Int) + k * size
    let acc : Access := ⟨44, cSegAux3 q.d, off.toNat, size, true, .any⟩
    let dropped := off < 0 || (s.accessCause q.b q.k acc).isSome
    let o : Orphan :=
      { part := q.p, gid := q.gid, seq := q.seq, step := i.step, basin := q.b, slot := q.k, shard := sh
        owner := q.g.ownerOf sh, ownerDev := q.dev (q.g.ownerOf sh), addr := s.segAddr q.b q.k (cSegAux3 q.d) off.toNat
        length := size, dropped := dropped }
    let s : State := { s with orphans := s.orphans ++ [o] }
    if dropped then
      (s.bumpBasin q.b cRecvBound).modMember i fun m => { m with missing := m.missing + ceilDiv size 64 }
    else s) s

/-- The member's data phase begins. -/
def State.startData (s : State) (i : Inst) (m : MemberPart) (g : GroupRec) : State :=
  let q := s.ringJob i m g
  let s := s.modPartition i.part fun (x : Partition) =>
    { x with lates := x.lates.map fun l =>
        if m.lateHeld && l.gid == i.gid && l.seq == i.seq && l.heldFrom.isSome then { l with foldedIn := true } else l }
  match dOp m.desc with
  | 1 =>
    let s := s.adopt q i
    match s.findInst i.part i.gid i.seq fun x => x.step == i.step with
    | some ⟨_, _, _, _, some m', _⟩ =>
      let r := (({ s := s, m := m' } : RingRun).start q).flush q
      r.1.modMember i fun _ => r.2
    | _ => s
  | 2 => s.gatherStart q i
  | 3 => s.normStart q m.root
  | 4 => s.reshardStart q
  | 5 => s.dispatchStart q i
  | _ => s.returnStart q

/-- START arrives; with the last of its absent ranks the member starts, or gives up where the root or a joined member is
lost already (R265). -/
def State.onStart (s : State) (p _ctx : Nat) (msg : Msg) : State :=
  match s.findInst p msg.gid msg.seqNo fun i => match i.member with | some m => !m.started && !m.excluded | none => false with
  | none => s
  | some i =>
    match i.member, s.group p msg.gid with
    | some m, some g =>
      let body := msg.payload.drop 6
      let joined := fieldB body 0 2
      let absent := m.absent ++ chunksLE 2 ((body.length - 4) / 2) (body.drop 4)
      let all := g.n ≤ joined + absent.length
      let m := { m with
        joinedCount := joined, lateFolded := fieldB body 2 2, absent := absent, root := msg.src
        started := all, startStep := (s.partition p).step
        joined := if all then (List.range g.n).filter fun r => !absent.contains r else [] }
      let s := (s.modMember i fun _ => m).settleJoins p msg.gid msg.seqNo
      if !all then s
      else if s.memberLost p g m.root || m.joined.any (fun x => s.memberLost p g (g.members.getD x 0xFFFF)) then
        s.memberGivesUp { i with member := some m }
      else s.startData i m g
    | _, _ => s

/-! ### EXCLUDED (R264, R268, R277) -/

/-- An adopter answers the owner of an orphan area: the shard, or why it cannot be sent (R268). Stage 4 releases the area,
but not while a send of it is unacknowledged. -/
def State.answerOrphan (s : State) (o : Orphan) : State :=
  let place (item : Nat) : Nat := collPlace o.gid o.seq item
  let own : MsgOwner := .orphan o.part o.gid o.seq o.owner
  if o.released && !s.owes own then s.sendMember o.part o.ownerDev (dataMsg 1 0x2B o.part (place 0) [] 0) own
  else if o.dropped then s.sendMember o.part o.ownerDev (dataMsg 1 0x2B o.part (place 1) [] 0) own
  else if o.ready then
    (List.range (ceilDiv o.length 4096)).foldl (fun (s : State) c =>
      let n := min 4096 (o.length - 4096 * c)
      let a := o.addr + 4096 * c
      let mask := (List.range (ceilDiv n 256)).foldl (fun acc j =>
        if s.readPoison [] (a + 256 * j) (min 256 (n - 256 * j)) then acc ||| 2 ^ j else acc) 0
      s.sendMember o.part o.ownerDev (dataMsg 1 0x2B o.part (place (64 * c)) (s.read a n) mask) own) s
  else
    { s with orphans := s.orphans.map fun (x : Orphan) => if x == o then { x with asked := true } else x }

/-- What an excluded member's record and wait rest on and no message tells it (assumption 34): how many members joined,
how many late contributions were folded in, and the rank that adopted its shard. -/
structure ExcludedFacts where
  joined : Nat
  late : Nat
  adopter : Nat
  deriving DecidableEq, Repr

/-- EXCLUDED reaches the excluded member, before or after stage 1 of its still that ends the step (R268, R277). -/
def State.excludedSelf (s : State) (facts : ExcludedFacts) (i : Inst) (m : MemberPart) (g : GroupRec) : State :=
  let m := { m with joinedCount := facts.joined, lateFolded := facts.late, excluded := true, adopter := some facts.adopter }
  let d := m.desc
  let rs := dOp d == 1
  if i.step != (s.partition i.part).step || (s.partition i.part).stillPhase != .idle then
    (s.bumpBasin m.basin cLateStale).completeMember i m .stale
  else
    let s :=
      if g.lateAdd then
        if rs then
          let n := (cFmtSrc d).bytesFor (g.n * cCount d)
          let src := s.segAddr m.basin m.slot (cSegSrc d) (cSrc d)
          let dst := s.segAddr m.basin m.slot (cSegAux2 d) (cAux2 d)
          let units := (unitsTouched src n).filterMap fun u =>
            let lo := max u src
            let hi := min (u + poisonUnit src) (src + n)
            if s.readPoison (badReads m.errs) lo (hi - lo) then some (dst + (lo - src), hi - lo) else none
          let s := (s.put dst (s.read src n) false).markRanges units
          let s := s.modPartition i.part fun (x : Partition) =>
            { x with lates := x.lates ++ [{ part := i.part, gid := i.gid, seq := i.seq, basin := m.basin, slot := m.slot, desc := d, heldFrom := none }] }
          s.bumpBasin m.basin cLateAdded
        else s
      else s.bumpBasin m.basin cLateDropped
    if !rs then s.completeMember i m .excluded
    else if s.ctxLost i.part (g.members.getD facts.adopter 0xFFFF) then s.completeMember i m .broken
    else s.modMember i fun _ => m

/-- EXCLUDED arrives: at the late member, or at the adopter of its shard. -/
def State.onExcluded (facts : ExcludedFacts) (s : State) (p _ctx : Nat) (msg : Msg) : State :=
  let rank := fieldB msg.payload 6 2
  match s.group p msg.gid with
  | none => s
  | some g =>
    let s := s.settleJoins p msg.gid msg.seqNo
    if rank = g.ownRank then
      match s.findInst p msg.gid msg.seqNo fun i => match i.member with | some m => !m.started && !m.excluded | none => false with
      | some i =>
        match i.member with
        | some m => s.excludedSelf facts i m g
        | none => s
      | none => s
    else
      match s.orphans.find? fun o => o.part == p && o.gid == msg.gid && o.seq == msg.seqNo && o.owner == rank with
      | some o => s.answerOrphan o
      | none => s

/-- The adopter's shard, or its answer, reaches an excluded owner (R268). -/
def State.orphanBytes (s : State) (i : Inst) (m : MemberPart) (msg : Msg) : State :=
  let d := m.desc
  let size := (cFmtDst d).bytesFor (cCount d)
  if msg.payload.isEmpty then
    if msg.item = 0 then s.completeMember i m .stale
    else s.completeMember i { m with missing := ceilDiv size 64 } .excluded
  else
    let a := s.segAddr m.basin m.slot (cSegDst d) (cDst d) + 64 * msg.item
    let s := s.put a msg.payload false
    let s := (List.range (ceilDiv msg.payload.length 256)).foldl (fun (s : State) j =>
      if msg.unitPoisoned j then s.markRange (a + 256 * j) (min 256 (msg.payload.length - 256 * j)) else s) s
    let m := { m with received := m.received + ceilDiv msg.payload.length 64, poisonOut := m.poisonOut || msg.anyPoison }
    if ceilDiv size 64 ≤ m.received then s.completeMember i m .excluded else s.modMember i fun _ => m

/-! ### END (R262 phase 7) -/

/-- Rows of a RETURN that were placed: its Missing counts those that did not come back. -/
def State.placedChoices (s : State) (m : MemberPart) : Nat :=
  let d := m.desc
  let a := s.segAddr m.basin m.slot (cSegAux d) (cAux d)
  ((List.range (cCount d)).map fun t =>
    ((List.range (cK d)).filter fun r => fieldB (s.read (a + 64 * t + 8 * r) 2) 0 2 != 0xFFFF).length).sum

/-- Missing at END (Table 12.8, R279, R280). -/
def State.missingAtEnd (s : State) (q : RingJob) (m : MemberPart) : Nat :=
  match dOp m.desc with
  | 2 => q.g.n * q.units - q.units - m.received
  | 4 => fieldB m.desc 72 4 - m.received
  | 6 => s.placedChoices m - m.received
  | _ => m.missing

/-- The member commits its history, releases its late store, and completes with DONE. -/
def State.endMember (s : State) (i : Inst) (m : MemberPart) (g : GroupRec) : State :=
  let q := s.ringJob i m g
  let s := if dOp m.desc = 1 && !q.bf then
      m.echoes.foldl (fun (s : State) e =>
        s.put (s.segAddr m.basin m.slot (cSegAux m.desc) (cAux m.desc + e.1)) [BitVec.ofNat 8 e.2] false) s
    else s
  let s := if m.lateHeld then
      s.modPartition i.part fun (x : Partition) =>
        { x with lates := x.lates.filter fun l => !(l.gid == i.gid && l.seq == i.seq && l.heldFrom.isSome) }
    else s
  let own (o : Orphan) : Bool := o.part == i.part && o.gid == i.gid && o.seq == i.seq && o.step == i.step
  let s := s.completeMember i { m with missing := s.missingAtEnd q m } .done
  let asked := s.orphans.filter fun o => own o && o.asked
  let s : State := { s with orphans := s.orphans.map fun (o : Orphan) => if own o then { o with ready := true } else o }
  asked.foldl (fun (s : State) o => s.answerOrphan { o with ready := true }) s

/-- Data messages of an instance stand in the inbox: END waits for them, since they were acknowledged before it was
sent. -/
def State.dataWaiting (s : State) (p gid seq : Nat) : Bool :=
  s.router.inbox.any fun x => x.1 == p && x.2.2.cls != 0 && x.2.2.gid == gid && x.2.2.seqNo == seq

/-- END at a member. -/
def State.onEnd (s : State) (p _ctx : Nat) (msg : Msg) : State :=
  match s.findInst p msg.gid msg.seqNo fun i => match i.member with | some m => m.doneSent | none => false with
  | some i =>
    match i.member, s.group p msg.gid with
    | some m, some g => s.endMember i m g
    | _, _ => s
  | none => s

/-! ### Phase 5: DONE (R262) -/

/-- A member has finished but for acknowledgements. -/
def State.dataDone (s : State) (i : Inst) (m : MemberPart) (g : GroupRec) : Bool :=
  let q := s.ringJob i m g
  match dOp m.desc with
  | 1 => q.finished m
  | 2 => q.unitsDue ≤ m.received
  | 3 => m.normValue.isSome
  | _ => true

/-- A message that a member takes before it sends DONE: data from itself, and any SCALE_ECHO. Which of its blocks are
echoed it cannot tell, since a Nonfinite one is not (R272): it has received every echo addressed to it when none waits here
(assumption 63). -/
def State.holdsDone (s : State) (i : Inst) : Bool :=
  s.router.inbox.any fun x => x.1 == i.part && (x.2.1 == selfCtx && x.2.2.cls != 0 || x.2.2.cls != 0 && x.2.2.type == 0x29) &&
    x.2.2.gid == i.gid && x.2.2.seqNo == i.seq

/-- Send the DONE of every member part that is finished and whose sends are acknowledged. -/
def State.collProgress (s : State) : State :=
  s.instances.foldl (fun (s : State) i =>
    match i.member, s.group i.part i.gid with
    | some m, some g =>
      if m.started && !m.doneSent && s.dataDone i m g && !s.owes (.instance_ i.part i.gid i.seq) && !s.holdsDone i then
        (s.modMember i fun m => { m with doneSent := true }).sendUp i.part g 0x23 (collPlace i.gid i.seq 0) (toLE 2 g.ownRank)
      else s
    | _, _ => s) s

/-! ### Data messages -/

/-- The member part that a data message is for, when it can take it: started, or excluded and waiting. None when the
message has no taker; `some none` when it must wait for START. -/
def State.taker (s : State) (p : Nat) (m : Msg) : Option (Option (Inst × MemberPart × GroupRec)) :=
  match s.findInst p m.gid m.seqNo fun i => i.member.isSome || (m.type == 0x2A && i.rootRuns), s.group p m.gid with
  | some i, some g =>
    match i.member with
    | some x => if x.started || x.excluded || (m.type == 0x2A && i.rootRuns) then some (some (i, x, g)) else some none
    | none => none
  | _, _ => none

/-- Handle the oldest data message of a type that is not waiting for START: it goes to its instance, or is discarded and
acknowledged (R268). -/
def State.onData (s : State) (type : Nat) (go : State → Inst → MemberPart → GroupRec → Msg → State) : State :=
  match s.router.inbox.find? fun x => x.2.2.cls != 0 && x.2.2.type == type && s.taker x.1 x.2.2 != some none with
  | none => s
  | some x =>
    let u := s.take x true
    match u.taker x.1 x.2.2 with
    | some (some (i, m, g)) => (go u i m g x.2.2).collProgress
    | _ => u

/-- RS_BLOCKS at a member (R269). -/
def State.rsBlocks (s : State) (i : Inst) (m : MemberPart) (g : GroupRec) (msg : Msg) : State :=
  if dOp m.desc != 1 || !m.started then s
  else
    let q := s.ringJob i m g
    let from_ := (g.members.findIdx? fun d => d == msg.src).getD q.x
    let r := (blocksOf q.bf msg).foldl (fun (r : RingRun) y => r.arrive q from_ y.1 y.2) { s := s, m := m }
    let (s, m) := r.flush q
    s.modMember i fun _ => m

/-- SCALE_ECHO at a member (R271, R272). -/
def State.scaleEcho (s : State) (i : Inst) (m : MemberPart) (g : GroupRec) (msg : Msg) : State :=
  if dOp m.desc != 1 || !m.started then s
  else
    let q := s.ringJob i m g
    let r := (List.range msg.payload.length).foldl (fun (r : RingRun) j =>
      r.scale q (msg.item + j) (fieldB msg.payload j 1)) { s := s, m := m }
    let (s, m) := r.flush q
    s.modMember i fun _ => m

/-- SHARD_DATA at a member (R268, R279, R280). -/
def State.shardData (s : State) (i : Inst) (m : MemberPart) (g : GroupRec) (msg : Msg) : State :=
  if m.excluded then s.orphanBytes i m msg
  else if dOp m.desc = 2 then s.gatherUnits (s.ringJob i m g) i msg
  else if dOp m.desc = 4 then s.reshardBytes (s.ringJob i m g) i msg
  else s

/-- The pieces of the tagged row that `m` belongs to. -/
def State.rowOf (s : State) (p : Nat) (m : Msg) : List (Nat × Nat × Msg) :=
  s.router.inbox.filter fun x => x.1 == p && x.2.2.cls == m.cls && x.2.2.type == m.type && x.2.2.src == m.src &&
    x.2.2.place == m.place && wholeTag (x.2.2.payload.take 8) == wholeTag (m.payload.take 8)

/-- A returning row that no RETURN takes any more is discarded; it counts when its generation is not outstanding (R175). -/
def State.lateRow (s : State) (p : Nat) (m : Msg) : State :=
  let home := fieldB m.payload 5 1 % 8
  if m.type == 0x2D && fieldB m.payload 4 1 / 8 == 0 && !m.unitPoisoned 0 && s.holdsBasin p home &&
      !s.outstanding home (fieldB m.payload 6 2) then s.bumpBasin home cLateDiscard
  else s

/-- Handle the oldest tagged row whose pieces have all arrived. -/
def State.onRow (s : State) (type : Nat) (go : State → RingJob → Inst → MemberPart → List Msg → State) : State :=
  match s.router.inbox.find? fun x => x.2.2.cls == 2 && x.2.2.type == type &&
      match s.taker x.1 x.2.2 with
      | some none => false
      | some (some (_, m, _)) => rowPieces (cRow m.desc) ≤ (s.rowOf x.1 x.2.2).length
      | none => true with
  | none => s
  | some x =>
    let pieces := if (s.taker x.1 x.2.2).isNone then [x] else s.rowOf x.1 x.2.2
    let u := pieces.foldl (fun (u : State) y => u.take y true) s
    match u.taker x.1 x.2.2 with
    | some (some (i, m, g)) => (go u (u.ringJob i m g) i m (pieces.map (·.2.2))).collProgress
    | _ => u.lateRow x.1 x.2.2

/-! ### Commands -/

/-- JOIN (R262, R263). -/
def execJoin (t : Nat) (s : State) : Host.Outcome State Fault Refusal :=
  s.runWriter t fun u => u.onMessage (· == 0) 0x20 State.onJoin
/-- START (R262). -/
def execCollStart (t : Nat) (s : State) : Host.Outcome State Fault Refusal :=
  s.runWriter t fun u => (u.onMessage (· == 0) 0x21 State.onStart).collProgress
/-- EXCLUDED (R268, R277). -/
def execExcluded (t joined late adopter : Nat) (s : State) : Host.Outcome State Fault Refusal :=
  s.runWriter t fun u => u.onMessage (· == 0) 0x22 (State.onExcluded ⟨joined, late, adopter⟩)
/-- DONE (R262). -/
def execCollDone (t : Nat) (s : State) : Host.Outcome State Fault Refusal :=
  s.runWriter t fun u => u.onMessage (· == 0) 0x23 State.onDone
/-- END (R262). -/
def execCollEnd (t : Nat) (s : State) : Host.Outcome State Fault Refusal :=
  s.runWriter t fun u =>
    match u.inboxNext fun x => x.2.2.cls == 0 && x.2.2.type == 0x24 && !u.dataWaiting x.1 x.2.2.gid x.2.2.seqNo with
    | none => u
    | some x => (u.take x true).onEnd x.1 x.2.1 x.2.2
/-- BREAK (R265). -/
def execCollBreak (t : Nat) (s : State) : Host.Outcome State Fault Refusal :=
  s.runWriter t fun u => u.onMessage (· == 0) 0x25 State.onBreak
/-- WEIR_CLOSE (R263). -/
def execWeirClose (t p gid seq : Nat) (s : State) : Host.Outcome State Fault Refusal :=
  s.runWriter t fun u => u.weirClose p gid seq
/-- RS_BLOCKS (R269). -/
def execRsBlocks (t : Nat) (s : State) : Host.Outcome State Fault Refusal :=
  s.runWriter t fun u => u.onData 0x28 State.rsBlocks
/-- SCALE_ECHO (R271, R272). -/
def execScaleEcho (t : Nat) (s : State) : Host.Outcome State Fault Refusal :=
  s.runWriter t fun u => u.onData 0x29 State.scaleEcho
/-- NORM_VALUE (R275). -/
def execNormValue (t : Nat) (s : State) : Host.Outcome State Fault Refusal :=
  s.runWriter t fun u =>
    match u.router.inbox.find? fun x => x.2.2.cls != 0 && x.2.2.type == 0x2A && u.taker x.1 x.2.2 != some none with
    | none => u
    | some x =>
      let v := u.take x true
      match v.findInst x.1 x.2.2.gid x.2.2.seqNo fun i => i.member.isSome || i.rootRuns, v.group x.1 x.2.2.gid with
      | some i, some g => (v.onNormValue i g x.2.2).collProgress
      | _, _ => v
/-- SHARD_DATA (R268, R279, R280). -/
def execShardData (t : Nat) (s : State) : Host.Outcome State Fault Refusal :=
  s.runWriter t fun u => u.onData 0x2B State.shardData
/-- DISPATCH_ROW (R281). -/
def execDispatchRow (t : Nat) (s : State) : Host.Outcome State Fault Refusal :=
  s.runWriter t fun u => u.onRow 0x2C fun u q i _ ms => u.dispatchRow q i ms
/-- RETURN_ROW (R282). -/
def execReturnRow (t : Nat) (s : State) : Host.Outcome State Fault Refusal :=
  s.runWriter t fun u => u.onRow 0x2D fun u q i m ms => u.returnRow q i m.flight ms

end Sys2Proof.Machine
end

