-- ==== Sys2Proof/Machine/Reflect.lean ====
section
/-! DEFINITION. Reflections, flushes and checkpoints, at the source and at the holder (spec 16 R362 to R384), restores
(R388), and the sounding (R377 to R379). -/

namespace Sys2Proof.Machine

/-! ### The manifest (R362, R363) -/

/-- A manifest entry (Table 16.2). -/
structure ManEntry where
  base : Nat
  size : Nat
  hot : Bool
  deriving DecidableEq, Repr

/-- The fields of a manifest (Table 16.1). -/
structure Manifest where
  entries : List ManEntry
  shadowBase : Nat
  shadowSize : Nat
  stride : Nat
  holder : Nat
  part : Nat
  slots : Nat
  regionOff : Nat
  slotSize : Nat
  deriving DecidableEq, Repr

/-- A manifest from its bytes. -/
def manifestOf (m : Bytes) : Manifest where
  entries := (List.range (min (fieldB m 2 2) 2046)).map fun i =>
    { base := fieldB m (64 + 32 * i) 8, size := fieldB m (72 + 32 * i) 8, hot := bit (fieldB m (80 + 32 * i) 1) 0 }
  shadowBase := fieldB m 8 8
  shadowSize := fieldB m 16 8
  stride := fieldB m 24 4
  holder := fieldB m 28 2
  part := fieldB m 30 1
  slots := fieldB m 31 1
  regionOff := fieldB m 32 8
  slotSize := fieldB m 40 8

/-- Bytes of a manifest. -/
def manifestSize : Nat := 65536

/-- The basin whose window holds the manifest of partition `p`. -/
def State.manifestBasin (s : State) (p : Nat) : Option Nat :=
  (List.range 8).find? fun b => s.holdsBasin p b && (s.basin b).state == .active

/-- Device address `a` lies in what a manifest of partition `p` may name. -/
def State.securable (s : State) (p a : Nat) : Bool :=
  match placeOf a with
  | .stack b o => s.holdsBasin p b && (s.basin b).state == .active && o < windowSize
  | .cxl c o => s.holdsPort p c && o < (s.port c).mapped
  | _ => false

/-- [a, a + n) lies wholly in what a manifest may name. -/
def State.securableRange (s : State) (p a n : Nat) : Bool :=
  (a :: s.edges.filter fun e => a < e && e < a + n).all fun x => s.securable p x

/-- The checks of entry `i` of a manifest at `own`, with its offset: an entry that meets an earlier one, the shadow or
the manifest is illegal at its Base. -/
def State.entryChecks (s : State) (p own : Nat) (m : Bytes) (x : Manifest) (i : Nat) (e : ManEntry) : List (Nat × Bool) :=
  let o := 64 + 32 * i
  let earlier := (x.entries.take i).map fun y => (y.base, y.size)
  [(o, e.base % 65536 == 0 && s.securableRange p e.base e.size &&
      !((own, manifestSize) :: (x.shadowBase, x.shadowSize) :: earlier).any fun r => rangesMeet (e.base, e.size) r),
   (o + 8, e.size != 0 && e.size % 65536 == 0),
   (o + 16, fieldB m (o + 16) 1 < 2),
   (o + 17, allZero (sliceB m (o + 17) 15))]

/-- Byte offset of the first illegal field of the manifest `m` read at `own` (R363). -/
def State.manifestIllegal (s : State) (p own : Nat) (m : Bytes) : Option Nat :=
  let x := manifestOf m
  let n := fieldB m 2 2
  let c := x.stride != 0
  firstIllegal
    ([(0, fieldB m 0 2 == 1), (2, 1 ≤ n && n ≤ 2046), (4, fieldB m 4 4 == 0),
      (8, x.shadowBase % 65536 == 0 && s.securableRange p x.shadowBase x.shadowSize),
      (16, 65536 ≤ x.shadowSize && x.shadowSize % 65536 == 0),
      (28, if c then x.holder < 16384 else x.holder == 0), (30, x.part < 8),
      (31, if c then 1 ≤ x.slots else x.slots == 0), (40, x.slotSize % 65536 == 0), (48, allZero (sliceB m 48 16))] ++
      ((List.range x.entries.length).zip x.entries).flatMap fun e => s.entryChecks p own m x e.1 e.2)

/-- The pages of a manifest in page order: page number (address / 65,536), Class H, entry index. -/
def Manifest.pages (x : Manifest) : List (Nat × Bool × Nat) :=
  ((List.range x.entries.length).zip x.entries).flatMap fun e =>
    (List.range (e.2.size / 65536)).map fun i => (e.2.base / 65536 + i, e.2.hot, e.1)

/-- Bytes of the digest table for `n` pages, padded (R370). -/
def tableSize (n : Nat) : Nat := alignUp (32 * n) 65536

/-- Z: bytes of an image area (R370). -/
def imageSize (n : Nat) : Nat := 131072 + tableSize n + 65536 * n

/-! ### Capture records (R383) -/

/-- Post a reflection record of partition `p` to mailbox 0 of its virtual function. -/
def State.postCapture (s : State) (p code step time d0 d1 d2 d3 : Nat) : State :=
  s.post (p + 1) 0 ⟨.capture p code, recordBytes 3 code 0 0 step (time / 1000 * 1000) 0 d0 d1 d2 d3⟩

/-- Every dirty bit of a partition is set (R366). -/
def State.allDirty (s : State) (p : Nat) : State := s.modPartition p fun x => { x with cleanA := [], cleanB := [] }

/-- The capture of partition `p`: to its checkpoint holder, or to its partner. -/
def State.captureOf (s : State) (p : Nat) (ck : Bool) : Option Capture :=
  if ck then (s.partition p).checkpoint else (s.partition p).capture

/-- Set the capture of partition `p`. -/
def State.setCapture (s : State) (p : Nat) (ck : Bool) (c : Option Capture) : State :=
  s.modPartition p fun x => if ck then { x with checkpoint := c } else { x with capture := c }

/-- Bytes of the capture's page messages that still wait in a context. -/
def State.bytesWaiting (s : State) (p : Nat) (ck : Bool) : Nat :=
  (s.contexts.flatMap fun c => c.classes.flatMap fun k =>
    (k.queue.filter fun q => q.2 == .capture p ck && q.1.type == 0x31).map fun q => q.1.payload.length).sum

/-- Abandon the capture of partition `p` (R384): every dirty bit is set and its record posted. -/
def State.abandonCapture (s : State) (p : Nat) (ck : Bool) : State :=
  match s.captureOf p ck with
  | none => s
  | some c =>
    let sent := c.bytesGiven - s.bytesWaiting p ck
    let s : State := { s with contexts := s.contexts.map fun (x : PeerCtx) =>
      { x with classes := x.classes.map fun (k : CtxClass) => { k with queue := k.queue.filter fun q => q.2 != .capture p ck } } }
    (((s.setCapture p ck none).allDirty p).postCapture p 5 c.step c.startTime c.holder 0 sent 0)

/-! ### Starting a capture (R365 to R371, R373) -/

/-- The device record (Table 16.7) of a partition: held late contributions not folded in. -/
def deviceRecord (x : Partition) : Bytes :=
  let held := (x.lates.filter fun l => l.heldFrom.isSome && !l.foldedIn).take 64
  toLE 8 x.step ++ toLE 4 held.length ++ zeros 52 ++
    held.flatMap fun l => toLE 1 l.gid ++ toLE 1 l.basin ++ toLE 2 l.seq ++ zeros 4

/-- The partner's slot that a capture writes (R367): 0 is A. -/
def Partner.target (x : Partner) : Nat :=
  match x.slotA, x.slotB with
  | some a, some b => if b < a then 1 else 0
  | none, _ => 0
  | some _, none => 1

/-- Where a capture goes: holder, partition, slot, region offset, record offset, image offset, bytes needed, bytes there. -/
structure CaptureTarget where
  holder : Nat
  part : Nat
  slot : Nat
  regionOff : Nat
  recordOff : Nat
  imageOff : Nat
  need : Nat
  have_ : Nat
  deriving DecidableEq, Repr

/-- The target of a capture of partition `x` with `n` pages (R367, R371, R382). -/
def captureTarget (x : Partition) (m : Manifest) (ck : Bool) (n : Nat) : Option CaptureTarget :=
  let z := imageSize n
  if ck then
    let k := x.step / max m.stride 1 % max m.slots 1
    some { holder := m.holder, part := m.part, slot := k, regionOff := m.regionOff, recordOff := k * m.slotSize
           imageOff := k * m.slotSize + 65536, need := 65536 + z, have_ := m.slotSize }
  else
    x.partner.map fun q =>
      { holder := q.id, part := q.part, slot := q.target, regionOff := q.regionOff, recordOff := 0x1000 * q.target
        imageOff := 65536 + z * q.target, need := 65536 + 2 * z, have_ := q.regionSize }

/-- The payload of IMAGE_BEGIN after the Place field (assumption 36). -/
def beginRest (p : Nat) (c : Capture) : Bytes :=
  toLE 1 c.slot ++ toLE 1 c.flags ++ toLE 8 c.step ++ toLE 8 c.regionOff ++ toLE 8 c.imageOff ++ toLE 8 c.imageSize ++
    toLE 1 p

/-- The pages a capture has to send (R366). -/
def pendingPages (x : Partition) (ck : Bool) (slot : Nat) (pages : List (Nat × Bool × Nat)) : List (Nat × Nat × Nat) :=
  let clean := if slot = 0 then x.cleanA else x.cleanB
  ((List.range pages.length).zip pages).filterMap fun y =>
    if ck || y.2.2.1 || !clean.contains y.2.1 then some (y.1, y.2.1, y.2.2.2) else none

/-- The capture of a manifest's pages: its record, with the values of all pages at T (steps 1 and 2 of Table 16.3). -/
def State.captureRecord (s : State) (x : Partition) (ck : Bool) (kind : CaptureKind) (m : Bytes) (pages : List (Nat × Bool × Nat))
    (todo : List (Nat × Nat × Nat)) (cold : List Nat) (t : CaptureTarget) : Capture :=
  let table := pages.flatMap fun y => sm3 (s.read (65536 * y.1) 65536)
  let area := m ++ sliceB (deviceRecord x) 0 65536
  let front := area ++ sliceB table 0 (tableSize pages.length)
  let opening := !cold.any fun y => x.writtenPages.contains y
  let coFed := match x.partner with
    | some q => !ck && q.coFed
    | none => false
  { kind := kind, startTime := s.time, step := x.step, holder := t.holder, holderPart := t.part, slot := t.slot
    regionOff := t.regionOff, recordOff := t.recordOff, imageOff := t.imageOff, imageSize := imageSize pages.length
    flags := (if opening then 1 else 0) + (if kind == .flush then 2 else 0) + (if ck then 4 else 0) + (if coFed then 8 else 0)
    pageCount := pages.length, front := cellsOfNonzero 0 front
    pages := todo.map fun y => (y.1, cellsOfNonzero 0 (s.read (65536 * y.2.1) 65536))
    unread := todo.map fun y => (y.2.1, y.1)
    shadowBase := (manifestOf m).shadowBase, shadowPages := (manifestOf m).shadowSize / 65536
    digest := sm3 front, onTC2 := kind == .flush }

/-- The capture begins: the cold pages are clean for its slot, and IMAGE_BEGIN goes to the holder. -/
def State.openCapture (s : State) (p : Nat) (ck : Bool) (t : CaptureTarget) (cold : List Nat) (c : Capture) : State :=
  let s := s.modPartition p fun x => if x.reading.isSome then x else { x with shadowed := [], touched := [] }
  let s := s.modPartition p fun x =>
    if ck then x
    else
      let x := if t.slot = 0 then { x with cleanA := cold } else { x with cleanB := cold }
      { x with partner := x.partner.map fun q => if t.slot = 0 then { q with slotA := none } else { q with slotB := none } }
  (s.setCapture p ck (some c)).sendTo p t.holder (tc0 0x30 t.part t.recordOff (beginRest p c)) (.capture p ck)

/-- The capture to a target of the manifest `m`, which stands at device address `own`. -/
def State.captureTo (s : State) (p : Nat) (ck : Bool) (kind : CaptureKind) (own : Nat) (m : Bytes)
    (pages : List (Nat × Bool × Nat)) (t : CaptureTarget) : State :=
  let dig := sm3 m
  let s := if dig == (s.partition p).manifestDigest then s else s.allDirty p
  let s := s.modPartition p fun x => { x with manifestDigest := dig }
  let x := s.partition p
  let todo := pendingPages x ck t.slot pages
  match todo.find? fun y => s.poisoned (65536 * y.2.1) 65536 with
  | some y => (s.allDirty p).postCapture p 6 x.step s.time y.2.2 0 (65536 * y.2.1) 0
  | none =>
    if s.poisoned own manifestSize then
      let (n, s) := s.freeNat
      (s.allDirty p).postCapture p 6 x.step s.time n 0 own 0
    else
      let cold := (pages.filter fun y => !y.2.1).map (·.1)
      s.openCapture p ck t cold (s.captureRecord x ck kind m pages todo cold t)

/-- The capture of the manifest `m`, which stands at device address `own`, unless it breaks a rule. -/
def State.captureFrom (s : State) (p : Nat) (ck : Bool) (kind : CaptureKind) (own : Nat) (m : Bytes) : State :=
  let x := s.partition p
  match s.manifestIllegal p own m with
  | some off => s.postCapture p 3 x.step s.time off 0 0 0
  | none =>
    let pages := (manifestOf m).pages
    match captureTarget x (manifestOf m) ck pages.length with
    | none => s
    | some t =>
      if t.have_ < t.need then s.postCapture p 4 x.step s.time 0 0 t.need 0
      else if !s.peerLive p t.holder then s.postCapture p 5 x.step s.time t.holder 0 0 0
      else s.captureTo p ck kind own m pages t

/-- Start a capture at this moment (step 1 of Table 16.3). The values of all pages at T are taken here. -/
def State.beginCapture (s : State) (p : Nat) (ck : Bool) (kind : CaptureKind) : State :=
  match s.manifestBasin p with
  | none => s
  | some b => s.captureFrom p ck kind (windowBase b) (s.read (windowBase b) manifestSize)

/-! ### Sending it and ending it (steps 3, 4 and 6) -/

/-- The pages of a capture in the order they are sent: those in the shadow first, then the unread ones (R365). -/
def Capture.inOrder (c : Capture) (shadowed : List Nat) : List (Nat × List Host.Cell) :=
  let first := shadowed.filterMap fun a => (c.unread.find? fun y => y.1 == a).map (·.2)
  (first.filterMap fun i => c.pages.find? fun y => y.1 == i) ++ c.pages.filter fun y => !first.contains y.1

/-- The page messages of a capture (step 3): its pages, the digest table, the device area. -/
def Capture.messages (c : Capture) (shadowed : List Nat) : List Msg :=
  let cls := if c.onTC2 then 2 else 3
  let msg (off : Nat) (bs : Bytes) := dataMsg cls 0x31 c.holderPart (c.imageOff + off) bs 0
  let table := tableSize c.pageCount
  ((c.inOrder shadowed).flatMap fun y => (List.range 16).map fun j => msg (131072 + table + 65536 * y.1 + 4096 * j) (memRead y.2 (4096 * j) 4096)) ++
    ((List.range (table / 4096)).map fun j => msg (131072 + 4096 * j) (memRead c.front (131072 + 4096 * j) 4096)) ++
    (List.range 32).map fun j => msg (4096 * j) (memRead c.front (4096 * j) 4096)

/-- The holder has acknowledged IMAGE_BEGIN: the pages go to the context (R365, Table 16.3 step 3). -/
def State.captureProgress (s : State) (p : Nat) (ck : Bool) : State :=
  match s.captureOf p ck with
  | none => s
  | some c =>
    if c.begun || s.owes (.capture p ck) then s
    else
      let ms := c.messages (s.partition p).shadowed
      let s := s.setCapture p ck (some { c with begun := true, pages := [], unread := [], bytesGiven := 4096 * ms.length })
      ms.foldl (fun (s : State) m => s.sendTo p c.holder m (.capture p ck)) s

/-- Captures of every partition go on after acknowledgements. -/
def State.capturesProgress (s : State) : State :=
  (List.range 8).foldl (fun (s : State) p => (s.captureProgress p false).captureProgress p true) s

/-- Bytes 0 to 63 of an image record (Table 16.6). -/
def Capture.record (c : Capture) (p source : Nat) : Bytes :=
  toLE 8 c.step ++ toLE 1 c.flags ++ toLE 1 p ++ toLE 2 source ++ toLE 4 c.pageCount ++ toLE 8 (c.startTime / 1000 * 1000) ++
    zeros 8 ++ c.digest

/-- The interval I in ns for a measured time R (R374, R375). -/
def intervalFor (x : Partition) (now r : Nat) (coFed : Bool) : Nat :=
  let e := now - x.mtbfSince
  let m := if x.mtbf != 0 then x.mtbf * 1000000000
    else if x.mtbfNotices = 0 then max e 10800000000000 else e / x.mtbfNotices
  let v := 2 * r * m
  let root := isqrt (v.log2 / 2 + 2) v / (if coFed then 2 else 1)
  min (max root 30000000000) 1800000000000

/-- Recompute the interval of partition `p` (R375). -/
def State.refreshInterval (s : State) (p : Nat) : State :=
  s.modPartition p fun x => { x with partner := x.partner.map fun q =>
    match q.measured with
    | some r => { q with interval := intervalFor x s.time r q.coFed }
    | none => q }

/-- Move what a capture still has to send onto TC2 (R379). -/
def State.captureToTC2 (s : State) (p : Nat) (c : Capture) : State :=
  let s := s.setCapture p false (some { c with onTC2 := true })
  match s.ctxFor p c.holder with
  | none => s
  | some x =>
    let mine := (x.cls 3).queue.filter fun q => q.2 == .capture p false
    let s := s.modCtx x.index fun y =>
      (y.modClass 3 fun k => { k with queue := k.queue.filter fun q => q.2 != .capture p false }).modClass 2 fun k =>
        { k with queue := k.queue ++ mine.map fun q => ({ q.1 with cls := 2 }, q.2) }
    s.sendQueued x.index 2

/-- A flush of partition `p` starts, or joins the capture to the partner in progress (R378, R379). -/
def State.startFlush (s : State) (p : Nat) : State :=
  let x := s.partition p
  if x.partner.isNone then s
  else
    match x.capture with
    | none => s.beginCapture p false .flush
    | some c => s.captureToTC2 p { c with flushNext := c.flushNext || c.step < x.step }

/-- Step 6: the holder has acknowledged IMAGE_COMMIT. -/
def State.endCapture (s : State) (p : Nat) (ck : Bool) (c : Capture) : State :=
  let r := s.time - c.startTime
  let s := (s.setCapture p ck none).postCapture p 1 c.step c.startTime (c.holder + c.slot * 65536) c.flags c.bytesGiven r
  let s := if ck then s
    else s.modPartition p fun x => { x with partner := x.partner.map fun q =>
      let q := if c.slot = 0 then { q with slotA := some c.step } else { q with slotB := some c.step }
      if c.kind == .reflection then { q with lastStart := some c.startTime, measured := some r } else q }
  let s := s.refreshInterval p
  if c.flushNext then s.startFlush p else s

/-- CAPTURE_COMMIT: step 4 once every page is acknowledged, and step 6 once the commit is. -/
def State.captureCommit (s : State) (p : Nat) (ck : Bool) : State :=
  match s.captureOf p ck with
  | none => s
  | some c =>
    if !c.begun || s.owes (.capture p ck) then s
    else if c.commitSent then s.endCapture p ck c
    else
      let r := c.record p s.deviceId
      (s.setCapture p ck (some { c with commitSent := true })).sendTo p c.holder
        (tc0 0x32 c.holderPart c.recordOff (sliceB r 0 24 ++ sliceB r 32 32)) (.capture p ck)

/-- What starts at stage 8 of a still of partition `p` (R301, R376, R378, R382). A crossing disarms the sounding until it
falls below the threshold minus 16: while it stays above, each still flushes. -/
def State.stageEight (s : State) (p : Nat) : State :=
  let s := s.modPartition p fun x => { x with writtenPages := [] }
  let s := match s.manifestBasin p with
    | some b =>
      let c := fieldB (s.read (windowBase b + 24) 4) 0 4
      if c != 0 && (s.partition p).step % c == 0 && (s.partition p).checkpoint.isNone then s.beginCapture p true .checkpoint else s
    | none => s
  let x := s.partition p
  let s := match x.partner with
    | some q =>
      let due : Bool := match q.lastStart with
        | some t => decide (t + q.interval ≤ x.stillTime.getD s.time)
        | none => true
      if due && x.capture.isNone then s.beginCapture p false .reflection else s
    | none => s
  let flush := x.flushPending || (!s.soundingArmed && s.threshold ≤ s.sounding + 16)
  let s := s.modPartition p fun x => { x with flushPending := false }
  if flush then s.startFlush p else s

/-! ### The holder (R364, R368 to R371) -/

/-- The device ranges that make up a region of partition `p` at offset `off` of its region segment (R364), ascending. -/
def State.regionSpans (s : State) (p off : Nat) : List Range :=
  match (List.range 8).find? fun b => s.holdsBasin p b with
  | none => []
  | some b =>
    let g := s.seg b 0 1
    let lo := g.base + off
    let hi := g.base + g.size
    (List.range 8).filterMap fun c =>
      let a := max lo (windowBase c)
      let z := min hi (windowBase c + windowSize)
      if s.holdsBasin p c && a < z then some (a, z - a) else none

/-- Device ranges of bytes [r, r + n) of a region; short when the region ends before. -/
def regionRanges : List Range → Nat → Nat → List Range
  | [], _, _ => []
  | x :: xs, r, n =>
    if n = 0 then []
    else if x.2 ≤ r then regionRanges xs (r - x.2) n
    else
      let k := min n (x.2 - r)
      (x.1 + r, k) :: regionRanges xs 0 (n - k)

/-- Bytes that the region holds. -/
def spanLength (xs : List Range) : Nat := (xs.map (·.2)).sum

/-- Write a byte string over device ranges. -/
def State.putOver : State → List Range → Bytes → State
  | s, [], _ => s
  | s, r :: rs, bs => (s.put r.1 (bs.take r.2) false).putOver rs (bs.drop r.2)

/-- Read device ranges. -/
def State.readOver (s : State) (rs : List Range) : Bytes := rs.flatMap fun r => s.read r.1 r.2

/-- The holder can confirm a region (R364). -/
def State.regionFits (s : State) (p off size : Nat) : Bool :=
  match (List.range 8).find? fun b => s.holdsBasin p b with
  | none => false
  | some b =>
    let g := s.seg b 0 1
    g.size != 0 && g.write && size ≤ spanLength (s.regionSpans p off)

/-- The confirmed region of a source. -/
def State.regionFor (s : State) (p source sourcePart : Nat) : Option HeldRegion :=
  s.regions.find? fun r => r.part == p && r.source == source && r.sourcePart == sourcePart

/-- IMAGE_BEGIN reaches the holder (step 2). -/
def State.onImageBegin (s : State) (p _ctx : Nat) (m : Msg) : State :=
  let b := m.payload
  let ck := bit (fieldB b 7 1) 2
  let x : HeldImage :=
    { part := p, source := m.src, sourcePart := fieldB b 40 1 % 8, isCheckpoint := ck, slot := fieldB b 6 1, step := fieldB b 8 8
      regionOff := fieldB b 16 8, recordOff := m.place44, imageOff := fieldB b 24 8, imageSize := fieldB b 32 8, filling := true }
  let known := ck || match s.regionFor p m.src x.sourcePart with
    | some r => r.off == x.regionOff && x.imageOff + x.imageSize ≤ r.size
    | none => false
  if known then
    let spans := s.regionSpans p x.regionOff
    let s : State := { s with images := (s.images.filter fun (y : HeldImage) =>
      !(y.part == p && y.source == m.src && y.sourcePart == x.sourcePart && y.isCheckpoint == ck && y.slot == x.slot)) ++ [x] }
    s.putOver (regionRanges spans (x.recordOff + 64) 4) (zeros 4)
  else s

/-- IMAGE_PAGE reaches the holder (step 3, R369). -/
def State.onImagePage (s : State) (p _ctx : Nat) (m : Msg) : State :=
  let o := m.place44
  let n := m.payload.length
  let b := ((List.range 8).find? fun b => s.holdsBasin p b).getD 0
  match s.images.find? fun y =>
      y.part == p && y.source == m.src && y.filling && y.imageOff ≤ o && o + n ≤ y.imageOff + y.imageSize with
  | none => s.bumpBasin b cRecvBound
  | some y =>
    let spans := s.regionSpans p y.regionOff
    if spanLength spans < o + n then s.bumpBasin b cRecvBound
    else
      let s := s.putOver (regionRanges spans o n) m.payload
      (List.range (ceilDiv n 256)).foldl (fun (s : State) j =>
        if m.unitPoisoned j then s.markRanges (regionRanges spans (o + 256 * j) (min 256 (n - 256 * j))) else s) s

/-- IMAGE_COMMIT reaches the holder (step 5). -/
def State.onImageCommit (s : State) (p _ctx : Nat) (m : Msg) : State :=
  let r := sliceB m.payload 6 24 ++ zeros 8 ++ sliceB m.payload 30 32
  let ck := bit (fieldB r 8 1) 2
  let mine (y : HeldImage) : Bool :=
    y.part == p && y.source == m.src && y.sourcePart == fieldB r 9 1 % 8 && y.isCheckpoint == ck && y.recordOff == m.place44 && y.filling
  match s.images.find? mine with
  | none => s
  | some y =>
    let spans := s.regionSpans p y.regionOff
    let s := s.putOver (regionRanges spans y.recordOff 64) r
    let s := s.putOver (regionRanges spans (y.recordOff + 64) 4) (toLE 4 0xC0DE)
    let s : State := { s with images := s.images.map fun (z : HeldImage) => if mine z then { z with filling := false } else z }
    s.postCapture p 2 (fieldB r 0 8) (fieldB r 16 8) (m.src + y.slot * 65536) (fieldB r 8 1) 0 0

/-! ### Feeds (R352, R380, R381) -/

/-- FEED_QUERY: a question is answered, with the region registered when this device can hold it (assumption 37); an
answer decides REFLECT_PAIR's third check. -/
def State.onFeedQuery (s : State) (p _ctx : Nat) (m : Msg) : State :=
  let b := m.payload
  if fieldB b 6 1 % 2 = 0 then
    let from_ := fieldB b 7 1 % 8
    let off := fieldB b 8 8
    let size := fieldB b 16 8
    let ok := s.regionFits p off size
    let s : State := if ok then
        { s with regions := (s.regions.filter fun (r : HeldRegion) => !(r.part == p && r.source == m.src && r.sourcePart == from_)) ++
            [{ part := p, source := m.src, sourcePart := from_, off := off, size := size, coFed := bit (fieldB b 6 1) 1 }] }
      else s
    s.sendTo p m.src (tc0 0x33 from_ 0 (toLE 1 1 ++ toLE 1 s.feed ++ toLE 1 (if ok then 1 else 0))) .none
  else
    let asking (k : OpenKind) : Bool := match k with
      | .reflectAsk q partner _ _ _ _ => q == p && partner == m.src
      | _ => false
    match s.findOpen asking with
    | some o =>
      match o.kind with
      | .reflectAsk q partner part off size coFed =>
        let feed := fieldB b 7 1
        if feed = s.feed && !coFed then s.finish o .sameFeed
        else
          let s : State := { s with opens := s.opens.map fun (x : OpenCmd) =>
            if x == o then { x with kind := .reflectPair q partner part off size coFed feed } else x }
          s.respond o.ticket .accepted []
      | _ => s
    | none => s

/-- PARTNER_CONFIRM: the partner has confirmed the region of REFLECT_PAIR, or refused it (R352). -/
def State.partnerConfirm (s : State) (p : Nat) (accepted : Bool) : State :=
  match s.findOpen fun k => match k with | .reflectPair q .. => q == p | _ => false with
  | none => s
  | some o =>
    match o.kind with
    | .reflectPair _ partner part off size coFed feed =>
      if accepted then
        let s := s.modPartition p fun x =>
          { x with cleanA := [], cleanB := []
                   partner := some { id := partner, part := part, regionOff := off, regionSize := size, coFed := coFed } }
        s.finish o .done (toLE 1 feed ++ toLE 1 (if coFed then 1 else 0))
      else (s.modPartition p fun x => { x with partner := none }).finish o .hardwareFault
    | _ => s

/-- Send SAG to every device co-fed with a partition of this one (R381). -/
def State.sendSags (s : State) : State :=
  let a := (List.range 8).filterMap fun p =>
    match (s.partition p).partner with
    | some q => if q.coFed then some (q.id, p, q.part) else none
    | none => none
  let b := (s.regions.filter (·.coFed)).map fun r => (r.source, r.part, r.sourcePart)
  let all := (a ++ b).foldl (fun acc x => if acc.any fun y => y.1 == x.1 then acc else acc ++ [x]) []
  all.foldl (fun (s : State) x => s.sendTo x.2.1 x.1 (tc0 0x34 x.2.2 0 (toLE 1 s.feed)) .none) s

/-! ### Restores (R388) -/

/-- The newest committed image for a RESTORE_ASK, with the first 64 bytes of its record. -/
def State.askedImage (s : State) (p source from_ : Nat) (ck : Bool) (step : Nat) : Option (HeldImage × Bytes) :=
  let found := s.images.filterMap fun (y : HeldImage) =>
    if y.part == p && y.source == source && y.sourcePart == from_ && y.isCheckpoint == ck && !y.filling then
      let r := s.readOver (regionRanges (s.regionSpans p y.regionOff) y.recordOff 68)
      if fieldB r 64 4 == 0xC0DE && (step == 0 || fieldB r 0 8 == step) then some (y, r.take 64) else none
    else none
  found.foldl (fun acc x =>
    match acc with
    | none => some x
    | some a => if fieldB a.2 0 8 < fieldB x.2 0 8 then some x else acc) none

/-- RESTORE_ASK reaches the holder, which sends the digest table and the pages of the image (R388). -/
def State.onRestoreAsk (s : State) (p _ctx : Nat) (m : Msg) : State :=
  let from_ := fieldB m.payload 7 1 % 8
  match s.askedImage p m.src from_ (bit (fieldB m.payload 6 1) 0) (fieldB m.payload 8 8) with
  | none => s
  | some (y, r) =>
    let n := fieldB r 12 4
    let spans := s.regionSpans p y.regionOff
    let pieces := (List.range ((imageSize n - 131072) / 4096)).map fun j => 131072 + 4096 * j
    pieces.foldl (fun (s : State) o =>
      let rs := regionRanges spans (y.imageOff + o) 4096
      let mask := (List.range 16).foldl (fun acc j =>
        if (regionRanges spans (y.imageOff + o + 256 * j) 256).any fun q => s.poisoned q.1 q.2 then acc + 2 ^ j else acc) 0
      s.sendTo p m.src (dataMsg 2 0x36 from_ o (s.readOver rs) mask) .none) s

/-- Every 4 KiB piece of [o, o + n) of the image has arrived. -/
def Restore.has (r : Restore) (o n : Nat) : Bool := (List.range (n / 4096)).all fun j => r.got.contains (o / 4096 + j)

/-- The records that roots kept of instances from step `step` on go: the replay starts those instances anew (R263, R389).
DEDUCED (assumption 39). -/
def State.forgetRoots (s : State) (p step : Nat) : State :=
  { s with instances := (s.instances.map fun (i : Inst) => if i.part == p && step ≤ i.step then { i with root := none } else i).filter
             fun (i : Inst) => i.member.isSome || i.root.isSome }

/-- The restore ends (R388): held late contributions and the step counter are those of the image. -/
def State.restoreDone (s : State) (p : Nat) (o : OpenCmd) (record area : Bytes) : State :=
  let step := fieldB record 0 8
  let n := min (fieldB area 65544 4) 64
  let lates := (List.range n).map fun i =>
    let e := 65536 + 64 + 8 * i
    ({ part := p, gid := fieldB area e 1, seq := fieldB area (e + 2) 2, basin := fieldB area (e + 1) 1 % 8, slot := 0, desc := []
       heldFrom := some step } : LateStore)
  let s := s.modPartition p fun x => { x with lates := lates, step := step, restore := none }
  (s.forgetRoots p step).finish o .done (toLE 8 step)

/-- Write a restored page at device address `a`, its poisoned pieces marked. -/
def State.putPage (s : State) (r : Restore) (o a : Nat) : State :=
  let s := s.put a (memRead r.cells o 65536) false
  s.markRanges ((List.range 16).filterMap fun j => if r.bad.contains (o / 4096 + j) then some (a + 4096 * j, 4096) else none)

/-- Check and write what has arrived of a restore. -/
def State.restoreProgress (s : State) (p : Nat) (o : OpenCmd) (record area : Bytes) (r : Restore) : State :=
  let n := fieldB record 12 4
  let tab := tableSize n
  let fail (s : State) : State := (s.modPartition p fun x => { x with restore := none }).finish o .authFailed
  let tableHere := r.tableOk || r.has 131072 tab
  let table := memRead r.cells 131072 tab
  if !tableHere then s.modPartition p fun x => { x with restore := some r }
  else if !r.tableOk && !(sm3 (sliceB area 0 131072 ++ table) == sliceB record 32 32) then fail s
  else
    let addrs := (manifestOf area).pages.map fun y => 65536 * y.1
    let at_ (i : Nat) : Nat := 131072 + tab + 65536 * i
    let ready := (List.range n).filter fun i => !r.written.contains i && r.has (at_ i) 65536
    let good := ready.takeWhile fun i => sm3 (memRead r.cells (at_ i) 65536) == sliceB table (32 * i) 32
    let s := good.foldl (fun (s : State) i => s.putPage r (at_ i) (addrs.getD i 0)) s
    if good.length < ready.length then fail s
    else if r.written.length + good.length = n then s.restoreDone p o record area
    else s.modPartition p fun x => { x with restore := some { r with tableOk := true, written := r.written ++ good } }

/-- RESTORE_PAGE reaches the restoring partition. -/
def State.onRestorePage (s : State) (p _ctx : Nat) (m : Msg) : State :=
  match (s.partition p).restore, s.findOpen fun k => match k with | .restore q h _ _ => q == p && h == m.src | _ => false with
  | some r, some o =>
    match o.kind with
    | .restore _ _ record area =>
      let off := m.place44
      if off % 4096 != 0 || m.payload.length != 4096 || r.got.contains (off / 4096) then s
      else
        s.restoreProgress p o record area
          { r with got := r.got ++ [off / 4096], cells := spliceCells r.cells off 4096 (cellsOfNonzero off m.payload)
                   bad := if m.anyPoison then r.bad ++ [off / 4096] else r.bad }
    | _ => s
  | _, _ => s

/-! ### The sounding (R377, R378) -/

/-- 16 × floor(log2(1 + n)), at most 255 (Table 16.8). -/
def countScore (n : Nat) : Nat := min 255 (16 * (1 + n).log2)

/-- The score of the thermal margin. -/
def thermalScore (hottest : Nat) : Nat :=
  if hottest ≤ 85 then 0 else if hottest < 105 then 12 * (hottest - 85) else 255

/-- The score of alarms: none, one, or more. -/
def alarmScore (one n : Nat) : Nat := if n = 0 then 0 else if n = 1 then one else 255

/-- Events of the last `window` ns. -/
def recent (now window : Nat) (xs : List Nat) : List Nat := xs.filter fun t => now < t + window

/-- Recompute the sounding, and flush at a crossing. -/
def State.soundingUpdate (s : State) : State :=
  let s : State := { s with threshold := s.thresholdSet }
  let ce := recent s.time 1000000000 s.ceEvents
  let li := recent s.time 1000000000 s.linkEvents
  let rg := recent s.time 10000000000 s.regulatorTimes
  let sg := recent s.time 10000000000 s.sagTimes
  let scores := [countScore ce.length, countScore li.length, thermalScore (s.junction.foldl max 0), alarmScore 128 rg.length,
    alarmScore 160 sg.length]
  let m := scores.foldl max 0
  let v := min 255 (m + (scores.sum - m) / 4)
  let crossing := s.soundingArmed && s.threshold ≤ v
  let s : State := { s with ceEvents := ce, linkEvents := li, regulatorTimes := rg, sagTimes := sg, scores := scores, sounding := v
                            soundingArmed := if v + 16 < s.threshold then true else if crossing then false else s.soundingArmed }
  if crossing then
    (List.range 8).foldl (fun (s : State) p =>
      let x := s.partition p
      if !x.isOpen || x.partner.isNone then s
      else if x.stillPhase == .idle then s.startFlush p
      else s.modPartition p fun x => { x with flushPending := true }) (s.raise 14 0)
  else s

/-! ### Commands -/

/-- IMAGE_BEGIN (R368). -/
def execImageBegin (t : Nat) (s : State) : Host.Outcome State Fault Refusal :=
  s.runWriter t fun u => u.onMessage (· == 0) 0x30 State.onImageBegin
/-- IMAGE_PAGE (R369). -/
def execImagePage (t : Nat) (s : State) : Host.Outcome State Fault Refusal :=
  s.runWriter t fun u => u.onMessage (· != 0) 0x31 State.onImagePage
/-- IMAGE_COMMIT (R368). -/
def execImageCommit (t : Nat) (s : State) : Host.Outcome State Fault Refusal :=
  s.runWriter t fun u => u.onMessage (· == 0) 0x32 State.onImageCommit
/-- CAPTURE_COMMIT (R368). -/
def execCaptureCommit (t p : Nat) (checkpoint : Bool) (s : State) : Host.Outcome State Fault Refusal :=
  s.runAlive t fun u => u.captureCommit p checkpoint
/-- FEED_QUERY (R380). -/
def execFeedQuery (t : Nat) (s : State) : Host.Outcome State Fault Refusal :=
  s.runAlive t fun u => u.onMessage (· == 0) 0x33 State.onFeedQuery
/-- PARTNER_CONFIRM (R352). -/
def execPartnerConfirm (t p : Nat) (accepted : Bool) (s : State) : Host.Outcome State Fault Refusal :=
  s.runAlive t fun u => u.partnerConfirm p accepted
/-- SAG (R381). -/
def execSag (t : Nat) (s : State) : Host.Outcome State Fault Refusal :=
  s.runAlive t fun u => u.onMessage (· == 0) 0x34 fun u _ _ _ => { u with sagTimes := u.sagTimes ++ [u.time] }
/-- RESTORE_ASK (R388). -/
def execRestoreAsk (t : Nat) (s : State) : Host.Outcome State Fault Refusal :=
  s.runAlive t fun u => u.onMessage (· == 0) 0x35 State.onRestoreAsk
/-- RESTORE_PAGE (R388). -/
def execRestorePage (t : Nat) (s : State) : Host.Outcome State Fault Refusal :=
  s.runWriter t fun u => u.onMessage (· != 0) 0x36 State.onRestorePage
/-- SOUNDING_UPDATE (R377). -/
def execSoundingUpdate (t : Nat) (s : State) : Host.Outcome State Fault Refusal := s.runAlive t State.soundingUpdate
/-- RETURN_MESSAGE (R247, R248, R262, R368). -/
def execReturnMessage (t : Nat) (s : State) : Host.Outcome State Fault Refusal :=
  s.runAlive t fun u =>
    match u.inboxFind fun m => m.cls == 0 && m.type == 1 with
    | some x => ((u.take x false).onReturn x.2.1 x.2.2).capturesProgress.guarded State.collProgress
    | none => u

end Sys2Proof.Machine
end

