-- ==== Sys2Proof/Machine/Stills.lean ====
section
/-! DEFINITION. Stills: when they start (spec 13 R297, R298, R442), their eight stages (R299, R300, Table 13.8), and the
STILL message down a tree. -/

namespace Sys2Proof.Machine

/-! ### Which plan governs, and which source (R298, R347) -/

/-- The plan of the window that is open, or the plan in force. -/
def Partition.ruling (x : Partition) : StillPlan := x.windowPlan.getD x.plan

/-- The pulse source of a plan counts as on in partition `p`: at the root of its tree it counts as off (R298). -/
def State.pulsesCount (s : State) (p : Nat) (w : StillPlan) : Bool :=
  match w.source with
  | .off => false
  | .pin => true
  | .tree t => match s.tree p t with
    | some x => x.parent.isSome
    | none => true

/-- A pulse window of a plan is open at this moment. -/
def State.windowOpen (s : State) (p : Nat) (w : StillPlan) : Bool :=
  s.pulsesCount p w && w.period != 0 && w.next ≤ s.time + w.window && s.time ≤ w.next + w.window

/-- The next planned still after one starts at this moment (R297): at the period after it, but a plan that was loaded
while the window was open keeps its first still (R347). -/
def Partition.replan (x : Partition) (now : Nat) : Partition :=
  let keep := match x.windowPlan with
    | some w => w.next != x.plan.next
    | none => false
  { x with windowPlan := none
           plan := if keep || x.plan.period = 0 then x.plan else { x.plan with next := now + x.plan.period } }

/-! ### The stages (Table 13.8) -/

/-- Basin `b` takes part in a still of partition `p` (R299). -/
def State.inStill (s : State) (p b : Nat) : Bool :=
  s.holdsBasin p b && ((s.basin b).state == .idle || (s.basin b).state == .active || (s.basin b).state == .draining)

/-- A PLACE that issued in partition `p` has not completed (stage 2). -/
def State.placesOpen (s : State) (p : Nat) : Bool := s.flights.any fun f => f.isPlace && s.inStill p f.basin

/-- The counter (scope, index) belongs to what a still of partition `p` snapshots (R299, R358). -/
def State.snapshotScope (s : State) (p scope idx : Nat) : Bool :=
  match scope with
  | 1 => idx == p
  | 2 => s.inStill p idx
  | 3 => s.inStill p (idx / 16)
  | 4 => s.inStill p (idx / 3)
  | 6 => s.holdsPort p idx
  | _ => false

/-- A counter whose advance the specification leaves open moves on by a free amount, less than one wrap: a wait-event
counter of a basin (R49), or TC0_LATE of a port (R48). -/
def State.advanceOpen (s : State) (scope idx pos : Nat) : State :=
  let (n, s) := s.freeNat
  s.bump scope idx pos (n % 2 ^ 48)

/-- The wait-event counters of basin `b` move on; its datapath is stopped in SERVICE and RETIRED (R49). -/
def State.advanceWaits (s : State) (b : Nat) : State :=
  if (s.basin b).state == .service || (s.basin b).state == .retired then s
  else (List.range 5).foldl (fun (s : State) pos => s.advanceOpen 2 b pos) s

/-- Stage 3: the snapshots, tagged with the ending step. A basin that takes no part keeps its last ones. -/
def State.snapshotStage (s : State) (p : Nat) : State :=
  let s := ((List.range 8).filter (s.inStill p)).foldl State.advanceWaits s
  let mine (c : StatCounter) : Bool := s.snapshotScope p c.scope c.idx
  let taken := (s.counters.filter mine).map fun c => (c.scope, c.idx, c.pos, c.poll.ext)
  let step := (s.partition p).step
  let s0 := s
  let s : State := { s with counters := s.counters.map fun (c : StatCounter) => if mine c then c.poll else c }
  let s := s.modPartition p fun x =>
    { x with snapshot := (x.snapshot.filter fun y => !s0.snapshotScope p y.1 y.2.1) ++ taken, snapshotStep := step
             basinSnapSteps := (List.range 8).map fun b => if s0.inStill p b then step else x.basinSnapSteps.getD b 0 }
  (List.range 8).foldl (fun (s : State) b =>
    if s0.inStill p b then
      s.modBasin b fun x => { x with expertSnaps := x.experts.map fun (e : ExpertSet) => { step := step, set := e } }
    else s) s

/-- Stage 4: the late policy (R277) and the release of orphan areas (R268). -/
def State.lateStage (s : State) (p : Nat) : State :=
  let x := s.partition p
  let stale := x.lates.filter fun l => l.heldFrom.isSome && !l.foldedIn
  let s := stale.foldl (fun (s : State) l => s.bumpBasin l.basin cLateStale) s
  let s := s.modPartition p fun x =>
    { x with lates := (x.lates.filter fun l => !(l.heldFrom.isSome && !l.foldedIn)).map fun (l : LateStore) =>
        if l.heldFrom.isNone then { l with heldFrom := some (x.step + 1) } else l }
  { s with orphans := s.orphans.map fun (o : Orphan) => if o.part == p && o.step ≤ x.step then { o with released := true } else o }

/-- Stages 5 and 7: the live expert sets are zeroed, and generations carried with RetireAtStill retire (R166, R173). -/
def State.expertStages (s : State) (p : Nat) : State :=
  (List.range 8).foldl (fun (s : State) b =>
    if s.inStill p b then
      s.modBasin b fun x =>
        { x with experts := x.experts.map fun _ => {}
                 generations := x.generations.atStill.foldl (fun (y : Generations) g => y.retire g false) x.generations }
    else s) s

/-- Stages 3 to 8. -/
def State.finishStill (s : State) (p : Nat) : State :=
  let s := (((s.snapshotStage p).lateStage p).expertStages p).modPartition p fun x =>
    { x with step := x.step + 1, stillPhase := .idle, lastStillEnd := some s.time, openStill := x.stillTime, climbed := [] }
  s.stageEight p

/-- The STILL of the root of a partition's tree source to its children (R290, R298). -/
def State.sendStill (s : State) (p : Nat) (t : TreeRec) (body : Bytes) : State :=
  (t.children.zip t.childParts).foldl (fun (s : State) c => s.sendTo p c.1 (tc0 0x14 c.2 0 body) .none) s

/-- A still starts at this moment: stage 1, and the later ones unless an issued PLACE is still running. -/
def State.startStill (s : State) (p : Nat) : State :=
  let w := (s.partition p).ruling
  let s := s.modPartition p fun x => { x.replan s.time with stillTime := some s.time, stillPhase := .waitingPlace }
  let s : State := if s.echo == some p then { s with echoPulses := s.echoPulses ++ [s.time] } else s
  let s := match w.source with
    | .tree i => match s.tree p i with
      | some t => if t.parent.isNone then s.sendStill p t (toLE 1 i ++ zeros 1 ++ toLE 8 (s.partition p).step) else s
      | none => s
    | _ => s
  if s.placesOpen p then s else s.finishStill p

/-- R298 starts a still now; while one is running it starts when that one has ended (R297). -/
def State.stillDue (s : State) (p : Nat) : State :=
  if (s.partition p).stillPhase == .idle then s.startStill p
  else s.modPartition p fun x => { x with stillQueued := true }

/-- STILL_RESUME: the issued PLACE operations have completed. -/
def State.stillResume (s : State) (p : Nat) : State :=
  let x := s.partition p
  if x.stillPhase == .waitingPlace && !s.placesOpen p then
    let s := s.finishStill p
    if x.stillQueued then (s.modPartition p fun x => { x with stillQueued := false }).startStill p else s
  else s

/-! ### Pulses and planned times (R297, R298) -/

/-- Partition counters (scope 1): STILL_PULSE_MISSING at 0, STILL_PULSE_IGNORED at 1. -/
def State.bumpPartition (s : State) (p pos : Nat) : State := s.bump 1 p pos

/-- A pulse of partition `p`'s source arrives at this moment. -/
def State.pulse (s : State) (p : Nat) : State :=
  let x := s.partition p
  let w := x.ruling
  let starts : Bool :=
    if w.period = 0 then
      match x.stillTime with
      | some t => decide (t + 100000 < s.time)
      | none => true
    else s.windowOpen p w
  if starts && !x.stillQueued then s.stillDue p else s.bumpPartition p 1

/-- Pulses of every open partition whose source a test names. -/
def State.pulses (s : State) (f : Nat → PulseSource → Bool) : State :=
  (List.range 8).foldl (fun (s : State) p =>
    let x := s.partition p
    if x.isOpen && f p x.ruling.source && s.pulsesCount p x.ruling then s.pulse p else s) s

/-- STILL arrives at partition `p` (R298): it is forwarded and counts as a pulse. -/
def State.onStill (s : State) (p _ctx : Nat) (m : Msg) : State :=
  let i := fieldB m.payload 6 1 % 32
  match s.tree p i with
  | none => s
  | some t =>
    if t.parent.isNone then s
    else (s.sendStill p t (sliceB m.payload 6 10)).pulses fun q src => q == p && src == .tree i

/-- PLANNED_STILL: the planned time has come and the source is off (R297). -/
def State.plannedStill (s : State) (p : Nat) : State :=
  let x := s.partition p
  let w := x.ruling
  if x.isOpen && !s.pulsesCount p w && w.period != 0 && w.next ≤ s.time && !x.stillQueued then s.stillDue p else s

/-- STILL_WINDOW_END: no pulse has arrived by Tp + W (R298). -/
def State.stillWindowEnd (s : State) (p : Nat) : State :=
  let x := s.partition p
  let w := x.ruling
  if x.isOpen && s.pulsesCount p w && w.period != 0 && w.next + w.window ≤ s.time && !x.stillQueued then
    (s.bumpPartition p 0).stillDue p
  else s

/-! ### Commands -/

/-- STILL (R298). -/
def execStill (t : Nat) (s : State) : Host.Outcome State Fault Refusal :=
  s.runAlive t fun u => u.onMessage (· == 0) 0x14 State.onStill
/-- STILL_SYNC_IN_PULSE (R298, R442). -/
def execStillSyncInPulse (t : Nat) (s : State) : Host.Outcome State Fault Refusal :=
  s.runAlive t fun u => u.pulses fun _ src => src == .pin
/-- PLANNED_STILL (R297). -/
def execPlannedStill (t p : Nat) (s : State) : Host.Outcome State Fault Refusal := s.runAlive t fun u => u.plannedStill p
/-- STILL_WINDOW_END (R298). -/
def execStillWindowEnd (t p : Nat) (s : State) : Host.Outcome State Fault Refusal := s.runAlive t fun u => u.stillWindowEnd p
/-- STILL_RESUME (R299). -/
def execStillResume (t p : Nat) (s : State) : Host.Outcome State Fault Refusal := s.runAlive t fun u => u.stillResume p

end Sys2Proof.Machine
end

