-- ==== Sys2Proof/Machine/Loss.lean ====
section
/-! DEFINITION. What is lost: a peer context (spec 11 R249; 13 R294; 16 R384), an open import (17 R406), a basin by a
fault (14 R323), by service (15 R360; 18 R421, R423) or by leaving its partition (15 R341; 17 R407). -/

namespace Sys2Proof.Machine

/-! ### Imports and restores that end early (R355, R406) -/

/-- End an open import: its key is erased and its command completes (R401, R405, R406). -/
def State.closeImport (s : State) (p : Nat) (x : Import) (st : Status) (result : Bytes) : State :=
  let s := s.modPartition p fun y =>
    { y with imports := y.imports.filter fun z => z.source != x.source, keys := y.keys.filter fun k => k.ref != x.keyRef }
  match s.findOpen fun k => k == .weights p x.source with
  | some o => s.finish o st result
  | none => s

/-- The imports of partition `p` that satisfy a test fail (R406). -/
def State.failImports (s : State) (p : Nat) (f : Import → Bool) : State :=
  ((s.partition p).imports.filter f).foldl (fun (s : State) x => s.closeImport p x .hardwareFault []) s

/-- Complete open commands with HARDWARE_FAULT (R324). -/
def State.failOpens (s : State) (f : OpenKind → Bool) : State :=
  (s.opens.filter fun o => f o.kind).foldl (fun (s : State) o => s.finish o .hardwareFault) s

/-! ### A peer context is lost (R249) -/

/-- Context `i` of partition `p` enters LOST. -/
def State.loseContext (s : State) (p : Nat) (c : PeerCtx) : State :=
  let dev := c.peerId
  let s := s.modCtx c.index fun x => { x with lost := true }
  let s := s.raise 13 p
  let x := s.partition p
  let s := if x.capture.any fun y => y.holder == dev then s.abandonCapture p false else s
  let s := if x.checkpoint.any fun y => y.holder == dev then s.abandonCapture p true else s
  let s := s.modPartition p fun x => if x.partner.any fun q => q.id == dev then { x with partner := none, flushPending := false } else x
  let pairing (k : OpenKind) : Bool := match k with
    | .reflectAsk q d .. => q == p && d == dev
    | .reflectPair q d .. => q == p && d == dev
    | _ => false
  let s := if s.opens.any fun o => pairing o.kind then (s.modPartition p fun x => { x with partner := none }).failOpens pairing else s
  let restoring (k : OpenKind) : Bool := match k with
    | .restore q d .. => q == p && d == dev
    | _ => false
  let s := if s.opens.any fun o => restoring o.kind then (s.modPartition p fun x => { x with restore := none }).failOpens restoring else s
  let s := s.failImports p fun y => y.source == dev
  let s := s.modCtx c.index fun x =>
    { x with probes := [], classes := x.classes.map fun (k : CtxClass) => { k with unacked := [], queue := [], held := [] } }
  let s := s.collLost p dev
  let s := ((s.completeRemote).losePairs c.index).syncRecheck p
  s.collProgress

/-- PROBE_TIMEOUT: the oldest unanswered PROBE of context `i` is 100 µs old; the fourth in a row loses the context. -/
def State.probeTimeout (s : State) (i : Nat) : State :=
  match s.ctx i, s.partOfCtx i with
  | some c, some p =>
    match c.probes with
    | [] => s
    | t :: rest =>
      if c.lost || s.time < t + 100000 then s
      else if c.probesMissed + 1 < 4 then s.modCtx i fun x => { x with probes := rest, probesMissed := c.probesMissed + 1 }
      else s.loseContext p c
  | _, _ => s

/-! ### A basin is cleared (R115, R168, R195, R296) -/

/-- Steps 3 to 5 of the clearing, for every slot of basin `b` at once. -/
def State.clearBasin (s : State) (b : Nat) : State :=
  (List.range 16).foldl (fun (s : State) k => (s.freeCells b k).abandonBarriers b k) (s.clearUnits b)

/-- The table slots are emptied, the expert counters zeroed, the home cache written back and the pools zeroed, as a
basin leaves its partition or enters SERVICE or RETIRED (R115, R168, R190, R195). -/
def State.emptyBasin (s : State) (b : Nat) : State :=
  ((s.modBasin b fun x =>
    { x with tables := List.replicate 8 none, experts := List.replicate 16 {}, expertSnaps := List.replicate 16 {} }).flushCache b).zeroPools b

/-- The slots that a clearing stopped are in State 1 (R421). -/
def State.freeSlots (s : State) (b : Nat) : State :=
  s.modBasin b fun x => { x with slots := x.slots.map fun (y : Slot) =>
    if y.clearing then { y with state := .loaded, clearing := false } else y }

/-- Step 1 of the clearing in every slot of basin `b` that holds a task. -/
def State.stopBasin (s : State) (b : Nat) : State :=
  (List.range 16).foldl (fun (s : State) k =>
    match (s.slot b k).state with
    | .empty | .loaded => s
    | _ => if (s.slot b k).clearing then s else s.stopSlot b k) s

/-- The open commands on basin `b` (R324), its imports left out. -/
def State.openOn (s : State) (b : Nat) : OpenKind → Bool
  | .poolMode c _ => c == b
  | .programLoad c _ _ _ _ => c == b
  | .tableLoad bs _ _ _ => bit bs b
  | .taskStop c _ => c == b
  | .drain c _ => c == b
  | .calibrate c _ _ => c == b
  | .partitionClose p _ => s.holdsBasin p b
  | .restore p .. => s.holdsBasin p b
  | _ => false

/-- A deferred command is open on basin `b`. -/
def State.busyBasin (s : State) (b : Nat) : Bool := s.opens.any fun o => s.openOn b o.kind

/-- Commit a record of the module store: the newest of its type is in use, and the older one is reclaimed (R419). -/
def State.commitRecord (s : State) (type : Nat) (payload : Bytes) : State :=
  let v := (s.store.filter fun r => r.type == type && r.committed).foldl (fun m r => max m (r.version + 1)) 0
  { s with store := (s.store.filter fun (r : StoreRecord) => r.type != type) ++
      [{ type := type, version := v, payload := payload, committed := true }] }

/-- Commit the retirement map (R415, R423): bit b marks basin b retired. -/
def State.commitRetired (s : State) : State :=
  s.commitRecord 5 [BitVec.ofNat 8 ((List.range 8).foldl (fun acc b => acc + if (s.basin b).state == .retired then 2 ^ b else 0) 0)]

/-! ### Basin fault (R323) -/

/-- The destination of an abandoned descriptor outside basin `b`'s pools, which are zeroed, holds free values. -/
def State.abandonWrites (s : State) (f : Flight) : State :=
  f.writes.foldl (fun (s : State) r =>
    let (bs, s) := s.freeBytes r.1 r.2
    s.put r.1 bs false) s

/-- An issued descriptor is abandoned: its SetCell is not set, and a collective instance it belongs to breaks, with
BREAK sent (R265, R323). -/
def State.abandonFlight (s : State) (f : Flight) : State :=
  if f.unit == .collective then
    let s : State := { s with flights := s.flights.map fun (x : Flight) => if x.id == f.id then { x with setCell := none, lateFault := none } else x }
    match s.instances.find? fun i => i.member.any fun m => m.flight == f.id with
    | some i => s.memberGivesUp i
    | none => s.dropFlight f.id
  else (s.dropFlight f.id).abandonWrites f

/-- A fault of basin `b`. -/
def State.basinFault (s : State) (b : Nat) : State :=
  if 8 ≤ b || (s.basin b).state == .retired then s
  else
    let lost := s.flights.filter fun f => f.basin == b || (f.unit == .mere && f.basins.contains b)
    let s := lost.foldl State.abandonFlight s
    let staged := (s.basin b).mere.staged
    let s := (List.range 16).foldl (fun (s : State) k => s.dropStaged b k) s
    let s := match staged with
      | some x => s.dropStaged x.lead x.slot
      | none => s
    let s := s.modBasin b fun x => { x with mere := { x.mere with staged := none } }
    let s := (List.range 16).foldl (fun (s : State) k => s.halt b k .basinLost b 0 0 0) s
    let s := (lost.filter fun f => f.basin != b).foldl (fun (s : State) f => s.halt f.basin f.slot .basinLost b 0 0 0) s
    let s := ((s.clearBasin b).freeSlots b).emptyBasin b
    let s := (s.modBasin b fun x => { x with state := .retired, wiping := false }).raise 5 b
    let s := match s.partitionOf b with
      | some p => (s.failImports p fun x => x.basin == b).modPartition p fun x => { x with restore := none }
      | none => s
    let s : State := { s with opens := s.opens.map fun (o : OpenCmd) =>
      match o.kind with
      | .tableLoad bs t r f => if bit bs b then { o with kind := .tableLoad bs t r true } else { o with kind := .tableLoad bs t r f }
      | .partitionClose p f => { o with kind := .partitionClose p (f || s.holdsBasin p b) }
      | _ => o }
    let s := s.failOpens fun k => match k with
      | .tableLoad .. => false
      | .partitionClose .. => false
      | k => s.openOn b k
    let s := s.commitRetired
    if (List.range 8).all fun c => (s.basin c).state == .retired then s.enterFault 9 else s

/-! ### Worn stacks (R205) -/

/-- The counts of stack `i` show a stack fault: more than 16 uncorrectable reads within 1 s, or one symbol position of one
pseudo-channel corrected on more than 1,024 distinct units within 1 h (R205). -/
def State.stackWornOut (s : State) (i : Nat) : Bool :=
  let x := s.hbm.getD i {}
  let recent := x.ceUnits.filter fun e => s.time < e.1 + 3600000000000
  16 < (x.ueTimes.filter fun u => s.time < u + 1000000000).length ||
    recent.any fun e => 1024 < ((recent.filter fun y =>
      y.2.1 == e.2.1 && pseudoChannel (y.2.2 * 64) == pseudoChannel (e.2.2 * 64)).map (·.2.2)).eraseDups.length

/-- A stack whose counts show a stack fault is a fault of its basin (R205). -/
def State.checkWear (s : State) (i : Nat) : State := if s.stackWornOut i then s.basinFault (i / 3) else s

/-- The stacks that the outcomes of an operation name. -/
def stacksNamed (errs : List CheckErr) : List Nat :=
  (errs.filterMap fun e => match e with
    | .stackSymbols a _ _ => match placeOf a with
      | .stack b o => some (stackOf b o).1
      | _ => none
    | _ => none).eraseDups

/-- The wear of every stack that an operation met an error of (R205). -/
def State.checkStacks (s : State) (errs : List CheckErr) : State := (stacksNamed errs).foldl State.checkWear s

/-! ### A basin leaves its partition (R341, R407) -/

/-- A slot of a basin that leaves its partition: State 0, no segment records, no stream (R341). -/
def Slot.dropped (x : Slot) : Slot :=
  { x with state := .empty, segs := List.replicate 4 {}, streamOff := 0, length := 0, digest := [], position := 0, clearing := false }

/-- Basin `b` leaves partition `p`: cleared, emptied, its slots without records and its stacks wiped. -/
def State.leavePartition (s : State) (b : Nat) : State :=
  let s := ((s.clearBasin b).emptyBasin b).startWipe b
  s.modBasin b fun x =>
    { x with state := if x.state == .active then .idle else x.state
             slots := x.slots.map Slot.dropped, cells := List.replicate 256 {}, generations := {} }

/-- The basins of partition `p`. -/
def State.basinsOf (s : State) (p : Nat) : List Nat := (List.range 8).filter fun b => s.holdsBasin p b

/-- Break every instance of partition `p` on this device, as for a lost member (R265, R341). -/
def State.breakAll (s : State) (p : Nat) : State :=
  (s.instances.filter fun i => i.part == p).foldl (fun (s : State) i =>
    let s := if i.root.isSome then s.rootBreak i else s
    match s.instances.find? fun x => x.part == i.part && x.gid == i.gid && x.seq == i.seq && x.step == i.step && x.member.isSome with
    | some x => s.memberGivesUp x
    | none => s) s

/-- What PARTITION_CLOSE does at once: steps 1 and 2, with imports, captures and other open work of the partition
ended (R341, R384, R406). -/
def State.closePartition (s : State) (p : Nat) : State :=
  let s := (s.breakAll p).failImports p fun _ => true
  let s := (s.abandonCapture p false).abandonCapture p true
  let s := s.failOpens fun k => match k with
    | .reflectAsk q .. => q == p
    | .reflectPair q .. => q == p
    | .restore q .. => q == p
    | _ => false
  let s := (s.basinsOf p).foldl State.stopBasin s
  s.modPartition p fun x => { x with closing := true }

/-- Steps 3 and 4 of PARTITION_CLOSE. -/
def State.erasePartition (s : State) (p : Nat) : State :=
  let x := s.partition p
  let ports := (List.range 8).filter fun c => s.holdsPort p c
  let s := (s.basinsOf p).foldl State.leavePartition s
  let s := ports.foldl State.flushPortLines s
  let s : State := { s with
    cxl := s.cxl.map fun (c : CxlPort) => if c.lastHolder == some p then { c with lastHolder := none } else c
    contexts := s.contexts.filter fun c => !(x.peerBase ≤ c.index && c.index < x.peerBase + x.peerCount)
    instances := s.instances.filter fun i => i.part != p
    orphans := s.orphans.filter fun o => o.part != p
    regions := s.regions.filter fun r => r.part != p
    images := s.images.filter fun i => i.part != p
    router := { s.router with inbox := s.router.inbox.filter fun m => m.1 != p } }
  s.modPartition p fun _ => {}

/-- PARTITION_CLOSE_COMPLETE: every issued descriptor of the partition's basins has completed, and so have the
commands accepted on them meanwhile. -/
def State.closeComplete (s : State) (p : Nat) : State :=
  match s.findOpen fun k => match k with | .partitionClose q _ => q == p | _ => false with
  | none => s
  | some o =>
    let bs := s.basinsOf p
    let other (k : OpenKind) : Bool := match k with
      | .partitionClose .. => false
      | k => bs.any fun b => s.openOn b k
    if (s.flights.any fun f => bs.contains f.basin) || s.opens.any fun y => other y.kind then s
    else (s.erasePartition p).finish o (if o.kind == .partitionClose p true then .hardwareFault else .done)

/-! ### Commands -/

/-- PROBE_TIMEOUT (R249). -/
def execProbeTimeout (t ctx : Nat) (s : State) : Host.Outcome State Fault Refusal := s.runAlive t fun u => u.probeTimeout ctx
/-- BASIN_FAULT (R323): in HELD too, where the basins are IDLE (Table 14.11). -/
def execBasinFault (t b : Nat) (s : State) : Host.Outcome State Fault Refusal :=
  s.run t fun u => if (u.power == .held || u.power == .up) && u.faultCause.isNone then u.basinFault b else u
/-- PARTITION_CLOSE_COMPLETE (R341). -/
def execPartitionCloseComplete (t p : Nat) (s : State) : Host.Outcome State Fault Refusal :=
  s.runAlive t fun u => u.closeComplete p

end Sys2Proof.Machine
end

