-- ==== Sys2Proof/Machine/Flags.lean ====
section
/-! DEFINITION. The checks that decide a command's status: which command is next (spec 14 R315), the five checks of its
decision point in their order (R314, 15 R332, R334, Table 15.2), host buffers (R333), and completing, at once or
deferred (R335, 18 R426). -/

namespace Sys2Proof.Machine

/-! ### Which command is next (R301, R310, R315) -/

/-- Bytes of the command slot of index `i` of mailbox (f, m). -/
def State.commandBytes (s : State) (f m i : Nat) : Bytes := memRead (s.mailbox f m).commands (64 * (i % 256)) 64

/-- The opcodes that act on a task slot, with the argument byte that names the basin (R301). -/
def slotOpcode : Nat → Option Nat
  | 0x0302 | 0x0401 | 0x0403 | 0x0404 | 0x0405 => some 8
  | 0x0706 => some 9
  | _ => none

/-- A command waits for stage 8 of a still: it acts on a slot of a partition whose still is running (R301). -/
def State.heldByStill (s : State) (c : Bytes) : Bool :=
  match slotOpcode (fieldB c 0 2) with
  | none => false
  | some i => match s.partitionOf (fieldB c i 1) with
    | some p => (s.partition p).stillPhase != .idle
    | none => false

/-- Mailbox (f, m) has a command that can reach its decision point. -/
def State.commandWaits (s : State) (f m : Nat) : Bool :=
  let x := s.mailbox f m
  x.head != x.tail && !s.heldByStill (s.commandBytes f m x.head.toNat)

/-- Mailboxes 1 to 3 in function-major order, as f × 3 + (m − 1). -/
def turnOf (x : Nat × Nat) : Nat := 3 * x.1 + (x.2 - 1)

/-- The mailbox whose command is next: every mailbox 0 first, then round-robin after the pair served last (R315). -/
def State.nextCommand (s : State) : Option (Nat × Nat) :=
  match (List.range 9).find? fun f => s.commandWaits f 0 with
  | some f => some (f, 0)
  | none =>
    ((List.range 27).map fun i => (turnOf s.lastServed + 1 + i) % 27).findSome? fun i =>
      if s.commandWaits (i / 3) (i % 3 + 1) then some (i / 3, i % 3 + 1) else none

/-! ### The checks (R314, R332, R334) -/

/-- What Table 15.2 and the argument tables say of an opcode. -/
structure CmdSpec where
  opcode : Nat
  states : DevState → Bool
  /-- Only the physical function may issue it. -/
  physical : Bool := false
  /-- The argument byte that names an open partition. -/
  part : Option Nat := none
  /-- The named basins, from the 64 bytes. -/
  basins : Bytes → List Nat := fun _ => []
  basinOk : BasinState → Bool := fun _ => true
  /-- The named CXL ports. -/
  ports : Bytes → List Nat := fun _ => []
  /-- What else the states of the named partitions and units must be, in the view of a function (R334). -/
  unitsOk : State → Nat → Bytes → Bool := fun _ _ _ => true
  /-- What else a virtual function must observe. -/
  may : Nat → Bytes → Bool := fun _ _ => true
  /-- Argument bytes that a layout names: (offset, length). -/
  fields : List (Nat × Nat) := []
  /-- Flag bytes with the bits they use. -/
  flags : List (Nat × Nat) := []

/-- H, R, U, S and F of Table 15.2. -/
def inRUS (d : DevState) : Bool := d == .ready || d == .running || d == .service
/-- US. -/
def inUS (d : DevState) : Bool := d == .running || d == .service
/-- HRUS. -/
def inHRUS (d : DevState) : Bool := d == .held || inRUS d
/-- HRUSF. -/
def inHRUSF (d : DevState) : Bool := d == .fault || inHRUS d

/-- Basins named by the bits of argument byte `i`. -/
def maskBasins (i : Nat) (c : Bytes) : List Nat := (List.range 8).filter fun b => bit (fieldB c i 1) b

/-- The basin named by argument byte `i`; a number beyond R9 names no unit. -/
def oneBasin (i : Nat) (c : Bytes) : List Nat := if fieldB c i 1 < 8 then [fieldB c i 1] else []

/-- Function `f` is a virtual function whose partition is not open (R305). -/
def State.closedFunction (s : State) (f : Nat) : Bool := f != 0 && !(s.partition (f - 1)).isOpen

/-- Step 3 examines port `q` for function `f`: a virtual function's own ports only (R334). -/
def State.examinesPort (s : State) (f q : Nat) : Bool := q < 8 && (f == 0 || s.holdsPort (f - 1) q)

/-- The partitions, basins and CXL ports of a state: all that step 3 examines beside the device state (R334). -/
def State.unitsOnly (s : State) : State := { State.reset with partitions := s.partitions, basins := s.basins, cxl := s.cxl }

/-- Step 3: the present states permit the command. Through a virtual function only its own units are examined (R334). -/
def State.statesPermit (s : State) (f : Nat) (k : CmdSpec) (c : Bytes) : Bool :=
  k.states s.devState && !s.closedFunction f &&
    (match k.part with
      | some i => let p := fieldB c i 1
                  7 < p || (f != 0 && p != f - 1) || (s.partition p).isOpen
      | none => true) &&
    ((k.basins c).all fun b => (f != 0 && !s.holdsBasin (f - 1) b) || k.basinOk (s.basin b).state) &&
    k.unitsOk s.unitsOnly f c

/-- Step 4: the function may issue it. -/
def State.functionMay (s : State) (f : Nat) (k : CmdSpec) (c : Bytes) : Bool :=
  f == 0 || (!k.physical && k.may f c &&
    (match k.part with
      | some i => fieldB c i 1 == f - 1
      | none => true) &&
    ((k.basins c).all fun b => s.holdsBasin (f - 1) b) &&
    (k.ports c).all fun p => s.holdsPort (f - 1) p)

/-- Argument bytes 8 to 63 that no layout names are 0, and so are the unused bits of flag bytes (R332). -/
def reservedZero (k : CmdSpec) (c : Bytes) : Bool :=
  ((List.range 56).map (· + 8)).all (fun i =>
    (k.fields.any fun x => x.1 ≤ i && i < x.1 + x.2) || (k.flags.any fun x => x.1 == i) || fieldB c i 1 == 0) &&
    k.flags.all fun x => fieldB c x.1 1 &&& x.2 == fieldB c x.1 1

/-- Steps 2 to 4, and the first condition of step 5. -/
def State.gate (s : State) (f : Nat) (k : CmdSpec) (c : Bytes) : Option Status :=
  if !allZero (sliceB c 4 4) then some .badArgument
  else if !s.statesPermit f k c then some .stateRefused
  else if !s.functionMay f k c then some .notPermitted
  else if !reservedZero k c then some .badArgument
  else none

/-! ### The decision point -/

/-- The ticket of the command with bytes `c` at index `i` of mailbox (f, m). -/
def ticketOf (f m : Nat) (i : BitVec 16) (c : Bytes) : Ticket :=
  { fn := f, mb := m, index := i, opcode := BitVec.ofNat 16 (fieldB c 0 2), tag := BitVec.ofNat 16 (fieldB c 2 2) }

/-- The head command of mailbox (f, m) leaves the mailbox at its decision point (R309, R315). -/
def State.takeCommand (s : State) (f m : Nat) : State :=
  let s := s.modMailbox f m fun x => { x with head := x.head + 1 }
  let s := s.refreshOldest f m
  if m = 0 then s else { s with lastServed := (f, m) }

/-- Run `go` at the decision point of mailbox (f, m) when its command is next and satisfies `isOp`. -/
def State.decide (s : State) (f m : Nat) (isOp : Nat → Bool) (go : State → Ticket → Bytes → State) : State :=
  if s.answers && s.nextCommand == some (f, m) then
    let i := (s.mailbox f m).head
    let c := s.commandBytes f m i.toNat
    if isOp (fieldB c 0 2) then go (s.takeCommand f m) (ticketOf f m i c) c else s
  else s

/-- A command of an opcode: the gate, then its own conditions and effect. -/
def State.command (s : State) (f m : Nat) (k : CmdSpec) (go : State → Ticket → Bytes → State) : State :=
  s.decide f m (· == k.opcode) fun s t c =>
    match s.gate f k c with
    | some st => s.respond t st []
    | none => go s t c

/-- An immediate final response. -/
def State.reply (s : State) (t : Ticket) (st : Status) (result : Bytes := []) : State := s.respond t st result

/-- A firmware switch is open: commands that would complete deferred are answered BUSY (R426). -/
def State.switchOpen (s : State) : Bool :=
  s.opens.any fun o => match o.kind with
    | .firmwareSwitch .. => true
    | _ => false

/-- ACCEPTED: the command stays open (R335). It acts at its decision point, so the response shows the states that its own
act left (R312, R315). -/
def State.accept (s : State) (t : Ticket) (k : OpenKind) (go : State → State) : State :=
  if s.switchOpen then s.reply t .busy else (go (s.openCommand t k)).respond t .accepted []

/-! ### Host buffers (R333) -/

/-- Address and length of the buffer reference at `off`; none when it is not legal (Table 15.1). -/
def bufferAt (c : Bytes) (off : Nat) : Option (Nat × Nat) :=
  let a := fieldB c off 8
  let n := fieldB c (off + 8) 4
  if a % 64 == 0 && 1 ≤ n && n ≤ 2 ^ 31 && fieldB c (off + 12) 4 == 0 then some (a, n) else none

/-- Read an input buffer whose length passes a test, and go on with its bytes. -/
def State.withInput (s : State) (t : Ticket) (c : Bytes) (off : Nat) (len : Nat → Bool) (buf : Option Bytes)
    (go : Bytes → State) : State :=
  match bufferAt c off with
  | none => s.reply t .badArgument
  | some (_, n) =>
    if !len n then s.reply t .badArgument
    else
      match buf with
      | none => s.reply t .hardwareFault
      | some bs => go (sliceB bs 0 n)

/-- Write an output buffer and complete: too short gives BAD_ARGUMENT with the length needed. -/
def State.withOutput (s : State) (t : Ticket) (c : Bytes) (off : Nat) (out : Bytes) (outOk : Bool) (result : Bytes) : State :=
  match bufferAt c off with
  | none => s.reply t .badArgument
  | some (a, n) =>
    if n < out.length then s.reply t .badArgument (toLE 4 out.length)
    else if !outOk then s.reply t .hardwareFault
    else ({ s with hostWrites := s.hostWrites ++ [(a, out)] } : State).reply t .done result

/-- The opcodes of Table 15.2. -/
def opcodeDefined (o : Nat) : Bool :=
  [0x0101, 0x0102, 0x0103, 0x0201, 0x0202, 0x0301, 0x0302, 0x0303, 0x0304, 0x0401, 0x0402, 0x0403, 0x0404, 0x0405,
    0x0501, 0x0502, 0x0601, 0x0602, 0x0603, 0x0604, 0x0605, 0x0606, 0x0607, 0x0608, 0x0701, 0x0702, 0x0703, 0x0704,
    0x0705, 0x0706, 0x0801, 0x0802, 0x0803, 0x0804, 0x0901, 0x0902, 0x0A01, 0x0A02, 0x0A03, 0x0A04, 0x0A05, 0x0A06,
    0x0A07].contains o

/-- UNDEFINED_OPCODE (R314). -/
def execUndefinedOpcode (t fn mb : Nat) (s : State) : Host.Outcome State Fault Refusal :=
  s.run t fun u => u.decide fn mb (fun o => !opcodeDefined o) fun u x _ => u.reply x .badOpcode

end Sys2Proof.Machine
end

