-- ==== Sys2Proof/Machine/Links.lean ====
section
/-! DEFINITION. Folham sub-ports and the router (spec 11 R229 to R243, R254 to R256; 02 R44, R47): frames and their
retry, arbitration, link credit, routing, retraining. -/

namespace Sys2Proof.Machine

/-! ### Ports and sub-ports (R229) -/

/-- Sub-ports of a port in a mode: 1, 2 or 4 (Table 11.1). -/
def modeSubs (mode : Nat) : Nat := 2 ^ mode

/-- Lanes of a sub-port of a port in a mode. -/
def modeLanes (mode : Nat) : Nat := 8 / 2 ^ mode

/-- Sub-port `i` exists in its port's mode (R229). -/
def State.subExists (s : State) (i : Nat) : Bool := i < 48 && i % 4 < modeSubs (s.portModes.getD (i / 4) 0)

/-- Sub-port `i` exists, and its port is in service (R20). -/
def State.subServes (s : State) (i : Nat) : Bool := s.subExists i && !s.portFailed.getD (i / 4) false

/-- The mask bits of a route entry name only sub-ports that exist (R240). -/
def State.maskLegal (s : State) (m : Nat) : Bool := (List.range 48).all fun i => !bit m i || s.subExists i

/-- Stream index of a class and VC. -/
def streamIx (cls vc : Nat) : Nat := 2 * cls + vc

/-! ### Frames (Tables 11.2, 11.3) -/

/-- Payload bytes of a frame. -/
def framePayload : Nat := 630

/-- Link credit of one data frame, in 256-byte units (assumption 31). -/
def frameUnits : Nat := 3

/-- A frame header with its HeaderCheck. -/
def frameHeader (seq ack kind cls vc first creditFor creditCount : Nat) : Nat :=
  let h := seq % 4096 * 2 ^ 52 + ack % 4096 * 2 ^ 40 + kind * 2 ^ 38 + cls * 2 ^ 36 + vc * 2 ^ 35 + first * 2 ^ 25 +
    creditFor * 2 ^ 22 + creditCount * 2 ^ 16
  h + headerCheck (h / 65536)

/-- A frame's bytes 0 to 641. -/
def frameBytes (header : Nat) (payload : Bytes) : Bytes :=
  let b := toLE 8 header ++ payload ++ zeros (framePayload - payload.length)
  b ++ toLE 4 (crc32 b)

/-- The HeaderCheck of a received frame passes. -/
def headerOk (raw : Bytes) : Bool := fieldB raw 0 8 % 65536 == headerCheck (fieldB raw 0 8 / 65536)

/-- The CRC-32 of a received frame passes. -/
def crcOk (raw : Bytes) : Bool := fieldB raw 638 4 == crc32 (sliceB raw 0 638)

/-- Kind of a received frame. -/
def frameKind (raw : Bytes) : Nat := bits (fieldB raw 0 8) 39 38

/-! ### Queues of a sub-port -/

/-- Bytes queued for a class and VC (R242). -/
def SubPort.queued (x : SubPort) (cls vc : Nat) : Nat :=
  ((x.outgoing.filter fun m => m.msg.cls == cls && m.vc == vc).map (·.toSend)).sum

/-- TC0 messages injected through port `p` in the last 1 µs: (time, source) (R47). -/
def State.meterOf (s : State) (p : Nat) : List (Nat × Nat) := (s.portMeters.getD p []).filter fun e => s.time < e.1 + 1000

/-- A TC0 message of the same source and destination waits in the sub-port's excess queue: a later one stays behind it
(R48). Returns wait there too, and hold nothing back. -/
def SubPort.excessAhead (x : SubPort) (m : Msg) : Bool :=
  x.outgoing.any fun y => y.excess && y.firstSeq.isNone && y.msg.type != 1 && y.msg.src == m.src && y.msg.dst == m.dst

/-- Hand a message to a sub-port on a VC: it crosses one more link, and a TC0 message is metered; the fifth and later
ones of a source in 1 µs go to the excess queue (R47, R237). Returns are not metered, and are queued there (R247). -/
def State.enqueue (s : State) (i : Nat) (m : Msg) (vc routerVc : Nat) (origin : Option HeldInput) : State :=
  let metered := m.cls == 0 && m.type != 1
  let beyond := metered && 4 ≤ ((s.meterOf (i / 4)).filter fun e => e.2 == m.src).length
  let excess := beyond || (metered && (s.sub i).excessAhead m) || (m.cls == 0 && m.type == 1)
  let m := { m with hops := m.hops + 1 }
  let s := if beyond then s.bumpFolham (i / 4) 0 else s
  let s : State := if metered then { s with portMeters := s.portMeters.set (i / 4) (s.meterOf (i / 4) ++ [(s.time, m.src)]) } else s
  s.modSub i fun x =>
    { x with outgoing := x.outgoing ++
        [{ msg := m, vc := vc, routerVc := routerVc, excess := excess, toSend := m.bytes.length, origin := origin }] }

/-! ### Receive buffer and link credit (R238) -/

/-- Units of 256 bytes of a port's buffer, and of the part reserved for each class and VC of a sub-port (R238). -/
def portUnits : Nat := 2048
/-- The reserved part. -/
def reservedUnits : Nat := 64

/-- Free `n` bytes of receive buffer: the stream, and the link credit units that become due; what it holds of the shared
buffer goes back first (R238). -/
def Stream.free (x : Stream) (n : Nat) : Stream × Nat :=
  let f := x.freed + n
  let u := f / framePayload * frameUnits
  ({ x with freed := f % framePayload, borrowed := x.borrowed - u }, u - x.borrowed)

/-- Change one receive stream and take up the credit of freed bytes. -/
def SubPort.putStream (x : SubPort) (ix : Nat) (y : Stream) (freed : Nat) : SubPort :=
  let (y, u) := y.free freed
  { x with rx := x.rx.set ix y, creditOwed := x.creditOwed.modify ix (· + u) }

/-- Units of a port's shared buffer that are not in use: its sub-ports' reserved parts taken off, the rest is shared. -/
def State.sharedRoom (s : State) (p : Nat) : Nat :=
  portUnits - 8 * reservedUnits * modeSubs (s.portModes.getD p 0) -
    ((List.range 4).map fun j => ((s.sub (4 * p + j)).rx.map (·.borrowed)).sum).sum

/-- A frame accepted into a stream takes shared buffer while there is room, so that its credit goes back at once. How the
shared rest is handed out is not stated (DESIGN CHOICE, assumption 31). -/
def SubPort.borrow (x : SubPort) (ix room : Nat) : SubPort :=
  if frameUnits ≤ room then
    { x with rx := x.rx.modify ix fun y => { y with borrowed := y.borrowed + frameUnits }
             creditOwed := x.creditOwed.modify ix (· + frameUnits) }
  else x

/-- The receive buffer that a message took up is freed. -/
def State.freeInput (s : State) (o : Option HeldInput) : State :=
  match o with
  | some h => s.modSub h.sp fun x => x.putStream h.ix (x.rx.getD h.ix {}) h.bytes
  | none => s

/-! ### Routing (R239 to R243) -/

/-- The route entry for a destination other than this device, if its Valid is 1. -/
def State.routeFor (s : State) (dst : Nat) : Option RouteEntry :=
  let e := if dst / 64 = s.deviceId / 64 then s.router.memberTable.getD (dst % 64) {} else s.router.groupTable.getD (dst / 64) {}
  if dst < 16384 && e.valid then some e else none

/-- Eligible candidates of a message on `vc`: (sub-port, VC it then travels on), Stay before Up, ascending (R241). -/
def State.candidates (s : State) (e : RouteEntry) (vc : Nat) : List (Nat × Nat) :=
  let up (i : Nat) : Bool := (s.sub i).state == .up
  (((List.range 48).filter fun i => e.stay.getLsbD i && up i).map fun i => (i, vc)) ++
    (if vc = 0 then ((List.range 48).filter fun i => e.up.getLsbD i && !e.stay.getLsbD i && up i).map fun i => (i, 1) else [])

/-- The candidate that R242 or R243 takes. -/
def State.pick (s : State) (cls : Nat) (cs : List (Nat × Nat)) : Option (Nat × Nat) :=
  if cls = 0 then cs.head?
  else
    let load (c : Nat × Nat) : Nat := (s.sub c.1).queued cls c.2
    let best := cs.foldl (fun m c => min m (load c)) ((cs.head?.map load).getD 0)
    let tied := cs.filter fun c => load c == best
    let last := s.router.lastChoice.getD 47
    let key (c : Nat × Nat) : Nat := (c.1 + 47 - last) % 48
    tied.foldl (fun (b : Option (Nat × Nat)) c =>
      match b with
      | some y => if key c < key y then some c else b
      | none => some c) none

/-- Send a message on towards another device: through a candidate, or it waits for one (R243); without a route it is
discarded (R239). -/
def State.route (s : State) (m : Msg) (vc : Nat) (origin : Option HeldInput) : State :=
  match s.routeFor m.dst with
  | none => (s.freeInput origin).bumpDevice cNoRoute
  | some e =>
    match s.pick m.cls (s.candidates e vc) with
    | some (i, v) =>
      let s := s.enqueue i m v vc origin
      if m.cls = 0 then s else { s with router := { s.router with lastChoice := some i } }
    | none => { s with router := { s.router with waiting := s.router.waiting ++ [⟨m, vc, s.time, origin⟩] } }

/-- Messages that waited for a candidate are routed again when one may have become eligible (R243). -/
def State.retryWaiting (s : State) : State :=
  let ws := s.router.waiting
  let s := { s with router := { s.router with waiting := [] } }
  ws.foldl (fun (s : State) w =>
    let ok := match s.routeFor w.msg.dst with
      | some e => !(s.candidates e w.vc).isEmpty
      | none => false
    if ok then s.route w.msg w.vc w.origin else { s with router := { s.router with waiting := s.router.waiting ++ [w] } }) s

/-- A message at the router (R237, R239): Dst decides, and one above 16,383 has no route; `fromLink` messages with Hops 15
are discarded. -/
def State.atRouter (s : State) (m : Msg) (vc : Nat) (fromLink : Bool) (origin : Option HeldInput) : State :=
  if fromLink && m.hops == 15 then (s.freeInput origin).bumpDevice cHopLimit
  else if m.dst == s.deviceId && m.dst < 16384 then (s.freeInput origin).deliver m
  else s.route m vc origin

/-! ### Receive streams (R232, R235) -/

/-- The boundary after the last whole message of a stream; padding is no message. -/
def lastBoundary : Nat → Nat → Bytes → Nat
  | 0, off, _ => off
  | n + 1, off, bs =>
    if bs.length < 16 || allZero (bs.take 4) then off
    else
      let l := msgLength bs
      if bs.length < l then off else lastBoundary n (off + l) (bs.drop l)

/-- Drop the padding that follows the last message of a frame whose stream ran dry: zeros from a boundary on, which no
header can be, since a message on a link has Dst other than Src. -/
def Stream.trim (x : Stream) (low : Nat) : Stream × Nat :=
  let b := lastBoundary (x.bytes.length / 16 + 1) 0 x.bytes
  let tail := x.bytes.drop b
  if low ≤ b && 4 ≤ tail.length && allZero tail then ({ x with bytes := x.bytes.take b }, tail.length) else (x, 0)

/-- Take up the payload of an accepted frame: the stream, and the bytes that were dropped. A frame accepted poisoned
carries no header that can be used (R235). -/
def Stream.accept (x : Stream) (payload : Bytes) (first : Nat) (poisoned : Bool) : Stream × Nat :=
  let b := lastBoundary (x.bytes.length / 16 + 1) 0 x.bytes
  let starts := first < framePayload
  -- a partial message cannot go on when a header stands at the frame's start
  let cut := starts && first == 0
  let base := if cut then x.bytes.take b else x.bytes
  let dropped := x.bytes.length - base.length
  if poisoned then
    let partialHeader := base.length - b < 24 && b < base.length
    let keep := if x.resync || partialHeader || b == base.length then 0 else if starts then first else payload.length
    let base := if partialHeader then base.take b else base
    ({ x with bytes := base ++ payload.take keep, resync := starts || keep == 0
              poison := if keep = 0 then x.poison else x.poison ++ [(base.length, keep)] },
      x.bytes.length + payload.length - base.length - keep)
  else if x.resync then
    if starts then
      let y : Stream := { x with bytes := base.take b ++ payload.drop first, resync := false }
      let (y, n) := y.trim b
      (y, x.bytes.length + payload.length - y.bytes.length - n + n)
    else (x, payload.length)
  else
    let y : Stream := { x with bytes := base ++ payload }
    let (y, n) := y.trim base.length
    (y, dropped + n)

/-- The first message of a stream, if it has arrived whole, the stream after it, the message's length, and whether it fails
its CRC-32C. Poisoned units of its payload are marked, all of them after such a failure; a message whose place cannot be
read, or that has no mask, is dropped (R220, R235). -/
def Stream.front (x : Stream) : Option (Option Msg × Stream × Nat × Bool) :=
  if x.bytes.length < 16 then none
  else
    let l := msgLength x.bytes
    if x.bytes.length < l then none
    else
      let m := msgOf (x.bytes.take l)
      let hit (a n : Nat) : Bool := x.poison.any fun p => rangesMeet p (a, n)
      let off := if m.cls = 0 then 16 else 24
      let mask := (List.range 16).foldl (fun acc j =>
        if hit (off + 256 * j) (min 256 (m.payload.length - 256 * j)) then acc ||| 2 ^ j else acc) m.poisonMask
      let crcBad := m.cls != 0 && !hit 0 l && fieldB x.bytes (l - 4) 4 != crc32c (sliceB x.bytes 24 (l - 28))
      let mask := if crcBad then 2 ^ ceilDiv m.payload.length 256 - 1 else mask
      let keep := !hit 0 off && !(m.cls == 0 && hit 0 l)
      let rest : Stream :=
        { x with bytes := x.bytes.drop l
                 poison := x.poison.filterMap fun p =>
                   if p.1 + p.2 ≤ l then none else some (p.1 - l, p.2 - (l - p.1)) }
      some (if keep then some { m with poisonMask := mask } else none, rest, l, crcBad)

/-- The messages of a stream that have arrived whole. -/
def Stream.wholes : Nat → Stream → List (Msg × Bool)
  | 0, _ => []
  | n + 1, x =>
    match x.front with
    | none => []
    | some (m, rest, _, bad) => (m.toList.map fun y => (y, bad)) ++ Stream.wholes n rest

/-- A message for this device that failed its CRC-32C is counted in the lowest basin of its partition, which the
specification leaves open (R228; DESIGN CHOICE, assumption 62). -/
def State.noteMsgCrc (s : State) (m : Msg) (bad : Bool) : State :=
  if bad && m.dst == s.deviceId then
    match (List.range 8).find? fun b => s.holdsBasin m.part b with
    | some b => (s.bumpBasin b cXferPoison).raise 8 b
    | none => s
  else s

/-! ### Leaving UP (R255, R256) -/

/-- The state of a sub-port with its link state cleared. -/
def SubPort.restart (x : SubPort) (st : SubState) : SubPort :=
  { x with state := st, lanes := 0, txSeq := 0, lastSent := 4095, replay := [], resendFrom := none, outgoing := [], framesSent := 0
           nakOwed := false, credit := List.replicate 8 64, creditOwed := List.replicate 8 0, rxNext := 0
           rx := List.replicate 8 {}, crcFails := 0, hdrFails := 0, hdrFailsRow := 0, crcTimes := [] }

/-- Messages that came through sub-port `i` take up no buffer of it any more: its link starts anew. -/
def State.forgetInput (s : State) (i : Nat) : State :=
  let clear (o : Option HeldInput) : Option HeldInput := o.filter fun h => h.sp != i
  { s with subPorts := s.subPorts.map fun (x : SubPort) =>
             { x with outgoing := x.outgoing.map fun (m : PortMsg) => { m with origin := clear m.origin } }
           router := { s.router with waiting := s.router.waiting.map fun (w : WaitingMsg) => { w with origin := clear w.origin } } }

/-- A sub-port leaves UP, or is trained anew: messages that arrived whole are at the router, partly received ones are
dropped, and its own messages go back to the router in order, each on the VC it had there (R256). -/
def State.leaveUp (s : State) (i : Nat) (st : SubState) : State :=
  let s := s.forgetInput i
  let x := s.sub i
  let whole := (List.range 8).flatMap fun ix =>
    let y := x.rx.getD ix {}
    (Stream.wholes (y.bytes.length / 16 + 1) y).map fun m => (m, ix % 2)
  let s := s.modSub i fun x => x.restart st
  let s := whole.foldl (fun (s : State) m => (s.noteMsgCrc m.1.1 m.1.2).atRouter m.1.1 m.2 true none) s
  x.outgoing.foldl (fun (s : State) m => s.route { m.msg with hops := m.msg.hops - 1 } m.routerVc m.origin) s

/-- A trigger of R255 on a sub-port in UP. -/
def State.retrain (s : State) (i : Nat) : State :=
  if (s.sub i).state == .up then (s.leaveUp i .retraining).modSub i fun x => { x with attempts := 0 } else s

/-! ### Sending frames (R232, R234, R238) -/

/-- The message that a class and VC sends next: the one it has begun, or else compliant TC0 before excess, oldest
first. -/
def SubPort.nextMsg (x : SubPort) (cls vc : Nat) : Option PortMsg :=
  let ms := x.outgoing.filter fun m => m.msg.cls == cls && m.vc == vc && 0 < m.toSend
  match ms.find? fun m => m.lastSeq.isSome with
  | some m => some m
  | none =>
    match ms.find? fun m => !m.excess with
    | some m => some m
    | none => ms.head?

/-- Put `y` in the place of the first `x`. -/
def replaceFirst (x y : PortMsg) : List PortMsg → List PortMsg
  | [] => []
  | z :: zs => if z == x then y :: zs else z :: replaceFirst x y zs

/-- Fill the rest of a frame of number `seq` from a class and VC: the payload and First. -/
def fillFrame : Nat → SubPort → Nat → Nat → Nat → Bytes → Nat → SubPort × Bytes × Nat
  | 0, x, _, _, _, acc, first => (x, acc, first)
  | fuel + 1, x, cls, vc, seq, acc, first =>
    if framePayload ≤ acc.length then (x, acc, first)
    else
      match x.nextMsg cls vc with
      | none => (x, acc, first)
      | some m =>
        let bs := m.msg.bytes
        let part := (bs.drop (bs.length - m.toSend)).take (framePayload - acc.length)
        let first := if m.lastSeq.isNone && first == 0x3FF then acc.length else first
        let m' := { m with toSend := m.toSend - part.length, firstSeq := m.firstSeq.or (some seq), lastSeq := some seq }
        let x := { x with outgoing := replaceFirst m m' x.outgoing }
        fillFrame fuel x cls vc seq (acc ++ part) first

/-- The buffers that messages framed to their last byte took up, and the messages without them. -/
def SubPort.framedInputs (x : SubPort) : List HeldInput × SubPort :=
  (x.outgoing.filterMap fun m => if m.toSend = 0 then m.origin else none,
    { x with outgoing := x.outgoing.map fun m => if m.toSend = 0 then { m with origin := none } else m })

/-- A class and VC has bytes to send and link credit for a frame. -/
def SubPort.ready (x : SubPort) (cls vc : Nat) : Bool :=
  (x.nextMsg cls vc).isSome && frameUnits ≤ x.credit.getD (streamIx cls vc) 0

/-- A VC of TC0 has a message that is neither excess nor a return. -/
def SubPort.compliant (x : SubPort) (vc : Nat) : Bool :=
  x.outgoing.any fun m => m.msg.cls == 0 && m.vc == vc && 0 < m.toSend && !m.excess

/-- VC of a class that is ready; of TC0 one with compliant messages first (R47, R247). Which VC of a class goes first when
both are ready is not stated: VC0 does (DESIGN CHOICE, assumption 62). -/
def SubPort.readyVc (x : SubPort) (cls : Nat) : Option Nat :=
  match [0, 1].find? fun vc => cls == 0 && x.ready 0 vc && x.compliant vc with
  | some vc => some vc
  | none => [0, 1].find? (x.ready cls)

/-- The class that Table 2.5 serves of those that are ready: TC0, then TC1 and TC2 3 : 1 by the bytes served of each, then
TC3 (R44). -/
def servedClass (served1 served2 : Nat) (ready : Nat → Bool) : Option Nat :=
  if ready 0 then some 0
  else if ready 1 && ready 2 then some (if served1 ≤ 3 * served2 then 1 else 2)
  else [1, 2, 3].find? ready

/-- The bytes served after `n` more of a class; they count while TC1 and TC2 are both ready (R44). -/
def servedAfter (served1 served2 : Nat) (ready : Nat → Bool) (cls n : Nat) : Nat × Nat :=
  if ready 1 && ready 2 then (if cls = 1 then served1 + n else served1, if cls = 2 then served2 + n else served2) else (0, 0)

/-- Arbitration of Table 2.5 on a sub-port: class and VC of the next frame. -/
def SubPort.arbitrate (x : SubPort) : Option (Nat × Nat) :=
  (servedClass x.served1 x.served2 fun c => (x.readyVc c).isSome).bind fun c => (x.readyVc c).map fun v => (c, v)

/-- The link credit that the next frame returns: (CreditFor, CreditCount), and the credit still owed (R238). -/
def SubPort.creditReturn (x : SubPort) : Nat × Nat × List Nat :=
  match (List.range 8).find? fun i => 0 < x.creditOwed.getD i 0 with
  | some i =>
    let n := min 63 (x.creditOwed.getD i 0)
    (i, n, x.creditOwed.modify i (· - n))
  | none => (0, 0, x.creditOwed)

/-- Ack and Kind of the next data frame: a NAK names the awaited frame, else the last accepted one (R234). -/
def SubPort.ackKind (x : SubPort) : Nat × Nat :=
  if x.nakOwed then (x.rxNext % 4096, 1) else ((x.rxNext + 4095) % 4096, 0)

/-- Put a data frame on the wire. -/
def SubPort.transmit (x : SubPort) (f : SentFrame) : SubPort :=
  let (ack, kind) := x.ackKind
  let (cf, cc, owed) := x.creditReturn
  { x with sent := frameBytes (frameHeader f.seq ack kind f.cls f.vc f.first cf cc) f.payload, creditOwed := owed
           nakOwed := false, framesSent := x.framesSent + 1, lastSent := f.seq }

/-- A frame without data: control (Kind 2) or idle (Kind 3), with the number of the last data frame sent. -/
def SubPort.transmitPlain (x : SubPort) (kind : Nat) (payload : Bytes) : SubPort :=
  let (cf, cc, owed) := x.creditReturn
  { x with sent := frameBytes (frameHeader x.lastSent ((x.rxNext + 4095) % 4096) kind 0 0 0x3FF cf cc) payload
           creditOwed := owed, framesSent := x.framesSent + 1 }

/-- TC0 messages that a frame carries bytes of and that TC0_RETRY2 has not counted yet (R48). -/
def SubPort.inFrame (x : SubPort) (f : SentFrame) : List PortMsg :=
  x.outgoing.filter fun m => m.msg.cls == 0 && m.vc == f.vc && !m.retry2 && (m.firstSeq == some f.seq || m.lastSeq == some f.seq)

/-- TC0_RETRY2 has counted messages. -/
def SubPort.countRetry2 (x : SubPort) (ms : List PortMsg) : SubPort :=
  { x with outgoing := x.outgoing.map fun m => if ms.contains m then { m with retry2 := true } else m }

/-- A new data frame of a class and VC goes on the wire and into the replay buffer; it takes link credit (R234, R238). -/
def SubPort.transmitNew (x : SubPort) (cls vc first : Nat) (payload : Bytes) : SubPort :=
  let f : SentFrame := { seq := x.txSeq, cls := cls, vc := vc, first := first, payload := payload, sends := 1 }
  { x.transmit f with txSeq := (x.txSeq + 1) % 4096, replay := x.replay ++ [f], resendFrom := none
                      credit := x.credit.modify (streamIx cls vc) (· - frameUnits) }

/-- A stream with link credit for a frame and no message begun and unfinished: an empty frame may go there. -/
def SubPort.restStream (x : SubPort) : Option Nat :=
  (List.range 8).reverse.find? fun ix => frameUnits ≤ x.credit.getD ix 0 &&
    !x.outgoing.any fun m => streamIx m.msg.cls m.vc == ix && m.firstSeq.isSome && 0 < m.toSend

/-- FRAME_SEND: the next frame of a sub-port in UP, unless a control frame is due: a frame to be sent again first, then
the stream that arbitration chooses, an idle frame when there is nothing to send (R232, R234). A NAK that is owed while
there is no data goes out with an empty data frame, of a stream that has link credit and no message begun (R238). -/
def State.sendFrame (s : State) (i : Nat) : State :=
  let x := s.sub i
  if x.state != .up || x.framesSent % 256 == 255 then s
  else
    match x.resendFrom.bind fun q => x.replay.find? fun f => f.seq == q with
    | some f =>
      let f := { f with sends := f.sends + 1 }
      let last := x.replay.all fun g => !serialLater 12 g.seq f.seq
      let twice := if f.cls = 0 && f.sends = 3 then x.inFrame f else []
      let s := s.bumpFolham (i / 4) 1 twice.length
      s.modSub i fun x =>
        { (x.countRetry2 twice).transmit f with replay := x.replay.map (fun g => if g.seq == f.seq then f else g),
                                                resendFrom := if last then none else some ((f.seq + 1) % 4096) }
    | none =>
      let full := 512 ≤ x.replay.length
      match if full then none else x.arbitrate with
      | some (cls, vc) =>
        let (y, payload, first) := fillFrame 700 x cls vc x.txSeq [] 0x3FF
        let served := servedAfter x.served1 x.served2 (fun c => (x.readyVc c).isSome) cls payload.length
        let (done, y) := y.framedInputs
        let s := s.modSub i fun _ => { y.transmitNew cls vc first payload with served1 := served.1, served2 := served.2 }
        done.foldl (fun (s : State) h => s.freeInput (some h)) s
      | none =>
        match if x.nakOwed && !full then x.restStream else none with
        | some ix => s.modSub i fun x => x.transmitNew (ix / 2) (ix % 2) 0x3FF []
        | none => s.modSub i fun x => x.transmitPlain 3 []

/-- CONTROL_FRAME_SEND: every 256th frame slot (R232); the payload's layout is not stated (assumption 14). -/
def State.sendControl (s : State) (i : Nat) : State :=
  let x := s.sub i
  if x.state == .up && x.framesSent % 256 == 255 then
    let payload := (List.range framePayload).map fun j =>
      Config.controlByte s.time x.farTime x.lanes (s.meterOf (i / 4)).length j
    s.modSub i fun x => x.transmitPlain 2 payload
  else s

/-! ### Receiving frames (R234, R235) -/

/-- Acknowledge every frame before number `q`; messages whose frames are all acknowledged leave the sub-port. -/
def SubPort.ackBefore (x : SubPort) (q : Nat) : SubPort :=
  { x with replay := x.replay.filter fun f => !serialLater 12 q f.seq
           outgoing := x.outgoing.filter fun m =>
             !(m.toSend == 0 && match m.lastSeq with
               | some l => serialLater 12 q l
               | none => false) }

/-- What every frame whose HeaderCheck passes tells the sender side: returned credit and, for data frames without a
NAK, the acknowledgement. -/
def SubPort.heard (x : SubPort) (raw : Bytes) : SubPort :=
  let h := fieldB raw 0 8
  let x := { x with credit := x.credit.modify (bits h 24 22) (· + bits h 21 16), hdrFailsRow := 0 }
  if bits h 39 38 = 1 then x.ackBefore (bits h 51 40) else x.ackBefore ((bits h 51 40 + 1) % 4096)

/-- Accept the awaited frame, with `room` units of the port's shared buffer free. -/
def SubPort.acceptFrame (x : SubPort) (raw : Bytes) (poisoned : Bool) (room : Nat) : SubPort :=
  let h := fieldB raw 0 8
  let ix := streamIx (bits h 37 36) (bits h 35 35)
  let (y, n) := (x.rx.getD ix {}).accept (sliceB raw 8 framePayload) (bits h 34 25) poisoned
  { (x.borrow ix room).putStream ix { y with borrowed := ((x.borrow ix room).rx.getD ix {}).borrowed } n with
    rxNext := (x.rxNext + 1) % 4096, crcFails := 0, hdrFails := 0 }

/-- A frame's CRC-32 has failed: more than 64 in 1 ms start a retrain (R255). -/
def State.crcFailed (s : State) (i : Nat) : State :=
  let s := s.modSub i fun x => { x with crcTimes := (x.crcTimes.filter fun u => s.time < u + 1000000) ++ [s.time] }
  if 64 < (s.sub i).crcTimes.length then s.retrain i else s

/-- Link counters: LINK_RETRY, LINK_HDR_FAIL and with them the sounding's link input (R377). -/
def State.linkCount (s : State) (i pos : Nat) : State :=
  ({ s with linkEvents := s.linkEvents ++ [s.time] } : State).bumpFolham (i / 4) pos

/-- A received frame's FEC outcome (R235). -/
def State.noteFec (s : State) (i : Nat) (fec : FecOutcome) : State :=
  let s := if 0 < fec.corrected then s.bumpFolham (i / 4) 4 else s
  if fec.uncorrectable then s.bumpFolham (i / 4) 5 else s

/-- A data frame, with or without a NAK, is received on a sub-port in UP. A frame whose header cannot be read names no
number: it is taken for the awaited frame in the limit of eight failures (DEDUCED, assumption 62). -/
def State.receiveData (s : State) (i : Nat) (raw : Bytes) : State :=
  if !headerOk raw then
    let s := (s.linkCount i 7).modSub i fun x =>
      { x with hdrFails := x.hdrFails + 1, hdrFailsRow := x.hdrFailsRow + 1, nakOwed := true }
    if 8 ≤ (s.sub i).hdrFails || 16 ≤ (s.sub i).hdrFailsRow then s.retrain i else s
  else
    let s := s.modSub i fun x => x.heard raw
    let seq := bits (fieldB raw 0 8) 63 52
    if !crcOk raw then
      let s := (s.modSub i fun x => { x with crcFails := if seq = x.rxNext then x.crcFails + 1 else x.crcFails }).crcFailed i
      if (s.sub i).state != .up then s
      else if seq = (s.sub i).rxNext && 4 ≤ (s.sub i).crcFails then
        ((s.modSub i fun x => x.acceptFrame raw true (s.sharedRoom (i / 4))).bumpFolham (i / 4) 3).raise 8 (0x10 + i / 4)
      else s.modSub i fun x => { x with nakOwed := true }
    else if seq = (s.sub i).rxNext then s.modSub i fun x => x.acceptFrame raw false (s.sharedRoom (i / 4))
    else s.modSub i fun x => { x with nakOwed := true }

/-- DATA_FRAME: a frame of Kind 0, or one whose header cannot be read. -/
def State.dataFrame (s : State) (i : Nat) (raw : Bytes) (fec : FecOutcome) : State :=
  if (s.sub i).state == .up && (!headerOk raw || frameKind raw == 0) then (s.noteFec i fec).receiveData i raw else s

/-- DATA_FRAME_NAK: a frame of Kind 1: its data are received as any other's, and the frames from the named one on are
sent again. -/
def State.nakFrame (s : State) (i : Nat) (raw : Bytes) (fec : FecOutcome) : State :=
  if (s.sub i).state == .up && headerOk raw && frameKind raw == 1 then
    let q := bits (fieldB raw 0 8) 51 40
    let s := ((s.noteFec i fec).receiveData i raw).linkCount i 6
    s.modSub i fun x => { x with resendFrom := if x.replay.isEmpty then none else some q }
  else s

/-- A control or idle frame of a sub-port in UP whose header reads well: `go` when its CRC-32 passes; one that fails is
discarded and counts (R234, R255). -/
def State.plainFrame (s : State) (i kind : Nat) (raw : Bytes) (fec : FecOutcome) (go : SubPort → SubPort) : State :=
  if (s.sub i).state == .up && headerOk raw && frameKind raw == kind then
    let s := s.noteFec i fec
    if crcOk raw then s.modSub i fun x => go (x.heard raw) else s.crcFailed i
  else s

/-- CONTROL_FRAME: Kind 2; neither sequenced nor retried (R232). -/
def State.controlFrame (s : State) (i : Nat) (raw : Bytes) (fec : FecOutcome) : State :=
  let p := sliceB raw 8 framePayload
  s.plainFrame i 2 raw fec fun x =>
    { x with farTime := Config.controlField 0 p, roundTrip := s.time - Config.controlField 1 p
             farLanes := Config.controlField 2 p, farMeter := Config.controlField 3 p }

/-- IDLE_FRAME: Kind 3. -/
def State.idleFrame (s : State) (i : Nat) (raw : Bytes) (fec : FecOutcome) : State := s.plainFrame i 3 raw fec id

/-- The oldest message of a class that waits at the local port. -/
def Router.localNext (r : Router) (cls : Nat) : Option Msg := r.localQueue.find? fun m => m.cls == cls

/-- The next message of the local port, by Table 2.5 (R44), leaves its queue. -/
def Router.takeLocal (r : Router) : Option (Msg × Router) :=
  let ready (c : Nat) : Bool := (r.localNext c).isSome
  match (servedClass r.served1 r.served2 ready).bind r.localNext with
  | none => none
  | some m =>
    let served := servedAfter r.served1 r.served2 ready m.cls m.bytes.length
    some (m, { r with localQueue := r.localQueue.erase m, served1 := served.1, served2 := served.2 })

/-- MESSAGE_FORWARD (R237). A message is forwarded once it has arrived whole: that forwarding begins with its header is a
matter of time (assumption 62). Its receive buffer is freed when it is framed again or delivered, so that a full buffer
holds back its sender (R238). -/
def State.forward (s : State) (src : MsgSource) : State :=
  match src with
  | .localPort =>
    match s.router.takeLocal with
    | none => s
    | some (m, r) => ({ s with router := r } : State).atRouter m 0 false none
  | .port i cls vc =>
    let x := s.sub i
    if x.state != .up then s
    else
      match (x.rx.getD (streamIx cls vc) {}).front with
      | none => s
      | some (m, rest, n, bad) =>
        let ix := streamIx cls vc
        let s := s.modSub i fun x => { x with rx := x.rx.set ix rest }
        match m with
        | some m => (s.noteMsgCrc m bad).atRouter m vc true (some ⟨i, ix, n⟩)
        | none => s.freeInput (some ⟨i, ix, n⟩)

/-! ### Training (R230, R255) -/

/-- Lanes on which a sub-port of `w` lanes comes up, given its failed lanes, or none when it cannot (R230). -/
def lanesUp (w : Nat) (failed : List Nat) : Option Nat :=
  let bad := failed.filter (· < w)
  if bad.isEmpty then some w
  else if w = 2 then none
  else if bad.all (w / 2 ≤ ·) || bad.all (· < w / 2) then some (w / 2)
  else none

/-- A sub-port is being trained. -/
def SubPort.inTraining (x : SubPort) : Bool := x.state == .training || x.state == .retraining

/-- Start training sub-ports: they leave UP first. -/
def State.startTraining (s : State) (is : List Nat) : State :=
  is.foldl (fun (s : State) i => (s.leaveUp i .training).modSub i fun x => { x with attempts := 0 }) s

/-- Sub-ports that an open port command waits for. -/
def State.trainedBy (s : State) : OpenKind → List Nat
  | .portMode p => (List.range (modeSubs (s.portModes.getD p 0))).map (4 * p + ·)
  | .portRetrain i => [i]
  | _ => []

/-- Port commands whose sub-ports have all come up, or one of which failed, complete (R257). -/
def State.finishPortCommands (s : State) : State :=
  s.opens.foldl (fun (s : State) o =>
    let is := s.trainedBy o.kind
    if is.isEmpty then s
    else if is.any fun i => (s.sub i).state == .failed then s.finish o .hardwareFault
    else if is.all fun i => (s.sub i).state == .up then s.finish o .done
    else s) s

/-- TRAINING_COMPLETE: the attempt succeeds (R230, R255). -/
def State.trained (s : State) (i : Nat) (failed : List Nat) : State :=
  let x := s.sub i
  let w := modeLanes (s.portModes.getD (i / 4) 0)
  if x.inTraining && s.subExists i then
    match lanesUp w failed with
    | none => s
    | some l =>
      let s := s.modSub i fun x => { x.restart .up with lanes := l, attempts := 0 }
      let s := if l = w then s else s.raise 11 i
      s.retryWaiting.finishPortCommands
  else s

/-- TRAINING_ATTEMPT_FAILED: after three in a row the sub-port is FAILED (R255). -/
def State.trainingFailed (s : State) (i : Nat) : State :=
  let x := s.sub i
  if x.inTraining && s.subExists i then
    if x.attempts + 1 < 3 then s.modSub i fun x => { x with attempts := x.attempts + 1 }
    else
      let s := s.modSub i fun x => { x with state := .failed, attempts := 0 }
      (s.raise 12 i).finishPortCommands
  else s

/-- ROUTE_WAIT_EXPIRY (R243): the oldest waiting message has waited 1 ms. -/
def State.expireWaiting (s : State) : State :=
  match s.router.waiting with
  | [] => s
  | w :: rest =>
    if w.since + 1000000 ≤ s.time then
      (({ s with router := { s.router with waiting := rest } } : State).freeInput w.origin).bumpDevice cNoRoute
    else s

/-! ### Commands -/

/-- DATA_FRAME (R234). -/
def execDataFrame (t sp : Nat) (raw : Bytes) (fec : FecOutcome) (s : State) : Host.Outcome State Fault Refusal :=
  s.runAlive t fun u => u.dataFrame sp raw fec
/-- DATA_FRAME_NAK (R234). -/
def execDataFrameNak (t sp : Nat) (raw : Bytes) (fec : FecOutcome) (s : State) : Host.Outcome State Fault Refusal :=
  s.runAlive t fun u => u.nakFrame sp raw fec
/-- CONTROL_FRAME (R232). -/
def execControlFrame (t sp : Nat) (raw : Bytes) (fec : FecOutcome) (s : State) : Host.Outcome State Fault Refusal :=
  s.runAlive t fun u => u.controlFrame sp raw fec
/-- IDLE_FRAME (R231). -/
def execIdleFrame (t sp : Nat) (raw : Bytes) (fec : FecOutcome) (s : State) : Host.Outcome State Fault Refusal :=
  s.runAlive t fun u => u.idleFrame sp raw fec
/-- FRAME_SEND (R232). -/
def execFrameSend (t sp : Nat) (s : State) : Host.Outcome State Fault Refusal := s.runAlive t fun u => u.sendFrame sp
/-- CONTROL_FRAME_SEND (R232). -/
def execControlFrameSend (t sp : Nat) (s : State) : Host.Outcome State Fault Refusal :=
  s.runAlive t fun u => u.sendControl sp
/-- MESSAGE_FORWARD (R237). -/
def execMessageForward (t : Nat) (src : MsgSource) (s : State) : Host.Outcome State Fault Refusal :=
  s.runAlive t fun u => u.forward src
/-- ROUTE_WAIT_EXPIRY (R243). -/
def execRouteWaitExpiry (t : Nat) (s : State) : Host.Outcome State Fault Refusal := s.runAlive t fun u => u.expireWaiting
/-- UNDEFINED_TYPE_MESSAGE (R250): discarded, and its credit is returned. -/
def execUndefinedTypeMessage (t : Nat) (s : State) : Host.Outcome State Fault Refusal :=
  s.runAlive t fun u =>
    match u.inboxFind fun m => !typeDefined m.cls m.type with
    | some x => u.take x true
    | none => u
/-- RETURN_SEND (R247): at most one in each 250 ns. -/
def execReturnSend (t ctx : Nat) (s : State) : Host.Outcome State Fault Refusal :=
  s.runAlive t fun u =>
    match u.ctx ctx with
    | some c => if c.needReturn && (c.lastReturn.all fun x => x + 250 ≤ u.time) then u.sendReturn ctx else u
    | none => u
/-- PROBE (R249, R250): answered at once with a return message. -/
def execProbe (t : Nat) (s : State) : Host.Outcome State Fault Refusal :=
  s.runAlive t fun u =>
    match u.inboxFind fun m => m.cls == 0 && m.type == 2 with
    | some x => (u.take x false).sendReturn x.2.1
    | none => u
/-- RESEND_TIMEOUT (R249). -/
def execResendTimeout (t ctx cls : Nat) (s : State) : Host.Outcome State Fault Refusal :=
  s.runAlive t fun u => u.resend ctx cls
/-- LOSS_OF_LOCK (R255). -/
def execLossOfLock (t sp : Nat) (s : State) : Host.Outcome State Fault Refusal := s.runAlive t fun u => u.retrain sp
/-- TRAINING_COMPLETE (R255). -/
def execTrainingComplete (t sp : Nat) (failedLanes : List Nat) (s : State) : Host.Outcome State Fault Refusal :=
  s.runAlive t fun u => u.trained sp failedLanes
/-- TRAINING_ATTEMPT_FAILED (R255). -/
def execTrainingAttemptFailed (t sp : Nat) (s : State) : Host.Outcome State Fault Refusal :=
  s.runAlive t fun u => u.trainingFailed sp

end Sys2Proof.Machine
end

