-- ==== Sys2Proof/Machine/Control.lean ====
section
/-! DEFINITION. Device, partition and memory commands (spec 15 R338 to R341; 02 R37, R38; 08 R191, R192; 09 R212). -/

namespace Sys2Proof.Machine

/-! ### DEVICE_QUERY, HOLD_RELEASE (R338, R339) -/

/-- Device time of the next planned still, 0 if none. -/
def Partition.nextStill (x : Partition) : Nat := if x.isOpen && x.ruling.period != 0 then x.ruling.next else 0

/-- DEVICE_QUERY: the argument, then the answer. -/
def State.deviceQuery (s : State) (x : Ticket) (c : Bytes) : State :=
  let p := fieldB c 8 1
  if p != 0xFF && x.fn != 0 && p != x.fn - 1 then s.reply x .notPermitted
  else if p != 0xFF && 7 < p then s.reply x .badArgument
  else
    let y := s.partition p
    let next := if p = 0xFF then 0 else y.nextStill
    s.reply x .done (toLE 8 (s.timeFor x.fn) ++ toLE 1 s.point ++ toLE 1 (s.openPartitions x.fn) ++ zeros 6 ++
      toLE 8 (if p = 0xFF then 0 else y.step) ++ toLE 8 (if x.fn = 0 then next else next / 1000 * 1000))

/-- The sub-ports that exist start training (R255, R413). -/
def State.trainAll (s : State) : State := s.startTraining ((List.range 48).filter s.subServes)

/-! ### Performance points (R36, R37, R38) -/

/-- Nominal die voltage of a point in mV (Table 2.1); P3's first trimmed target is open between its limits (R446). -/
def State.settle (s : State) (point : Nat) : State :=
  let (n, s) := s.freeNat
  let mv := if point = 1 then 720 else if point = 2 then 780 else 780 + n % 71
  { s with point := point, milliVolts := mv, ramp := none, voltageOff := false }

/-- OPERATING_POINT_SET. -/
def State.operatingPointSet (s : State) (x : Ticket) (c : Bytes) : State :=
  let p := fieldB c 8 1
  if p < 1 || 3 < p then s.reply x .badArgument
  else if p = s.point && s.ramp.isNone then s.reply x .done (toLE 1 s.point)
  else if s.ramp.isSome then s.reply x .busy (toLE 1 s.point)
  else if p = 3 && 300 < s.inlet then s.reply x .notPermitted (toLE 1 s.point)
  else s.accept x .operatingPoint fun s => { s with ramp := some { target := p, byHost := true }, rampInWindow := true }

/-- POINT_SETTLED: the die voltage has settled at the new point. -/
def State.pointSettled (s : State) : State :=
  match s.ramp with
  | none => s
  | some r =>
    let s := s.settle r.target
    if r.byHost then
      match s.findOpen fun k => k == .operatingPoint with
      | some o => s.finish o .done (toLE 1 s.point)
      | none => s
    else s

/-! ### Partitions (R340, R341) -/

/-- A port's keys are drawn afresh for a new holder, unless it is attached plain (R210, R211). -/
def State.redrawKeys (s : State) (q : Nat) : State := if (s.port q).plain then s else (s.sealPort q).drawKeys q

/-- Step 3 of PARTITION_OPEN, beside its basins: the partition is closed, its ports are ONLINE and free (R340). -/
def State.openPermits (s : State) (f : Nat) (c : Bytes) : Bool :=
  let p := fieldB c 8 1
  (7 < p || (f != 0 && p != f - 1) || !(s.partition p).isOpen) &&
    ((List.range 8).filter fun q => bit (fieldB c 10 1) q && s.examinesPort f q).all fun q =>
      (s.port q).state == .online && (s.holderOf q).isNone

/-- The peer range meets that of an open partition. -/
def State.peerRangeTaken (s : State) (base count : Nat) : Bool :=
  s.partitions.any fun y => y.isOpen && base < y.peerBase + y.peerCount && y.peerBase < base + count

/-- PARTITION_OPEN after the gate. -/
def State.partitionOpen (s : State) (x : Ticket) (c : Bytes) : State :=
  let p := fieldB c 8 1
  let base := fieldB c 12 2
  let count := fieldB c 14 2
  if 7 < p || fieldB c 9 1 = 0 || count = 0 || 16384 < base + count || s.peerRangeTaken base count then s.reply x .badArgument
  else if (maskBasins 9 c).any s.busyBasin then s.reply x .busy
  else
    let (r, s) := s.random
    let d := r % (sm2n - 2) + 1
    let s := s.modPartition p fun _ =>
      { isOpen := true, basins := BitVec.ofNat 8 (fieldB c 9 1), ports := BitVec.ofNat 8 (fieldB c 10 1), peerBase := base
        peerCount := count, openedAt := s.time, mtbfSince := s.time, ephemeral := d, ephemeralPub := sm2Point d sm2G }
    let s := (maskBasins 9 c).foldl (fun (s : State) b => s.modBasin b fun y => { y with state := .active }) s
    let s := ((List.range 8).filter fun q => bit (fieldB c 10 1) q).foldl State.redrawKeys s
    let s : State := { s with contexts := s.contexts.filter fun y => !(base ≤ y.index && y.index < base + count) }
    s.reply x .done

/-- PARTITION_CLOSE after the gate. -/
def State.partitionClose (s : State) (x : Ticket) (c : Bytes) : State :=
  let p := fieldB c 8 1
  if 7 < p then s.reply x .badArgument
  else if (s.basinsOf p).any s.busyBasin || (s.basinsOf p).any fun b => (s.basin b).state == .draining then s.reply x .busy
  else s.accept x (.partitionClose p false) fun s => s.closePartition p

/-! ### Cache size (R191) -/

/-- A pool or shared segment of a slot of partition `p` meets a device range. -/
def State.poolSegmentMeets (s : State) (p : Nat) (r : Range) : Bool :=
  (s.basinsOf p).any fun b => (s.basin b).slots.any fun k =>
    [0, 3].any fun g => let y := k.segs.getD g {}; rangesMeet (y.base, y.size) r

/-- The range of basin `b`'s sections whose mode changes between cache sizes `m` and `n`. -/
def changedSections (b m n : Nat) : Range :=
  (poolBase b + (8 - max m n) * 0x01000000, (max m n - min m n) * 0x01000000)

/-- POOL_MODE_SET after the gate. -/
def State.poolModeSet (s : State) (x : Ticket) (c : Bytes) : State :=
  let b := fieldB c 8 1
  let n := fieldB c 9 1
  let old := (s.basin b).cache.size
  if 7 < b || 4 < n then s.reply x .badArgument
  else if s.opens.any fun o => match o.kind with | .poolMode q _ => q == b | _ => false then s.reply x .busy
  else if (match s.partitionOf b with | some p => s.poolSegmentMeets p (changedSections b old n) | none => false) then s.reply x .busy
  else if n = old then s.reply x .done (toLE 1 n)
  else s.accept x (.poolMode b n) fun s => s.flushCache b

/-- POOL_MODE_CHANGE_COMPLETE: the write-back and the zeroing have ended; the cache starts empty. -/
def State.poolModeComplete (s : State) (b : Nat) : State :=
  match s.findOpen fun k => match k with | .poolMode q _ => q == b | _ => false with
  | none => s
  | some o =>
    match o.kind with
    | .poolMode _ n =>
      let r := changedSections b (s.basin b).cache.size n
      let s := (s.zeroRange r.1 r.2).modBasin b fun y => { y with cache := { size := n } }
      s.finish o .done (toLE 1 n)
    | _ => s

/-! ### Segment records (R192, R209) -/

/-- The record at byte `off` of a SEGMENT_SET buffer (Table 8.5). -/
def segRecAt (b : Bytes) (off : Nat) : SegRec where
  base := fieldB b off 6
  size := fieldB b (off + 8) 6
  write := bit (fieldB b (off + 14) 1) 1
  read := bit (fieldB b (off + 14) 1) 0

/-- The reserved fields of a segment record are 0. -/
def segReservedZero (b : Bytes) (off : Nat) : Bool :=
  fieldB b (off + 6) 2 == 0 && fieldB b (off + 14) 1 < 4 && fieldB b (off + 15) 1 == 0

/-- The record lies in the range of a kind (Table 8.6): 0 pool, 1 stack, 2 CXL. -/
def State.segInKind (s : State) (p : Nat) (r : SegRec) (kind : Nat) : Bool :=
  match kind with
  | 0 => r.base + r.size ≤ 0x40000000
  | 1 => windowBase 0 ≤ r.base && r.base + r.size ≤ windowBase 8
  | _ => (List.range 8).any fun q =>
      s.holdsPort p q && (s.port q).state == .online && cxlBase q ≤ r.base && r.base + r.size ≤ cxlBase q + (s.port q).mapped

/-- The record meets a cache section of a basin of partition `p`. -/
def State.segMeetsCache (s : State) (p : Nat) (r : SegRec) : Bool :=
  (s.basinsOf p).any fun b => rangesMeet (r.base, r.size) (changedSections b 0 (s.basin b).cache.size)

/-- A segment record of a kind (0 to 3) is legal for a slot of partition `p` (R192). -/
def State.segLegal (s : State) (p : Nat) (r : SegRec) (kind : Nat) : Bool :=
  if r.size = 0 then r.base == 0
  else
    r.base % 4096 == 0 && r.size % 4096 == 0 &&
      (if kind = 3 then [0, 1, 2].any fun k => s.segInKind p r k else s.segInKind p r kind) &&
      (!(kind == 0 || kind == 3) || !s.segMeetsCache p r)

/-- SEGMENT_SET after the gate. -/
def State.segmentSet (s : State) (x : Ticket) (c : Bytes) (buf : Option Bytes) : State :=
  let b := fieldB c 8 1
  let k := fieldB c 9 1
  if 7 < b || 15 < k then s.reply x .badArgument
  else
    s.withInput x c 16 (· == 64) buf fun bs =>
      let p := (s.partitionOf b).getD 8
      let recs := (List.range 4).map fun i => segRecAt bs (16 * i)
      if !(List.range 4).all fun i => segReservedZero bs (16 * i) && s.segLegal p (recs.getD i {}) i then s.reply x .badArgument
      else
        let st := (s.slot b k).state
        if st == .running || st == .halted || st == .finished || (s.slot b k).clearing then s.reply x .busy
        else (s.modSlot b k fun y => { y with segs := recs }).reply x .done

/-! ### CXL ports (R211, R212) -/

/-- A task slot's CXL or shared segment meets port `q`'s range. -/
def State.portSegmented (s : State) (q : Nat) : Bool :=
  s.basins.any fun b => b.slots.any fun k =>
    [2, 3].any fun g => let y := k.segs.getD g {}; rangesMeet (y.base, y.size) (cxlBase q, 0x20000000000)

/-- A hot reset drives CXLp_PERST_L low for 100 ms (R438). -/
def hotReset : Nat := 100000000

/-- Step 3 of CXL_PORT_ATTACH: the port is PRESENT, and no segment reaches it any more (R212, R213). -/
def State.attachPermits (s : State) (f : Nat) (c : Bytes) : Bool :=
  let q := fieldB c 8 1
  !s.examinesPort f q || ((s.port q).state == .present && !s.portSegmented q)

/-- Step 3 of CXL_PORT_DETACH: the port is ONLINE (R212). -/
def State.detachPermits (s : State) (f : Nat) (c : Bytes) : Bool :=
  let q := fieldB c 8 1
  !s.examinesPort f q || (s.port q).state == .online

/-- CXL_PORT_ATTACH after the gate. -/
def State.cxlAttach (s : State) (x : Ticket) (c : Bytes) : State :=
  let q := fieldB c 8 1
  if 7 < q then s.reply x .badArgument
  else
    let s := s.modPort q fun y =>
      { y with state := .online, plain := bit (fieldB c 9 1) 0, epoch := y.epoch + 1, linkUp := true, downSince := none
               resetUntil := s.time + hotReset }
    (s.drawKeys q).reply x .done (toLE 8 (s.port q).mapped)

/-- CXL_PORT_DETACH after the gate. -/
def State.cxlDetach (s : State) (x : Ticket) (c : Bytes) : State :=
  let q := fieldB c 8 1
  if 7 < q then s.reply x .badArgument
  else if s.portSegmented q || (s.holderOf q).isSome then s.reply x .busy
  else s.accept x (.cxlDetach q) fun s => (s.flushPortLines q).modPort q fun y => { y with state := .detaching }

/-- CXL_DETACH_COMPLETE: every issued access to the port has completed, which none does while the link is down (R213). -/
def State.cxlDetachComplete (s : State) (q : Nat) : State :=
  match s.findOpen fun k => k == .cxlDetach q with
  | none => s
  | some o =>
    if (s.port q).state != .detaching || !(s.port q).linkUp || s.flights.any fun f => f.writes.any fun r => rangesMeet r (cxlBase q, 0x20000000000) then s
    else
      ((s.sealPort q).modPort q fun y =>
        { y with state := .present, plain := false, resetUntil := s.time + hotReset }).finish o .done

/-! ### Commands -/

/-- DEVICE_QUERY (R338, R339). A virtual function whose partition is not open may issue it (R305). -/
def execDeviceQuery (t fn mb : Nat) (s : State) : Host.Outcome State Fault Refusal :=
  s.run t fun u => u.decide fn mb (· == 0x0101) fun u x c =>
    if !allZero (sliceB c 4 4) then u.reply x .badArgument
    else if !inHRUSF u.devState then u.reply x .stateRefused
    else if !allZero (sliceB c 9 55) && !(fn != 0 && fieldB c 8 1 != 0xFF && fieldB c 8 1 != fn - 1) then u.reply x .badArgument
    else u.deviceQuery x c
/-- The gate of HOLD_RELEASE (Table 15.2 and its arguments). -/
def specHoldRelease : CmdSpec :=
  { opcode := 0x0102, states := (· == .held), physical := true }
/-- HOLD_RELEASE (R339, R417). -/
def execHoldRelease (t fn mb : Nat) (s : State) : Host.Outcome State Fault Refusal :=
  s.run t fun u => u.command fn mb specHoldRelease fun u x _ =>
    let u : State := { u with power := .up }
    u.trainAll.reply x .done
/-- The gate of OPERATING_POINT_SET (Table 15.2 and its arguments). -/
def specOperatingPointSet : CmdSpec :=
  { opcode := 0x0103, states := inRUS, physical := true, fields := [(8, 1)] }
/-- OPERATING_POINT_SET (R37). -/
def execOperatingPointSet (t fn mb : Nat) (s : State) : Host.Outcome State Fault Refusal :=
  s.run t fun u => u.command fn mb specOperatingPointSet
    State.operatingPointSet
/-- POINT_SETTLED (R37). -/
def execPointSettled (t : Nat) (s : State) : Host.Outcome State Fault Refusal := s.run t State.pointSettled
/-- The gate of PARTITION_OPEN (Table 15.2 and its arguments). -/
def specPartitionOpen : CmdSpec :=
  { opcode := 0x0201, states := inRUS, physical := true, basins := maskBasins 9, basinOk := (· == .idle)
    unitsOk := State.openPermits
    fields := [(8, 1), (9, 1), (10, 1), (12, 2), (14, 2)] }
/-- PARTITION_OPEN (R340). -/
def execPartitionOpen (t fn mb : Nat) (s : State) : Host.Outcome State Fault Refusal :=
  s.run t fun u => u.command fn mb specPartitionOpen State.partitionOpen
/-- The gate of PARTITION_CLOSE (Table 15.2 and its arguments). -/
def specPartitionClose : CmdSpec :=
  { opcode := 0x0202, states := inUS, physical := true, part := some 8, fields := [(8, 1)] }
/-- PARTITION_CLOSE (R341). -/
def execPartitionClose (t fn mb : Nat) (s : State) : Host.Outcome State Fault Refusal :=
  s.run t fun u => u.command fn mb specPartitionClose State.partitionClose
/-- The gate of POOL_MODE_SET (Table 15.2 and its arguments). -/
def specPoolModeSet : CmdSpec :=
  { opcode := 0x0301, states := inRUS, basins := oneBasin 8, basinOk := fun b => b == .idle || b == .active
    fields := [(8, 1), (9, 1)] }
/-- POOL_MODE_SET (R191). -/
def execPoolModeSet (t fn mb : Nat) (s : State) : Host.Outcome State Fault Refusal :=
  s.run t fun u => u.command fn mb specPoolModeSet State.poolModeSet
/-- POOL_MODE_CHANGE_COMPLETE (R191). -/
def execPoolModeChangeComplete (t b : Nat) (s : State) : Host.Outcome State Fault Refusal :=
  s.runAlive t fun u => u.poolModeComplete b
/-- The gate of SEGMENT_SET (Table 15.2 and its arguments). -/
def specSegmentSet : CmdSpec :=
  { opcode := 0x0302, states := inUS, basins := oneBasin 8, basinOk := (· == .active)
    fields := [(8, 1), (9, 1), (16, 16)] }
/-- SEGMENT_SET (R192). -/
def execSegmentSet (t fn mb : Nat) (buf : HostBuf) (s : State) : Host.Outcome State Fault Refusal :=
  s.run t fun u => u.command fn mb specSegmentSet fun u x c => u.segmentSet x c buf
/-- The gate of CXL_PORT_ATTACH (Table 15.2 and its arguments). -/
def specCxlPortAttach : CmdSpec :=
  { opcode := 0x0303, states := inRUS, physical := true, unitsOk := State.attachPermits, fields := [(8, 1)], flags := [(9, 1)] }
/-- CXL_PORT_ATTACH (R212). -/
def execCxlPortAttach (t fn mb : Nat) (s : State) : Host.Outcome State Fault Refusal :=
  s.run t fun u => u.command fn mb specCxlPortAttach State.cxlAttach
/-- The gate of CXL_PORT_DETACH (Table 15.2 and its arguments). -/
def specCxlPortDetach : CmdSpec :=
  { opcode := 0x0304, states := inRUS, physical := true, unitsOk := State.detachPermits, fields := [(8, 1)] }
/-- CXL_PORT_DETACH (R212). -/
def execCxlPortDetach (t fn mb : Nat) (s : State) : Host.Outcome State Fault Refusal :=
  s.run t fun u => u.command fn mb specCxlPortDetach State.cxlDetach
/-- CXL_DETACH_COMPLETE (R212). -/
def execCxlDetachComplete (t port : Nat) (s : State) : Host.Outcome State Fault Refusal :=
  s.runAlive t fun u => u.cxlDetachComplete port

end Sys2Proof.Machine
end

