-- ==== Sys2Proof/Machine/Move.lean ====
section
/-! DEFINITION. Moves (spec 08 R185 to R188, R224): the descriptor, copying and zeroing of rows, poison carried from
source units to destination units, completion. -/

namespace Sys2Proof.Machine

/-- The fields of a move descriptor (Table 8.4), lengths and strides in bytes. -/
structure Move where
  copy : Bool
  rows : Nat
  len : Nat
  segSrc : Nat
  src : Nat
  srcStride : Nat
  segDst : Nat
  dst : Nat
  dstStride : Nat
  deriving DecidableEq, Repr

/-- Read a move descriptor. -/
def moveOf (d : Bytes) : Move :=
  { copy := dOp d == 1, rows := fieldB d 4 4, len := 64 * fieldB d 24 2, segSrc := fieldB d 14 1 % 4, src := fieldB d 8 6
    srcStride := 64 * fieldB d 28 4, segDst := fieldB d 22 1 % 4, dst := fieldB d 16 6, dstStride := 64 * fieldB d 32 4 }

/-- The first illegal field that is checked at the head (R187); the overlap is checked at issue. A destination in the
stacks off a 64-byte boundary, which R198 excludes and no rule answers, is illegal at Dst (DEDUCED, assumption 60). -/
def moveIllegal (d : Bytes) : Option Nat :=
  let zero := dOp d == 2
  let n := fieldB d 4 4
  firstIllegal
    [(1, dOp d == 1 || dOp d == 2),
     (2, fieldB d 2 1 == 2 || fieldB d 2 1 == 3),
     (3, fieldB d 3 1 &&& 0xF9 == 0),
     (4, 1 ≤ n && n ≤ 16777216),
     (8, !zero || fieldB d 8 6 == 0),
     (14, fieldB d 14 1 ≤ (if zero then 0 else 3)),
     (15, fieldB d 15 1 == 0),
     (16, fieldB d 22 1 != 1 || fieldB d 16 6 % 64 == 0),
     (22, fieldB d 22 1 ≤ 3),
     (23, fieldB d 23 1 == 0),
     (24, 1 ≤ fieldB d 24 2),
     (26, fieldB d 26 2 == 0),
     (28, !zero || fieldB d 28 4 == 0),
     (38, allZero (sliceB d 38 10))]

/-- The accesses of a move, source rows first. -/
def Move.accesses (m : Move) : List Access :=
  (if m.copy then (List.range m.rows).map fun i => ⟨8, m.segSrc, m.src + i * m.srcStride, m.len, false, .any⟩ else []) ++
    (List.range m.rows).map fun i => ⟨16, m.segDst, m.dst + i * m.dstStride, m.len, true, .any⟩

/-- Bytes from the first to the last byte of rows at a stride. -/
def Move.span (m : Move) (stride : Nat) : Nat := (m.rows - 1) * stride + m.len

/-- The spans of source and destination share a device address (R187). -/
def State.moveOverlaps (s : State) (b k : Nat) (m : Move) : Bool :=
  m.copy && rangesMeet (s.segAddr b k m.segSrc m.src, m.span m.srcStride) (s.segAddr b k m.segDst m.dst, m.span m.dstStride)

/-- Destination rows overlap, so the order in which a move writes decides their bytes (R187: any order). -/
def Move.rowsOverlap (m : Move) : Bool := 1 < m.rows && m.dstStride < m.len

/-- The bytes of the destination span when its rows overlap: each byte comes from one of the rows that cover it, and
which one is a free choice of the descriptor and the byte (R15, assumption 13); bytes that no row covers do not occur. -/
def Move.anyOrder (m : Move) (d : Bytes) (rows : List Bytes) : Bytes :=
  (List.range (m.span m.dstStride)).map fun x =>
    let lo := if m.dstStride = 0 then 0 else (x + 1 - m.len + m.dstStride - 1) / m.dstStride
    let hi := if m.dstStride = 0 then m.rows - 1 else min (m.rows - 1) (x / m.dstStride)
    let i := lo + Config.rowChoice d x % (hi - lo + 1)
    (rows.getD i []).getD (x - i * m.dstStride) 0

/-- The destination ranges that take bytes of a poisoned 256-byte source unit (R224): from source row address `a` to
destination row address `d`, `n` bytes. In the stacks and the CXL tier the whole 256-byte unit of the row is marked. -/
def State.carriedPoison (s : State) (bad : List Range) (a d n : Nat) : List Range :=
  (List.range (if n = 0 then 0 else (a + n - 1) / 256 - a / 256 + 1)).filterMap fun i =>
    let lo := max a ((a / 256 + i) * 256)
    let hi := min (a + n) ((a / 256 + i + 1) * 256)
    if s.readPoison bad lo (hi - lo) then
      let x := max d ((d + lo - a) / 256 * 256)
      let y := min (d + n) (((d + hi - a + 255) / 256) * 256)
      some (x, y - x)
    else none

/-- A row goes to the stacks off a 64-byte boundary, through the shared segment (R198). -/
def State.moveUnaligned (s : State) (b k : Nat) (m : Move) : Bool :=
  match placeOf (s.segAddr b k m.segDst m.dst) with
  | .stack .. => m.dst % 64 != 0
  | _ => false

/-- A move at its issue (R185, R187). -/
def State.moveIssue (s : State) (b k : Nat) (errs : List CheckErr) (d : Bytes) : State :=
  let m := moveOf d
  let xs := m.accesses
  let w := (xs.filter (·.write)).map fun x => (s.segAddr b k x.seg x.off, x.len)
  let partOut := s.flights.any fun f => f.unit == .mere && w.any fun r => f.pendingIn r
  if s.moveOverlaps b k m then s.haltIllegal b k 8
  else if s.moveUnaligned b k m then s.haltIllegal b k 16
  else if partOut || s.accessesWait b k xs || !s.countsAllow w then s
  else
    let s := s.noteErrs b errs
    let bad := badReads errs
    let srcAt (i : Nat) : Nat := s.segAddr b k m.segSrc (m.src + i * m.srcStride)
    let dstAt (i : Nat) : Nat := s.segAddr b k m.segDst (m.dst + i * m.dstStride)
    let rows := (List.range m.rows).map fun i => if m.copy then s.read (srcAt i) m.len else zeros m.len
    let marks := if m.copy then (List.range m.rows).flatMap fun i => s.carriedPoison bad (srcAt i) (dstAt i) m.len else []
    let basins := b :: w.filterMap fun r =>
      match placeOf r.1 with
      | .pool c _ => if c = b then none else some c
      | _ => none
    let s := if m.copy then (List.range m.rows).foldl (fun s i => s.noteLostReads (srcAt i) m.len) s else s
    let s := s.touchAccesses b k xs
    let s :=
      if m.copy && m.rowsOverlap then
        s.put (dstAt 0) (m.anyOrder d rows) false
      else (List.range m.rows).foldl (fun s i => s.put (dstAt i) (rows.getD i []) false) s
    let s := s.markOutputs b k marks
    let s := s.markFailedChunks errs w
    s.issued b k d .move w basins.eraseDups false none

/-- A move at the head of its slot: halts, waits for its cell or the engine, or issues. -/
def State.moveAt (s : State) (b : Nat) (errs : List CheckErr) (k : Nat) : State :=
  s.atHead b k 5 (fun _ => true) moveIllegal fun d =>
    if s.unitBusy b .move then s else s.checked b k (moveOf d).accesses (s.moveIssue b k errs d)

/-- A move that a test admits, in its turn (R26). -/
def State.moveStep (s : State) (b k : Nat) (errs : List CheckErr) (isOp : Nat → Bool) : State :=
  if s.headMeets b k (· == 5) isOp then s.inTurn b .move k (s.moveAt b errs) else s

/-- MOVE_COMPLETE (R187, R286): the move engine's move completes. -/
def execMoveComplete (t b : Nat) (s : State) : Host.Outcome State Fault Refusal :=
  s.runAlive t fun u => u.completeNth b .move 0

end Sys2Proof.Machine
end

