-- ==== Sys2Proof/Machine/Datapath.lean ====
section
/-! DEFINITION. The commands of the units that read stacks (spec 04 R89, 06 R148, 08 R187, 12 R259): what a read finds there may be a
fault of the basin (09 R205). -/

namespace Sys2Proof.Machine

/-- MERE_PASS_STAGE (R89), and the pass descriptors that are illegal (R78). -/
def execMerePassStage (t b k : Nat) (lanesFree : Bool) (errs : List CheckErr) (s : State) : Host.Outcome State Fault Refusal :=
  s.runAlive t fun u => (u.stagePass b k lanesFree errs).checkStacks errs
/-- GATHER (R148). -/
def execGather (t b k : Nat) (errs : List CheckErr) (s : State) : Host.Outcome State Fault Refusal :=
  s.runAlive t fun u => (u.weaveStep b k errs 2 (· == 2)).checkStacks errs
/-- COPY (R187), and the move descriptors whose Op is neither COPY nor ZERO. -/
def execCopy (t b k : Nat) (lowered : List (Nat × Nat)) (errs : List CheckErr) (s : State) : Host.Outcome State Fault Refusal :=
  s.runWriter t fun u => ((u.lowerCounts lowered).moveStep b k errs (· != 2)).checkStacks errs
/-- ZERO (R187). -/
def execZero (t b k : Nat) (lowered : List (Nat × Nat)) (errs : List CheckErr) (s : State) : Host.Outcome State Fault Refusal :=
  s.runWriter t fun u => ((u.lowerCounts lowered).moveStep b k errs (· == 2)).checkStacks errs
/-- REDUCE_SCATTER, and the collectives whose Op is none of Table 12.4 (R284). -/
def execReduceScatter (t b k : Nat) (errs : List CheckErr) (s : State) : Host.Outcome State Fault Refusal :=
  s.runWriter t fun u => (u.collStep b k errs fun op => op == 1 || op == 0 || 6 < op).checkStacks errs
/-- ALL_GATHER (R279). -/
def execAllGather (t b k : Nat) (errs : List CheckErr) (s : State) : Host.Outcome State Fault Refusal :=
  s.runWriter t fun u => (u.collStep b k errs (· == 2)).checkStacks errs
/-- NORM (R275). -/
def execNorm (t b k : Nat) (errs : List CheckErr) (s : State) : Host.Outcome State Fault Refusal :=
  s.runWriter t fun u => (u.collStep b k errs (· == 3)).checkStacks errs
/-- RESHARD (R280). -/
def execReshard (t b k : Nat) (errs : List CheckErr) (s : State) : Host.Outcome State Fault Refusal :=
  s.runWriter t fun u => (u.collStep b k errs (· == 4)).checkStacks errs
/-- DISPATCH (R281). -/
def execDispatch (t b k : Nat) (errs : List CheckErr) (s : State) : Host.Outcome State Fault Refusal :=
  s.runWriter t fun u => (u.collStep b k errs (· == 5)).checkStacks errs
/-- RETURN (R282). -/
def execCollReturn (t b k : Nat) (errs : List CheckErr) (s : State) : Host.Outcome State Fault Refusal :=
  s.runWriter t fun u => (u.collStep b k errs (· == 6)).checkStacks errs

end Sys2Proof.Machine
end

