-- ==== Sys2Proof/Machine/Fleet.lean ====
section
/-! DEFINITION. Peer and collective commands: route and peer tables, groups, weirs, sync trees, generations and port
training (spec 15 R348 to R350; 11 R240, R244, R257; 12 R258; 13 R292; 07 R173; 17 R401). -/

namespace Sys2Proof.Machine

/-! ### ROUTE_TABLE_LOAD (R240, R349) -/

/-- A route entry of Table 11.5 from its 16 bytes. -/
def routeEntryOf (e : Bytes) : RouteEntry where
  stay := BitVec.ofNat 48 (fieldB e 0 6)
  up := BitVec.ofNat 48 (fieldB e 6 6)
  valid := bit (fieldB e 12 1) 7

/-- The entry obeys R240. -/
def State.routeLegal (s : State) (e : Bytes) : Bool :=
  s.maskLegal (fieldB e 0 6) && s.maskLegal (fieldB e 6 6) && fieldB e 12 1 % 128 == 0 && allZero (sliceB e 13 3)

/-- The 16-byte entries of a table of `n` entries at `off`. -/
def entriesAt (bs : Bytes) (off n : Nat) : List Bytes := (List.range n).map fun i => sliceB bs (off + 16 * i) 16

/-- ROUTE_TABLE_LOAD after the gate. -/
def State.routeTableLoad (s : State) (x : Ticket) (c : Bytes) (buf : Option Bytes) : State :=
  s.withInput x c 16 (· == 5136) buf fun bs =>
    let group := entriesAt bs 16 256
    let members := entriesAt bs 4112 64
    if 16383 < fieldB bs 0 2 || !allZero (sliceB bs 2 14) || !(group.all s.routeLegal && members.all s.routeLegal) then
      s.reply x .badArgument
    else
      let s : State := { s with
        deviceId := fieldB bs 0 2
        router := { s.router with groupTable := group.map routeEntryOf, memberTable := members.map routeEntryOf } }
      s.retryWaiting.reply x .done

/-! ### PEER_TABLE_LOAD (R244, R349, R401, R406) -/

/-- The context is in the range of partition `p`. -/
def State.ownsContext (s : State) (p i : Nat) : Bool :=
  (s.partition p).isOpen && (s.partition p).peerBase ≤ i && i < (s.partition p).peerBase + (s.partition p).peerCount

/-- Valid of a peer record. -/
def recValid (r : Bytes) : Bool := bit (fieldB r 2 1) 7
/-- Encrypt of a peer record. -/
def recEncrypt (r : Bytes) : Bool := bit (fieldB r 2 1) 6
/-- Credit of a class in a peer record. -/
def recCredit (r : Bytes) (cls : Nat) : Nat := fieldB r (4 + 2 * cls) 2

/-- The KeyRef of a record with Encrypt 1 holds a peer key that no record written since has named for this PeerId (R401). -/
def State.peerKeyFree (s : State) (p : Nat) (r : Bytes) : Bool :=
  match (s.partition p).keys.find? fun k => k.ref == fieldB r 12 4 && k.kind == 1 with
  | some k => !k.usedBy.contains (fieldB r 0 2)
  | none => false

/-- A peer record by itself is legal (Table 11.6, R244, R401). -/
def State.peerRecordLegal (s : State) (p : Nat) (r : Bytes) : Bool :=
  if recValid r then
    fieldB r 0 2 ≤ 16383 && fieldB r 2 1 % 64 == 0 && fieldB r 3 1 == 0 && allZero (sliceB r 16 16) &&
      1 ≤ recCredit r 0 && recCredit r 0 ≤ 256 && [1, 2, 3].all (fun k => 1 ≤ recCredit r k) &&
      (if recEncrypt r then s.peerKeyFree p r else fieldB r 12 4 == 0)
  else allZero r

/-- No two of the PeerIds are equal. -/
def noRepeat : List Nat → Bool
  | [] => true
  | x :: xs => !xs.contains x && noRepeat xs

/-- A context as a record sets it up: numbers at 0, credits full. -/
def ctxOf (i : Nat) (r : Bytes) : PeerCtx :=
  { index := i, peerId := fieldB r 0 2, encrypt := recEncrypt r, keyRef := fieldB r 12 4, record := r
    classes := (List.range 4).map fun k => { credit := recCredit r k, window := recCredit r k } }

/-- The keys with the PeerIds of newly written records noted (R401). -/
def noteKeyUse (keys : List KeyEntry) (recs : List Bytes) : List KeyEntry :=
  keys.map fun (k : KeyEntry) =>
    { k with usedBy := k.usedBy ++ ((recs.filter fun r => recValid r && recEncrypt r && fieldB r 12 4 == k.ref).map fun r => fieldB r 0 2) }

/-- A context that a load may not rewrite now: it holds an unacknowledged message and is not LOST, or it is the source
of an open import (R349, R406). -/
def State.ctxBusy (s : State) (p : Nat) (c : PeerCtx) : Bool :=
  (!c.lost && c.classes.any fun k => !k.unacked.isEmpty || !k.queue.isEmpty) || (s.importOf p c.peerId).isSome

/-- Write records to contexts `first` on. The pairs of a context whose record goes on naming its device still wait; of the
others the peer counts as LOST (R294). -/
def State.writePeers (s : State) (p first : Nat) (recs : List Bytes) : State :=
  let n := recs.length
  let inRange (i : Nat) : Bool := first ≤ i && i < first + n
  let old := s.contexts.filter fun c => inRange c.index
  let keeps (c : PeerCtx) : Bool := let r := recs.getD (c.index - first) []; recValid r && fieldB r 0 2 == c.peerId
  let s := ((old.filter fun c => !keeps c).map (·.index)).foldl State.losePairs s
  let new := ((List.range n).zip recs).filterMap fun x =>
    if recValid x.2 then
      let kept := (old.filter fun c => c.index == first + x.1 && keeps c).flatMap (·.pairOut)
      some { ctxOf (first + x.1) x.2 with pairOut := kept }
    else none
  let s : State := { s with contexts :=
    (s.contexts.filter fun c => c.index < first) ++ new ++ (s.contexts.filter fun c => first + n ≤ c.index) }
  (s.modPartition p fun y => { y with keys := noteKeyUse y.keys recs }).syncRecheck p

/-- PEER_TABLE_LOAD after the gate. -/
def State.peerTableLoad (s : State) (x : Ticket) (c : Bytes) (buf : Option Bytes) : State :=
  let p := fieldB c 8 1
  let first := fieldB c 12 2
  let n := fieldB c 14 2
  if 7 < p || n = 0 || 16384 < n then s.reply x .badArgument
  else if (List.range n).any fun i => first + i < 16384 && !s.ownsContext p (first + i) then s.reply x .notPermitted
  else if 16384 < first + n then s.reply x .badArgument
  else
    s.withInput x c 16 (· == 32 * n) buf fun bs =>
      let recs := (List.range n).map fun i => sliceB bs (32 * i) 32
      let mine := s.contexts.filter fun y => s.ownsContext p y.index
      let inRange (y : PeerCtx) : Bool := first ≤ y.index && y.index < first + n
      let ids := ((mine.filter fun y => !inRange y).map (·.peerId)) ++ ((recs.filter recValid).map fun r => fieldB r 0 2)
      if !(recs.all (s.peerRecordLegal p) && noRepeat ids) then s.reply x .badArgument
      else if mine.any fun y => inRange y && s.ctxBusy p y then s.reply x .busy
      else (s.writePeers p first recs).reply x .done

/-! ### GROUP_DEFINE, WEIR_SET (R258, R350) -/

/-- Inner is legal for n members (Table 12.1). -/
def innerLegal (algorithm n a : Nat) : Bool :=
  if algorithm = 2 then 2 ≤ a && n % a == 0 && 2 ≤ n / a && n / a ≤ 4096 && 2 ^ (n / a).log2 == n / a else a == 0

/-- Bytes of a group record with n members (R350). -/
def groupSize (n : Nat) (map : Bool) : Nat := alignUp (64 + 2 * n) 64 + if map then 65536 else 0

/-- The expert map entries of hosted experts (Table 12.2), from the map's first byte. -/
def mapEntries (m : Bytes) : List (Nat × ExpertMapEntry) :=
  (List.range 4096).filterMap fun e =>
    let r := fieldB m (16 * e) 2
    if r = 0xFFFF then none else some (e, { rank := r, cap := fieldB m (16 * e + 2) 2, recvOff := fieldB m (16 * e + 4) 4 })

/-- The expert map is legal: ranks of members, caps from 1, reserved fields 0. -/
def mapLegal (n : Nat) (m : Bytes) : Bool :=
  ((List.range 4096).all fun e => allZero (sliceB m (16 * e + 8) 8)) &&
    (mapEntries m).all fun e => e.2.rank < n && e.2.cap != 0

/-- The record without its trailing zeros. -/
def trimZeros (bs : Bytes) : Bytes := (bs.reverse.dropWhile (· == 0)).reverse

/-- The fields of a group record. -/
def groupOf (bs : Bytes) : GroupRec :=
  let f := fieldB bs 1 1
  let n := fieldB bs 2 2
  { gid := fieldB bs 0 1, hasMap := bit f 4, weirFromStill := bit f 3, lateAdd := bit f 2, algorithm := bits f 1 0
    members := (List.range n).map fun i => fieldB bs (64 + 2 * i) 2
    ownRank := fieldB bs 4 2, inner := fieldB bs 6 2, weir := fieldB bs 8 4, minJoin := fieldB bs 12 2
    headroom := bits (fieldB bs 14 1) 3 0, tree := fieldB bs 15 1
    map := if bit f 4 then mapEntries (bs.drop (groupSize n false)) else []
    record := trimZeros bs }

/-- Weir and MinJoin are in their ranges (Table 12.1). -/
def weirLegal (n weir minJoin : Nat) : Bool := weir ≤ 1000000 && 1 ≤ minJoin && minJoin ≤ n

/-- The record in a buffer of `len` bytes is legal in partition `p` (R350). -/
def State.groupLegal (s : State) (p : Nat) (bs : Bytes) : Bool :=
  let g := groupOf bs
  let n := fieldB bs 2 2
  1 ≤ n && n ≤ 16384 && bs.length == groupSize n g.hasMap && bits (fieldB bs 1 1) 7 5 == 0 && g.algorithm != 3 &&
    g.ownRank < n && innerLegal g.algorithm n g.inner && weirLegal n g.weir g.minJoin &&
    bits (fieldB bs 14 1) 7 4 == 0 && allZero (sliceB bs 16 48) &&
    (g.members.all fun d => d == s.deviceId || (s.ctxFor p d).isSome) &&
    (!g.hasMap || mapLegal n (bs.drop (groupSize n false)))

/-- An instance of a group is in flight on this device. -/
def State.groupBusy (s : State) (p gid : Nat) : Bool :=
  s.instances.any fun i => i.part == p && i.gid == gid && (i.member.isSome || i.root.any fun r => !r.ended)

/-- GROUP_DEFINE after the gate. -/
def State.groupDefine (s : State) (x : Ticket) (c : Bytes) (buf : Option Bytes) : State :=
  let p := fieldB c 8 1
  if 7 < p then s.reply x .badArgument
  else
    s.withInput x c 16 (fun n => 64 ≤ n && n ≤ groupSize 65535 true) buf fun bs =>
      if !s.groupLegal p bs then s.reply x .badArgument
      else
        let g := groupOf bs
        if s.groupBusy p g.gid then s.reply x .busy
        else (s.modPartition p fun y => { y with groups := (y.groups.filter fun h => h.gid != g.gid) ++ [g] }).reply x .done

/-- Bytes `new` put over a byte string at `off`. -/
def overwrite (bs : Bytes) (off : Nat) (new : Bytes) : Bytes := bs.take off ++ new ++ bs.drop (off + new.length)

/-- The whole record of a group. -/
def GroupRec.bytes (g : GroupRec) : Bytes := sliceB g.record 0 (groupSize g.members.length g.hasMap)

/-- A group with Weir, WeirFrom and MinJoin changed, in its record too. -/
def GroupRec.reweir (g : GroupRec) (weir : Nat) (fromStill : Bool) (minJoin : Nat) : GroupRec :=
  let f := fieldB g.bytes 1 1
  let f := (if bit f 3 then f - 8 else f) + (if fromStill then 8 else 0)
  { g with weir := weir, weirFromStill := fromStill, minJoin := minJoin
           record := trimZeros (overwrite (overwrite (overwrite g.bytes 1 (toLE 1 f)) 8 (toLE 4 weir)) 12 (toLE 2 minJoin)) }

/-- WEIR_SET after the gate. -/
def State.weirSet (s : State) (x : Ticket) (c : Bytes) : State :=
  let p := fieldB c 8 1
  match (s.partition p).groups.find? fun g => g.gid == fieldB c 9 1 with
  | none => s.reply x .badArgument
  | some g =>
    if 7 < p || !weirLegal g.members.length (fieldB c 12 4) (fieldB c 16 2) then s.reply x .badArgument
    else
      (s.modPartition p fun y => { y with groups := y.groups.map fun (h : GroupRec) =>
        if h.gid == g.gid then (h.reweir (fieldB c 12 4) (bit (fieldB c 10 1) 0) (fieldB c 16 2)) else h }).reply x .done

/-! ### SYNC_TREE_DEFINE (R292) -/

/-- The fields of a tree record (Table 13.5). -/
def treeOf (r : Bytes) : TreeRec :=
  let n := fieldB r 1 1
  { treeId := fieldB r 0 1, parent := if fieldB r 2 2 = 0xFFFF then none else some (fieldB r 2 2), parentPart := fieldB r 4 1
    children := (List.range n).map fun i => fieldB r (8 + 2 * i) 2
    childParts := (List.range n).map fun i => bits (fieldB r 32 6) (3 * i + 2) (3 * i)
    height := fieldB r 38 1, record := r }

/-- The tree record is legal in partition `p`. -/
def State.treeLegal (s : State) (p : Nat) (r : Bytes) : Bool :=
  let n := fieldB r 1 1
  let t := treeOf r
  fieldB r 0 1 < 32 && n ≤ 12 && fieldB r 4 1 < 8 && allZero (sliceB r 5 3) && fieldB r 39 1 == 0 &&
    1 ≤ t.height && t.height ≤ 8 && fieldB r 32 6 < 2 ^ (3 * n) &&
    (t.children.all fun d => d != 0xFFFF && (s.ctxFor p d).isSome) &&
    ((List.range 12).all fun i => i < n || fieldB r (8 + 2 * i) 2 == 0xFFFF) &&
    (match t.parent with
      | some d => (s.ctxFor p d).isSome
      | none => true)

/-- SYNC_TREE_DEFINE after the gate. -/
def State.syncTreeDefine (s : State) (x : Ticket) (c : Bytes) : State :=
  let p := fieldB c 8 1
  let r := sliceB c 16 40
  if 7 < p || !s.treeLegal p r then s.reply x .badArgument
  else
    let t := treeOf r
    if ((s.partition p).trees.any fun y => y.treeId == t.treeId && y.outstanding.isSome) ||
        (s.partition p).groups.any fun g => g.tree == t.treeId && s.groupBusy p g.gid then s.reply x .busy
    else (s.modPartition p fun y => { y with trees := (y.trees.filter fun h => h.treeId != t.treeId) ++ [t] }).reply x .done

/-! ### GENERATION_CANCEL (R173, R350) -/

/-- GENERATION_CANCEL after the gate. -/
def State.generationCancel (s : State) (x : Ticket) (c : Bytes) : State :=
  let p := fieldB c 8 1
  let bs := maskBasins 9 c
  if 7 < p || bs.isEmpty || !bs.all (s.holdsBasin p) then s.reply x .badArgument
  else
    (bs.foldl (fun (s : State) b => s.modBasin b fun y =>
      { y with generations := y.generations.retire (fieldB c 12 2) (bit (fieldB c 10 1) 0) }) s).reply x .done

/-! ### PORT_MODE_SET, PORT_RETRAIN (R257) -/

/-- A sub-port outside a list is being trained. -/
def State.otherTraining (s : State) (is : List Nat) : Bool :=
  (List.range 48).any fun i => !is.contains i && (s.sub i).inTraining

/-- Put a port into a mode: its sub-ports leave UP; those of the new mode train. -/
def State.setPortMode (s : State) (p mode : Nat) : State :=
  let s := (List.range 4).foldl (fun (s : State) j => s.leaveUp (4 * p + j) .off) s
  let s : State := { s with portModes := s.portModes.set p mode }
  s.startTraining ((List.range (modeSubs mode)).map (4 * p + ·))

/-- PORT_MODE_SET after the gate. -/
def State.portModeSet (s : State) (x : Ticket) (c : Bytes) : State :=
  let p := fieldB c 8 1
  let mode := fieldB c 9 1
  if 11 < p || 2 < mode then s.reply x .badArgument
  else if s.otherTraining ((List.range 4).map (4 * p + ·)) then s.reply x .busy
  else if mode = s.portModes.getD p 0 then s.reply x .done
  else if s.portFailed.getD p false then s.reply x .hardwareFault
  else s.accept x (.portMode p) fun s => s.setPortMode p mode

/-- PORT_RETRAIN after the gate. -/
def State.portRetrain (s : State) (x : Ticket) (c : Bytes) : State :=
  let i := fieldB c 8 1
  if 47 < i || modeSubs (s.portModes.getD (i / 4) 0) ≤ i % 4 then s.reply x .badArgument
  else if s.otherTraining [i] then s.reply x .busy
  else if s.portFailed.getD (i / 4) false then s.reply x .hardwareFault
  else
    s.accept x (.portRetrain i) fun s =>
      (s.leaveUp i (if (s.sub i).state == .up then .retraining else .training)).modSub i fun y => { y with attempts := 0 }

/-! ### Commands -/

/-- The gate of ROUTE_TABLE_LOAD (Table 15.2 and its arguments). -/
def specRouteTableLoad : CmdSpec :=
  { opcode := 0x0601, states := inRUS, physical := true, fields := [(16, 16)] }
/-- ROUTE_TABLE_LOAD (R349). -/
def execRouteTableLoad (t fn mb : Nat) (buf : HostBuf) (s : State) : Host.Outcome State Fault Refusal :=
  s.run t fun u => u.command fn mb specRouteTableLoad fun u x c => u.routeTableLoad x c buf
/-- The gate of PEER_TABLE_LOAD (Table 15.2 and its arguments). -/
def specPeerTableLoad (s : State) : CmdSpec :=
  { opcode := 0x0602, states := inUS, part := some 8, fields := [(8, 1), (12, 2), (14, 2), (16, 16)]
    may := fun f c => (List.range (fieldB c 14 2)).all fun i =>
    16384 ≤ fieldB c 12 2 + i || s.ownsContext (f - 1) (fieldB c 12 2 + i) }
/-- PEER_TABLE_LOAD (R244, R349). -/
def execPeerTableLoad (t fn mb : Nat) (buf : HostBuf) (s : State) : Host.Outcome State Fault Refusal :=
  s.run t fun u => u.command fn mb (specPeerTableLoad u) fun u x c => u.peerTableLoad x c buf
/-- The gate of GROUP_DEFINE (Table 15.2 and its arguments). -/
def specGroupDefine : CmdSpec :=
  { opcode := 0x0603, states := inUS, part := some 8, fields := [(8, 1), (16, 16)] }
/-- GROUP_DEFINE (R258, R350). -/
def execGroupDefine (t fn mb : Nat) (buf : HostBuf) (s : State) : Host.Outcome State Fault Refusal :=
  s.run t fun u => u.command fn mb specGroupDefine fun u x c => u.groupDefine x c buf
/-- The gate of WEIR_SET (Table 15.2 and its arguments). -/
def specWeirSet : CmdSpec :=
  { opcode := 0x0604, states := inUS, part := some 8, fields := [(8, 1), (9, 1), (12, 4), (16, 2)], flags := [(10, 1)] }
/-- WEIR_SET (R258, R350). -/
def execWeirSet (t fn mb : Nat) (s : State) : Host.Outcome State Fault Refusal :=
  s.run t fun u => u.command fn mb specWeirSet
    State.weirSet
/-- The gate of SYNC_TREE_DEFINE (Table 15.2 and its arguments). -/
def specSyncTreeDefine : CmdSpec :=
  { opcode := 0x0605, states := inUS, part := some 8, fields := [(8, 1), (16, 40)] }
/-- SYNC_TREE_DEFINE (R292, R350). -/
def execSyncTreeDefine (t fn mb : Nat) (s : State) : Host.Outcome State Fault Refusal :=
  s.run t fun u => u.command fn mb specSyncTreeDefine State.syncTreeDefine
/-- The gate of GENERATION_CANCEL (Table 15.2 and its arguments). -/
def specGenerationCancel : CmdSpec :=
  { opcode := 0x0606, states := inUS, part := some 8, basins := maskBasins 9
    basinOk := fun b => b == .active || b == .draining, fields := [(8, 1), (9, 1), (12, 2)], flags := [(10, 1)] }
/-- GENERATION_CANCEL (R173, R350). -/
def execGenerationCancel (t fn mb : Nat) (s : State) : Host.Outcome State Fault Refusal :=
  s.run t fun u => u.command fn mb specGenerationCancel
    State.generationCancel
/-- The gate of PORT_MODE_SET (Table 15.2 and its arguments). -/
def specPortModeSet : CmdSpec :=
  { opcode := 0x0607, states := inRUS, physical := true, fields := [(8, 1), (9, 1)] }
/-- PORT_MODE_SET (R257). -/
def execPortModeSet (t fn mb : Nat) (s : State) : Host.Outcome State Fault Refusal :=
  s.run t fun u => u.command fn mb specPortModeSet State.portModeSet
/-- The gate of PORT_RETRAIN (Table 15.2 and its arguments). -/
def specPortRetrain : CmdSpec :=
  { opcode := 0x0608, states := inRUS, physical := true, fields := [(8, 1)] }
/-- PORT_RETRAIN (R257). -/
def execPortRetrain (t fn mb : Nat) (s : State) : Host.Outcome State Fault Refusal :=
  s.run t fun u => u.command fn mb specPortRetrain State.portRetrain

end Sys2Proof.Machine
end

