-- ==== Sys2Proof/Machine/Tables.lean ====
section
/-! DEFINITION. The table function units (spec 05 R114 to R121): the table record, its evaluation, the table
operations and their completion. -/

namespace Sys2Proof.Machine

/-- An FP32 code is finite. -/
def finite32 (c : Nat) : Bool := !(f32 c).isSpecial

/-- The table record is legal (R114). -/
def tableLegal (r : Bytes) : Bool :=
  let w (i : Nat) : Nat := fieldB r (4 * i) 4
  finite32 (w 0) && finite32 (w 1) && Val.lt (f32 (w 0)) (f32 (w 1)) &&
    finite32 (w 2) && Val.lt Val.zero (f32 (w 2)) &&
    (List.range 8).all (fun i => finite32 (w (4 + i))) && allZero ((r.drop 48).take 16) &&
    (chunksLE 4 6144 (r.drop 64)).all finite32

/-- The tail a·x + b (R116). -/
def tailVal (a b x : Val) : Val :=
  match x with
  | .inf _ => if a.isZero then b else (Val.mul a x)
  | _ => rn32 (Val.add (Val.mul a x) b)

/-- The integer part of a value that is at least 0. -/
def Val.floor : Val → Nat
  | .fin _ m e => if 0 ≤ e then m <<< e.toNat else m >>> (-e).toNat
  | _ => 0

/-- eval(x) of R116 on a record: `der` false for f, true for f′. -/
def tableEval (r : Bytes) (der : Bool) (x : Val) : Val :=
  let w (i : Nat) : Val := f32 (fieldB r (4 * i) 4)
  let tail := if der then 8 else 4
  let tailL := tailVal (w tail) (w (tail + 1)) x
  let tailH := tailVal (w (tail + 2)) (w (tail + 3)) x
  match x with
  | .nan => .nan
  | .inf true => tailL
  | .inf false => tailH
  | _ =>
    let u := rn32 (Val.mul (Val.add x (w 0).neg) (w 2))
    if Val.lt u Val.zero then tailL
    else if !Val.lt u (Val.ofInt 1024) then tailH
    else
      let i := u.floor
      let f := Val.add u (Val.ofInt (-(i : Int)))
      let base := (if der then 3088 else 16) + 3 * i
      rn32 (Val.sum [w base, Val.mul (w (base + 1)) f, Val.mul (w (base + 2)) (Val.mul f f)])

/-- The operation saves (Table 5.6). -/
def tableSaves (op : Nat) : Bool := op == 2 || op == 6 || op == 7

/-- The operation reads B. -/
def tableReadsB (op : Nat) : Bool := op == 4 || op == 5 || op == 7 || op == 8

/-- The operation's A is a mask. -/
def tableMaskA (op : Nat) : Bool := op == 5 || op == 8

/-- The operation reads its table slot (R118). -/
def tableReadsTable (op : Nat) : Bool := 1 ≤ op && op ≤ 4

/-- Table slot of a descriptor. -/
def tSlot (d : Bytes) : Nat := bits (fieldB d 31 1) 5 3

/-- SaveMask of a descriptor. -/
def tSaveMask (d : Bytes) : Bool := bit (fieldB d 31 1) 0

/-- The first illegal field of a table descriptor (R77, R78, R117, R121). -/
def tableIllegal (d : Bytes) : Option Nat :=
  let op := dOp d
  let ctl := fieldB d 2 2
  let n := fieldB d 4 4
  let rb := tableReadsB op
  let sv := tableSaves op
  firstIllegal
    [(1, 1 ≤ op && op ≤ 8),
     (2, ctlLegal ctl && vectorFormat (ctlFormat ctl)),
     (4, 1 ≤ n && n ≤ 16777216 && (!vectorAnyMX (!rb) d || n % 32 == 0)),
     (14, if tableMaskA op then fieldB d 14 1 == 0x0F else vectorFormat (fieldB d 14 1)),
     (15, segVT (fieldB d 15 1)),
     (16, rb || fieldB d 16 6 == 0),
     (22, if rb then vectorFormat (fieldB d 22 1) else fieldB d 22 1 == 0),
     (23, if rb then segVT (fieldB d 23 1) else fieldB d 23 1 == 0),
     (30, segVT (fieldB d 30 1)),
     (31, fieldB d 31 1 < 64 && (op == 2 || !tSaveMask d)),
     (32, (fieldB d 32 6 != 0) == sv),
     (38, if fieldB d 32 6 == 0 then fieldB d 38 1 == 0 else segVT (fieldB d 38 1)),
     (39, fieldB d 39 1 == 0),
     (42, op == 6 || fieldB d 42 2 == 0),
     (52, op == 6 || fieldB d 52 4 == 0),
     (56, allZero ((d.drop 56).take 8))]

/-- Format of the saved tensor: a mask, or BF16 (Table 5.6). -/
def tableSaveFmt (d : Bytes) : Fmt := if dOp d == 2 && !tSaveMask d then .bf16 else .mask1

/-- Bytes of D with its scales, from Dst to its last byte. -/
def tensorEnd (f : Fmt) (off n : Nat) : Nat :=
  if f.isMX then alignUp (off + f.bytesFor n) 4096 + ceilDiv n 32 else off + f.bytesFor n

/-- Offset of E of MAXSEL_GRAD (R118). -/
def tableEOff (d : Bytes) : Nat :=
  alignUp (tensorEnd (fmtD (ctlFormat (fieldB d 2 2))) (fieldB d 24 6) (fieldB d 4 4)) 4096

/-- Accesses of a table descriptor of basin `b`. -/
def tableAccesses (b : Nat) (d : Bytes) : List Access :=
  let op := dOp d
  let n := fieldB d 4 4
  let r := Reach.poolsOnly b
  let fd := fmtD (ctlFormat (fieldB d 2 2))
  tensorAccesses 8 (fieldB d 15 1) (fieldB d 8 6) (fmtD (fieldB d 14 1)) n false r ++
  (if tableReadsB op then tensorAccesses 16 (fieldB d 23 1) (fieldB d 16 6) (fmtD (fieldB d 22 1)) n false r else []) ++
  tensorAccesses 24 (fieldB d 30 1) (fieldB d 24 6) fd n true r ++
  (if op == 8 then tensorAccesses 24 (fieldB d 30 1) (tableEOff d) fd n true r else []) ++
  (if tableSaves op then tensorAccesses 32 (fieldB d 38 1) (fieldB d 32 6) (tableSaveFmt d) n true r else [])

/-- The random value of element `i` of a DROPOUT (R119). -/
def dropoutWord (key : Bytes) (salt i : Nat) : Nat :=
  fieldB (sm4Encrypt key (toLE 4 salt ++ [0, 0, 4, 0] ++ toLE 8 (i / 8))) (2 * (i % 8)) 2

/-- Results of one element: D, E and the saved value. -/
structure TableElem where
  d : Val
  e : Val := .zero
  save : Val := .zero
  deriving DecidableEq, Repr

/-- A mask bit as a value. -/
def bitVal (p : Bool) : Val := if p then Val.one else Val.zero

/-- One element of a table operation (Table 5.6, R118, R119): `r` is DROPOUT's random value. FN_SAVE rounds its input to
BF16 (R118) also where the input is BF16 already, so a NaN is saved as the canonical one and not copied bit for bit as R68
has it for equal formats (DESIGN CHOICE, assumption 59). -/
def tableElem (op : Nat) (saveMask : Bool) (rec : Bytes) (thr r : Nat) (s0 s1 a b : Val) : TableElem :=
  let one := !a.isZero
  match op with
  | 1 => ⟨tableEval rec false a, .zero, .zero⟩
  | 2 => ⟨tableEval rec false a, .zero, if saveMask then bitVal (Val.lt Val.zero a) else rnBF16 a⟩
  | 3 => ⟨tableEval rec true a, .zero, .zero⟩
  | 4 => ⟨rn32 (Val.mul b (tableEval rec true a)), .zero, .zero⟩
  | 5 => ⟨rn32 (Val.mul b (if one then s1 else s0)), .zero, .zero⟩
  | 6 => if thr ≤ r then ⟨rn32 (Val.mul a s1), .zero, Val.one⟩ else ⟨.zero, .zero, .zero⟩
  | 7 => ⟨max2 a b, .zero, bitVal (Val.lt a b)⟩
  | _ => if one then ⟨.zero, b, .zero⟩ else ⟨b, .zero, .zero⟩

/-- What a table descriptor writes, computed from the state at its issue. -/
def State.tableResult (s : State) (b k : Nat) (bad : List Range) (d : Bytes) : List Stored :=
  let op := dOp d
  let n := fieldB d 4 4
  let ctl := fieldB d 2 2
  let fa := fmtD (fieldB d 14 1)
  let fb := fmtD (fieldB d 22 1)
  let fd := fmtD (ctlFormat ctl)
  let a := s.segAddr b k (fieldB d 15 1) (fieldB d 8 6)
  let ab := s.segAddr b k (fieldB d 23 1) (fieldB d 16 6)
  let sg := fieldB d 30 1
  let off := fieldB d 24 6
  let seed := (s.slot b k).seed.toNat
  let step := s.stepOf b
  let rc := ((s.basin b).tables.getD (tSlot d) none).getD []
  let va := s.valuesAt fa a (scaleAddr fa a n) n
  let vb := if tableReadsB op then s.valuesAt fb ab (scaleAddr fb ab n) n else []
  let pa := s.poisonAt bad fa a (scaleAddr fa a n) n
  let pb := if tableReadsB op then s.poisonAt bad fb ab (scaleAddr fb ab n) n else []
  let marks := (List.range n).map fun i => pa.getD i false || pb.getD i false
  let key := randomKey seed step
  let elems := (List.range n).map fun i =>
    tableElem op (tSaveMask d) rc (fieldB d 42 2) (if op == 6 then dropoutWord key (fieldB d 52 4) i else 0)
      (f32 (fieldB d 44 4)) (f32 (fieldB d 48 4)) (va.getD i .zero) (vb.getD i .zero)
  let so := fieldB d 32 6
  let sf := tableSaveFmt d
  let nonsat : Nat := 0x400
  storeTensor fd ctl seed step sg off (s.segAddr b k sg off) (elems.map (·.d)) marks ::
    (if op == 8 then
      [storeTensor fd ctl seed step sg (tableEOff d) (s.segAddr b k sg (tableEOff d)) (elems.map (·.e)) marks] else []) ++
    (if tableSaves op then
      [storeTensor sf nonsat seed step (fieldB d 38 1) so (s.segAddr b k (fieldB d 38 1) so) (elems.map (·.save)) marks]
     else [])

/-- A TABLE_LOAD to slot `n` is open in basin `b` (R115). -/
def State.tableLoading (s : State) (b n : Nat) : Bool :=
  s.opens.any fun o =>
    match o.kind with
    | .tableLoad bs sl _ _ => sl == n && bit bs b
    | _ => false

/-- The operation's table slot holds a pair and is not being loaded (R115). -/
def State.tableReady (s : State) (b : Nat) (d : Bytes) : Bool :=
  !tableReadsTable (dOp d) || (((s.basin b).tables.getD (tSlot d) none).isSome && !s.tableLoading b (tSlot d))

/-- A table descriptor at the head of its slot: halts, waits or issues. -/
def State.tableIssue (s : State) (b : Nat) (errs : List CheckErr) (k : Nat) : State :=
  s.atHead b k 4 (fun _ => true) tableIllegal fun d =>
    if s.tableReady b d then
      let xs := tableAccesses b d
      s.checked b k xs <|
        let w := (xs.filter (·.write)).map fun x => (s.segAddr b k x.seg x.off, x.len)
        if s.countsAllow w then
          let s := s.noteErrs b errs
          let out := s.tableResult b k (badReads errs) d
          let id := s.nextFlight
          let s := (s.putStored b k errs out).issued b k d .table w [b] false none
          if tableReadsTable (dOp d) then
            { s with flights := s.flights.map fun (f : Flight) => if f.id == id then { f with table := some (tSlot d) } else f }
          else s
        else s
    else s

/-- A table operation that a test admits, in its turn (R26). -/
def State.tableStep (s : State) (b k : Nat) (errs : List CheckErr) (isOp : Nat → Bool) : State :=
  if s.headMeets b k (· == 4) isOp then s.inTurn b .table k (s.tableIssue b errs) else s

/-- FN (R118), and the table descriptors whose Op is none of Table 5.6 (R121). -/
def execFn (t b k : Nat) (errs : List CheckErr) (s : State) : Host.Outcome State Fault Refusal :=
  s.runAlive t fun u => u.tableStep b k errs fun op => op == 1 || op == 0 || 8 < op
/-- FN_SAVE (R118, R119). -/
def execFnSave (t b k : Nat) (errs : List CheckErr) (s : State) : Host.Outcome State Fault Refusal :=
  s.runAlive t fun u => u.tableStep b k errs (· == 2)
/-- DERIV (R118). -/
def execDeriv (t b k : Nat) (errs : List CheckErr) (s : State) : Host.Outcome State Fault Refusal :=
  s.runAlive t fun u => u.tableStep b k errs (· == 3)
/-- GRAD (R118). -/
def execGrad (t b k : Nat) (errs : List CheckErr) (s : State) : Host.Outcome State Fault Refusal :=
  s.runAlive t fun u => u.tableStep b k errs (· == 4)
/-- GRAD_MASK (R118). -/
def execGradMask (t b k : Nat) (errs : List CheckErr) (s : State) : Host.Outcome State Fault Refusal :=
  s.runAlive t fun u => u.tableStep b k errs (· == 5)
/-- DROPOUT (R118, R119). -/
def execDropout (t b k : Nat) (errs : List CheckErr) (s : State) : Host.Outcome State Fault Refusal :=
  s.runAlive t fun u => u.tableStep b k errs (· == 6)
/-- MAXSEL (R118, R119). -/
def execMaxsel (t b k : Nat) (errs : List CheckErr) (s : State) : Host.Outcome State Fault Refusal :=
  s.runAlive t fun u => u.tableStep b k errs (· == 7)
/-- MAXSEL_GRAD (R118). -/
def execMaxselGrad (t b k : Nat) (errs : List CheckErr) (s : State) : Host.Outcome State Fault Refusal :=
  s.runAlive t fun u => u.tableStep b k errs (· == 8)

/-- TABLE_OPERATION_COMPLETE (R120, R286): the n-th oldest table operation of basin `b` completes. -/
def execTableOperationComplete (t b n : Nat) (s : State) : Host.Outcome State Fault Refusal :=
  s.runAlive t fun u => u.completeNth b .table n

end Sys2Proof.Machine
end

