-- ==== Sys2Proof/Machine/Programs.lean ====
section
/-! DEFINITION. Program, table, task and step commands (spec 15 R342 to R347; 05 R114, R115; 13 R296 to R298). -/

namespace Sys2Proof.Machine

/-! ### PROGRAM_LOAD (R343) -/

/-- Bytes [off, off + n) of the stack segment of slot (b, k) are stack bytes of the slot's partition. -/
def State.streamFits (s : State) (b k off n : Nat) : Bool :=
  let g := s.seg b k 1
  off % 4096 == 0 && n % 16 == 0 && 16 ≤ n && g.size != 0 && off + n ≤ g.size &&
    ((g.base + off) :: s.edges.filter fun e => g.base + off < e && e < g.base + off + n).all fun a =>
      (s.byteCause ((s.partitionOf b).getD 8) .any a).isNone

/-- States 2, 3 and 4. -/
def Slot.isUsed (x : Slot) : Bool := x.clearing || x.state == .running || x.state == .halted || x.state == .finished

/-- PROGRAM_LOAD after the gate. -/
def State.programLoad (s : State) (x : Ticket) (c : Bytes) (buf : Option Bytes) : State :=
  let b := fieldB c 8 1
  let k := fieldB c 9 1
  let off := fieldB c 16 6
  if 7 < b || 15 < k then s.reply x .badArgument
  else
    s.withInput x c 24 (s.streamFits b k off) buf fun bs =>
      if (s.slot b k).isUsed then s.reply x .busy
      else s.accept x (.programLoad b k off ((s.seg b k 1).base + off) bs) id

/-- PROGRAM_LOAD_COMPLETE: every byte is committed. A slot started meanwhile keeps running. -/
def State.programLoaded (s : State) (b k : Nat) : State :=
  match s.findOpen fun y => match y with | .programLoad c j _ _ _ => c == b && j == k | _ => false with
  | none => s
  | some o =>
    match o.kind with
    | .programLoad _ _ off a bs =>
      let s := s.put a bs false
      let s := s.modSlot b k fun y =>
        { y with streamOff := off, length := bs.length, digest := sm3 bs, state := if y.isUsed then y.state else .loaded
                 position := if y.isUsed then y.position else 0 }
      s.finish o .done (sm3 bs ++ toLE 4 bs.length)
    | _ => s

/-! ### TABLE_LOAD (R344, R114, R115) -/

/-- TABLE_LOAD after the gate. -/
def State.tableLoad (s : State) (x : Ticket) (c : Bytes) (buf : Option Bytes) : State :=
  let bs := fieldB c 8 1
  let n := fieldB c 9 1
  if bs = 0 || 7 < n then s.reply x .badArgument
  else
    s.withInput x c 16 (· == 24640) buf fun r =>
      if !tableLegal r then s.reply x .badArgument
      else s.accept x (.tableLoad bs n r false) id

/-- The named basins that can hold the record. -/
def State.tableTargets (s : State) (bs : Nat) : List Nat :=
  (List.range 8).filter fun b => bit bs b && (s.basin b).state == .active

/-- The basins that an open TABLE_LOAD of slot `n` names, as bits. -/
def loadBasins (n : Nat) (o : OpenCmd) : Nat :=
  match o.kind with
  | .tableLoad bs m _ _ => if m == n then bs else 0
  | _ => 0

/-- The first TABLE_LOAD of slot `n` that can complete: no issued table operation uses the slot in a basin that it names, and
no earlier load of the slot names one of its basins (R115). -/
def State.nextTableLoad (s : State) (n : Nat) : List OpenCmd → Nat → Option OpenCmd
  | [], _ => none
  | o :: os, before =>
    let bs := loadBasins n o
    if bs != 0 && bs &&& before == 0 && !s.flights.any fun f => f.table == some n && bit bs f.basin then some o
    else s.nextTableLoad n os (before ||| bs)

/-- TABLE_LOAD_COMPLETE: the issued table operations that use the slot have completed in every named basin. -/
def State.tableLoaded (s : State) (n : Nat) : State :=
  match s.nextTableLoad n s.opens 0 with
  | none => s
  | some o =>
    match o.kind with
    | .tableLoad bs _ r failed =>
      let s := (s.tableTargets bs).foldl (fun (s : State) b =>
        s.modBasin b fun y => { y with tables := y.tables.set n (some r) }) s
      s.finish o (if failed then .hardwareFault else .done) (sm3 r)
    | _ => s

/-! ### Tasks (R345, R346) -/

/-- The cells named by a 256-bit mask. -/
def maskCells (m : Nat) : List Nat := (List.range 256).filter fun c => bit m c

/-- A record of slot (b, k) waits in the wellhead for a full ring (R319). -/
def State.recordWaits (s : State) (b k : Nat) : Bool :=
  s.funcs.any fun f => f.mailboxes.any fun m => m.waiting.any fun r => r.source == .slot b k

/-- Another running slot of the basin owns cell `c`. -/
def State.ownedElsewhere (s : State) (b k c : Nat) : Bool :=
  let x := s.cell b c
  x.owned && x.owner.toNat != k && (s.slot b x.owner.toNat).state == .running

/-- The slot as it starts. -/
def Slot.start (x : Slot) (fn : Nat) (c : Bytes) : Slot :=
  { x with
    state := .running, position := 0, fn := fn, mailbox := fieldB c 10 1, repeatCount := fieldB c 14 2, runsDone := 0
    seed := BitVec.ofNat 64 (fieldB c 16 8), regionPart := 3, regionFrozen := false, clearing := false, stoppedAt := 0
    crossover := if fieldB c 12 2 = 0 then 1311 else fieldB c 12 2 }

/-- TASK_START after the gate. -/
def State.taskStart (s : State) (x : Ticket) (c : Bytes) : State :=
  let b := fieldB c 8 1
  let k := fieldB c 9 1
  let cells := maskCells (fieldB c 24 32)
  if 7 < b || 15 < k || 3 < fieldB c 10 1 then s.reply x .badArgument
  else if (s.slot b k).state == .empty then s.reply x .notPermitted
  else if (s.slot b k).isUsed then s.reply x .busy
  else if s.recordWaits b k then s.reply x .busy
  else if cells.any (s.ownedElsewhere b k) then s.reply x .busy
  else
    let s := cells.foldl (fun (s : State) j =>
      s.modCell b j fun _ => { count := 0, target := 1, owned := true, owner := BitVec.ofNat 4 k }) s
    (s.modSlot b k fun y => y.start x.fn c).reply x .done

/-- TASK_STOP after the gate. -/
def State.taskStop (s : State) (x : Ticket) (c : Bytes) : State :=
  let b := fieldB c 8 1
  let k := fieldB c 9 1
  if 7 < b || 15 < k then s.reply x .badArgument
  else if !(s.slot b k).isUsed then s.reply x .done (toLE 8 (s.slot b k).position)
  else s.accept x (.taskStop b k) fun s => if (s.slot b k).clearing then s else s.stopSlot b k

/-- Code of a slot State (R345). -/
def SlotState.code : SlotState → Nat
  | .empty => 0 | .loaded => 1 | .running => 2 | .halted => 3 | .finished => 4

/-- TASK_QUERY after the gate. -/
def State.taskQuery (s : State) (x : Ticket) (c : Bytes) : State :=
  let b := fieldB c 8 1
  let k := fieldB c 9 1
  let y := s.slot b k
  if 7 < b || 15 < k then s.reply x .badArgument
  else
    s.reply x .done (toLE 1 y.state.code ++ toLE 1 y.mailbox ++ toLE 2 (y.runsDone % 65536) ++ zeros 4 ++
      toLE 8 y.position ++ y.digest)

/-! ### Still plans (R297, R298, R347) -/

/-- The window open at this moment keeps the plan it opened under. -/
def State.keepWindow (s : State) (p : Nat) : Option StillPlan :=
  let x := s.partition p
  if s.windowOpen p x.ruling then some x.ruling else x.windowPlan

/-- W is in its range for a period, both in ns (R298). -/
def windowLegal (period w : Nat) : Bool := 1000 ≤ w && w ≤ 1000000 && (period == 0 || 10 * w ≤ period)

/-- STILL_PLAN after the gate. A still that was due after the one in progress was the old plan's (R347). -/
def State.stillPlan (s : State) (x : Ticket) (c : Bytes) : State :=
  let p := fieldB c 8 1
  let period := fieldB c 12 4 * 1000
  let first := fieldB c 16 8
  let y := s.partition p
  let after := if s.windowOpen p y.ruling then max s.time (y.ruling.next + y.ruling.window) else s.time
  if 7 < p || (period != 0 && (period < 100000 || 600000000000 < period)) then s.reply x .badArgument
  else if period = 0 && first != 0 then s.reply x .badArgument
  else if period != 0 && first ≤ after then s.reply x .badArgument
  else if s.pulsesCount p y.plan && period != 0 && !windowLegal period y.plan.window then s.reply x .badArgument
  else
    let kept := s.keepWindow p
    (s.modPartition p fun y => { y with plan := { y.plan with period := period, next := first }, windowPlan := kept, stillQueued := false }).reply x .done

/-- The source that STILL_WINDOW_SET names. -/
def sourceOf (n tree : Nat) : PulseSource := if n = 1 then .pin else if n = 2 then .tree tree else .off

/-- STILL_WINDOW_SET after the gate. -/
def State.stillWindowSet (s : State) (x : Ticket) (c : Bytes) : State :=
  let p := fieldB c 8 1
  let source := fieldB c 9 1
  let tree := fieldB c 10 1
  let echo := fieldB c 11 1
  let w := fieldB c 12 2 * 1000
  if 7 < p || 2 < source || (source != 2 && tree != 0) || !(echo == 0xFF || echo == 0x80 || echo < 8) ||
      !windowLegal (s.partition p).plan.period w || (source == 2 && (s.tree p tree).isNone) then s.reply x .badArgument
  else
    let kept := s.keepWindow p
    let s := s.modPartition p fun y => { y with plan := { y.plan with source := sourceOf source tree, window := w }, windowPlan := kept }
    let s : State := if echo = 0xFF then s else if echo = 0x80 then { s with echo := none } else { s with echo := some echo }
    s.reply x .done

/-! ### Commands -/

/-- The gate of PROGRAM_LOAD (Table 15.2 and its arguments). -/
def specProgramLoad : CmdSpec :=
  { opcode := 0x0401, states := inUS, basins := oneBasin 8, basinOk := (· == .active)
    fields := [(8, 1), (9, 1), (16, 6), (24, 16)] }
/-- PROGRAM_LOAD (R343). -/
def execProgramLoad (t fn mb : Nat) (buf : HostBuf) (s : State) : Host.Outcome State Fault Refusal :=
  s.run t fun u => u.command fn mb specProgramLoad fun u x c => u.programLoad x c buf
/-- PROGRAM_LOAD_COMPLETE (R343). -/
def execProgramLoadComplete (t b k : Nat) (s : State) : Host.Outcome State Fault Refusal :=
  s.runWriter t fun u => u.programLoaded b k
/-- The gate of TABLE_LOAD (Table 15.2 and its arguments). -/
def specTableLoad : CmdSpec :=
  { opcode := 0x0402, states := inUS, basins := maskBasins 8, basinOk := (· == .active)
    fields := [(8, 1), (9, 1), (16, 16)] }
/-- TABLE_LOAD (R344). -/
def execTableLoad (t fn mb : Nat) (buf : HostBuf) (s : State) : Host.Outcome State Fault Refusal :=
  s.run t fun u => u.command fn mb specTableLoad fun u x c => u.tableLoad x c buf
/-- TABLE_LOAD_COMPLETE (R115). -/
def execTableLoadComplete (t slot : Nat) (s : State) : Host.Outcome State Fault Refusal :=
  s.runAlive t fun u => u.tableLoaded slot
/-- The gate of TASK_START (Table 15.2 and its arguments). -/
def specTaskStart : CmdSpec :=
  { opcode := 0x0403, states := inUS, basins := oneBasin 8, basinOk := (· == .active)
    fields := [(8, 1), (9, 1), (10, 1), (12, 2), (14, 2), (16, 8), (24, 32)] }
/-- TASK_START (R345). -/
def execTaskStart (t fn mb : Nat) (s : State) : Host.Outcome State Fault Refusal :=
  s.run t fun u => u.command fn mb specTaskStart State.taskStart
/-- The gate of TASK_STOP (Table 15.2 and its arguments). -/
def specTaskStop : CmdSpec :=
  { opcode := 0x0404, states := inUS, basins := oneBasin 8, basinOk := fun b => b == .active || b == .draining
    fields := [(8, 1), (9, 1)] }
/-- TASK_STOP (R346). -/
def execTaskStop (t fn mb : Nat) (s : State) : Host.Outcome State Fault Refusal :=
  s.run t fun u => u.command fn mb specTaskStop State.taskStop
/-- The gate of TASK_QUERY (Table 15.2 and its arguments). -/
def specTaskQuery : CmdSpec :=
  { opcode := 0x0405, states := inUS, basins := oneBasin 8, fields := [(8, 1), (9, 1)] }
/-- TASK_QUERY (R342). -/
def execTaskQuery (t fn mb : Nat) (s : State) : Host.Outcome State Fault Refusal :=
  s.run t fun u => u.command fn mb specTaskQuery State.taskQuery
/-- The gate of STILL_PLAN (Table 15.2 and its arguments). -/
def specStillPlan : CmdSpec :=
  { opcode := 0x0501, states := inUS, part := some 8, fields := [(8, 1), (12, 4), (16, 8)] }
/-- STILL_PLAN (R347). -/
def execStillPlan (t fn mb : Nat) (s : State) : Host.Outcome State Fault Refusal :=
  s.run t fun u => u.command fn mb specStillPlan State.stillPlan
/-- The gate of STILL_WINDOW_SET (Table 15.2 and its arguments). -/
def specStillWindowSet : CmdSpec :=
  { opcode := 0x0502, states := inUS, part := some 8, may := fun _ c => fieldB c 11 1 == 0xFF
    fields := [(8, 1), (9, 1), (10, 1), (11, 1), (12, 2)] }
/-- STILL_WINDOW_SET (R347). -/
def execStillWindowSet (t fn mb : Nat) (s : State) : Host.Outcome State Fault Refusal :=
  s.run t fun u => u.command fn mb specStillWindowSet State.stillWindowSet

end Sys2Proof.Machine
end

