-- ==== Sys2Proof/Machine/Secure.lean ====
section
/-! DEFINITION. Security commands: attestation reports, key release, weight imports and the debug unlock (spec 15 R351,
R355; 17 R390, R391, R396 to R406, R411). -/

namespace Sys2Proof.Machine

/-! ### Keys of the device (R390) -/

/-- ASCII bytes of a label of Table 17.1: "VT8824-ID". -/
def identityLabel : Bytes := [0x56, 0x54, 0x38, 0x38, 0x32, 0x34, 0x2D, 0x49, 0x44]

/-- The identity private key d, from the root secret. -/
def identityKey : Nat := beNat (sm3Kdf (toBE 32 Config.rootSecret ++ identityLabel) 32) % (sm2n - 1) + 1

/-- x then y of a point, each little-endian as every field of a report (R10). -/
def pointBytes (q : Nat × Nat) : Bytes := toLE 32 q.1 ++ toLE 32 q.2

/-- A private key or a signature nonce from a random draw. -/
def scalarOf (r : Nat) : Nat := r % (sm2n - 2) + 1

/-! ### Attestation reports (R396, R397) -/

/-- An entry of Table 17.5. -/
def reportEntry (kind basin slot seg fnId length off source : Nat) (digest : Bytes) : Bytes :=
  toLE 1 kind ++ toLE 1 basin ++ toLE 1 slot ++ toLE 1 seg ++ toLE 4 fnId ++ toLE 8 length ++ toLE 6 off ++ toLE 2 source ++
    zeros 8 ++ sliceB digest 0 32

/-- Program entries of basin `b`. -/
def State.programEntries (s : State) (b : Nat) : List Bytes :=
  (List.range 16).filterMap fun k =>
    let x := s.slot b k
    if x.state == .empty then none else some (reportEntry 1 b k 0 0 x.length x.streamOff 0 x.digest)

/-- Table entries of basin `b`. -/
def State.tableEntries (s : State) (b : Nat) : List Bytes :=
  (List.range 8).filterMap fun n =>
    ((s.basin b).tables.getD n none).map fun r => reportEntry 2 b n 0 (fieldB r 12 4) 24640 0 0 (sm3 (sliceB r 0 24640))

/-- The entries of a partition's report, in order. -/
def State.reportEntries (s : State) (p : Nat) : List Bytes :=
  (s.basinsOf p).flatMap s.programEntries ++ (s.basinsOf p).flatMap s.tableEntries ++ (s.partition p).importEntries

/-- The running image. -/
def State.running (s : State) : ImageSlot := if s.imageSlot = 0 then s.imageA else s.imageB

/-- Bits of the CXL ports that satisfy a test. -/
def portBits (f : Nat → Bool) : Nat := (List.range 8).foldl (fun acc q => acc + if f q then 2 ^ q else 0) 0

/-- Insert by a key into an ascending list. -/
def insertBy {α : Type} (key : α → Nat) (x : α) : List α → List α
  | [] => [x]
  | y :: ys => if key x ≤ key y then x :: y :: ys else y :: insertBy key x ys

/-- Records in ascending order of a key. -/
def sortedBy {α : Type} (key : α → Nat) (xs : List α) : List α := xs.foldr (insertBy key) []

/-- SM3 over the valid peer records of partition `p`, in context order. -/
def State.peerDigest (s : State) (p : Nat) : Bytes :=
  sm3 ((s.contexts.filter fun c => s.ownsContext p c.index).flatMap fun c => sliceB c.record 0 32)

/-- SM3 over the group records, then the tree records. -/
def State.groupDigest (s : State) (p : Nat) : Bytes :=
  sm3 ((sortedBy (·.gid) (s.partition p).groups).flatMap GroupRec.bytes ++
    (sortedBy (·.treeId) (s.partition p).trees).flatMap fun t => sliceB t.record 0 40)

/-- Bytes 0 to 191 of a header; `p` none in a device report. -/
def State.reportHead (s : State) (p : Option Nat) (nonce chain : Bytes) (entries : Nat) : Bytes :=
  let sees (q : Nat) : Bool := match p with
    | some n => s.holdsPort n q
    | none => true
  let held (q : Nat) : Bool := match p with
    | some n => s.holdsPort n q
    | none => (s.holderOf q).isSome
  let flags := (if s.debugUnlocked then 1 else 0) + (if s.fallbackBoot then 2 else 0) +
    if (List.range 8).any fun q => held q && (s.port q).plain then 4 else 0
  let f := match p with
    | some n => n + 1
    | none => 0
  toLE 2 1 ++ toLE 1 (if p.isSome then 1 else 0) ++ toLE 1 flags ++ toLE 4 (512 + 64 * entries) ++ toLE 4 entries ++
    toLE 4 chain.length ++ nonce ++ toLE 8 s.serial ++ toLE 4 s.bootCount ++ toLE 1 0xA1 ++ toLE 1 3 ++ toLE 1 s.abaopMinor ++
    toLE 1 s.imageSlot ++ toLE 4 s.firmware ++ toLE 4 s.versionFloor ++ s.running.stage1Digest ++ s.running.imageDigest ++
    (match s.staged with
      | some i => i.imageDigest
      | none => zeros 32) ++
    toLE 2 s.deviceId ++ toLE 1 s.feed ++ toLE 1 s.point ++ toLE 1 (s.openPartitions f) ++ zeros 3 ++ toLE 8 (s.stateRegister f) ++
    toLE 1 (portBits fun q => sees q && (s.port q).state == .online) ++ toLE 1 (portBits fun q => sees q && (s.port q).plain) ++ zeros 6

/-- Bytes 192 to 511 of the header of a partition's report. -/
def State.reportTail (s : State) (p : Nat) : Bytes :=
  let x := s.partition p
  toLE 1 p ++ toLE 1 x.basins.toNat ++ toLE 1 x.ports.toNat ++ zeros 1 ++ toLE 2 x.peerBase ++ toLE 2 x.peerCount ++
    pointBytes x.ephemeralPub ++ s.peerDigest p ++ s.groupDigest p ++ x.importChain ++ toLE 4 x.importCount ++
    toLE 4 1000 ++ toLE 4 65536 ++ toLE 2 10 ++ toLE 2 1000 ++ toLE 8 x.step ++ zeros 128

/-- The part of a report that is signed: the header and the entries. -/
def State.reportBody (s : State) (p : Option Nat) (nonce : Bytes) : Bytes :=
  match p with
  | some n =>
    let es := s.reportEntries n
    s.reportHead p nonce s.chain es.length ++ s.reportTail n ++ es.flatten
  | none => s.reportHead p nonce s.chain 0 ++ toLE 1 0xFF ++ zeros 319

/-- ATTEST_REPORT after the gate: the report is built and signed. -/
def State.attestReport (s : State) (x : Ticket) (c : Bytes) : State :=
  let p := fieldB c 8 1
  if 7 < p && p != 0xFF then s.reply x .badArgument
  else
    match bufferAt c 16 with
    | none => s.reply x .badArgument
    | some (a, n) =>
      let part := if p = 0xFF then none else some p
      let body := s.reportBody part (sliceB c 32 32)
      let total := body.length + 64 + s.chain.length
      if n < total then s.reply x .badArgument (toLE 4 total)
      else
        let (r, s) := s.random
        s.accept x (.attest part a (body ++ sm2Sign identityKey (scalarOf r) body ++ s.chain)) id

/-- Bytes that a report's signature covers. -/
def signedLength (report : Bytes) : Nat := fieldB report 4 4

/-- The digest of a partition's report joins its last four (R398), unless the partition was closed since. -/
def State.keepReport (s : State) (p : Nat) (report : Bytes) : State :=
  s.modPartition p fun y =>
    if y.isOpen && pointBytes y.ephemeralPub == sliceB report 200 64 then
      let all := y.reportDigests ++ [sm3 (report.take (signedLength report))]
      { y with reportDigests := all.drop (all.length - 4) }
    else y

/-- ATTEST_REPORT_COMPLETE: the report is written to the host buffer. -/
def State.attestComplete (s : State) (outOk : Bool) : State :=
  match s.findOpen fun k => match k with | .attest .. => true | _ => false with
  | none => s
  | some o =>
    match o.kind with
    | .attest part a report =>
      if !outOk then s.finish o .hardwareFault
      else
        let s : State := { s with hostWrites := s.hostWrites ++ [(a, report)] }
        let s := match part with
          | some p => s.keepReport p report
          | none => s
        s.finish o .done (toLE 4 report.length)
    | _ => s

/-! ### KEY_ACCEPT (R355, R400, R401) -/

/-- The plaintext of a wrapped key for partition `p` and a Kind, when the four checks of R400 pass. -/
def State.unwrap (s : State) (p kind : Nat) (wrapped : Bytes) : Option Bytes :=
  let x := s.partition p
  if s.debugUnlocked then none
  else
    match sm2Decrypt x.ephemeral wrapped with
    | none => none
    | some m =>
      if fieldB m 16 1 == kind && allZero (sliceB m 17 15) && x.reportDigests.contains (sliceB m 32 32) then some m else none

/-- The KeyRef is named by a valid context of partition `p` or by an open import. -/
def State.keyInUse (s : State) (p ref : Nat) : Bool :=
  (s.contexts.any fun c => s.ownsContext p c.index && c.encrypt && c.keyRef == ref) ||
    (s.partition p).imports.any fun i => i.keyRef == ref

/-- KEY_ACCEPT after the gate. -/
def State.keyAccept (s : State) (x : Ticket) (c : Bytes) (buf : Option Bytes) : State :=
  let p := fieldB c 8 1
  let kind := fieldB c 9 1
  let ref := fieldB c 12 4
  if 7 < p || 1 < kind || ref < 1 || 255 < ref then s.reply x .badArgument
  else
    s.withInput x c 16 (· == 161) buf fun w =>
      match s.unwrap p kind w with
      | none => s.reply x .authFailed
      | some m =>
        if s.keyInUse p ref then s.reply x .busy
        else
          (s.modPartition p fun y => { y with keys :=
            (y.keys.filter fun k => k.ref != ref) ++ [{ ref := ref, kind := kind, key := sliceB m 0 16 }] }).reply x .done

/-! ### WEIGHTS_IMPORT (R355, R404 to R406) -/

/-- A range meets a port attached with Plain. -/
def State.meetsPlain (s : State) (r : Range) : Bool :=
  (List.range 8).any fun q => (s.port q).plain && rangesMeet r (cxlBase q, 0x20000000000)

/-- WEIGHTS_IMPORT after the gate. -/
def State.weightsImport (s : State) (x : Ticket) (c : Bytes) : State :=
  let p := fieldB c 8 1
  let b := fieldB c 9 1
  let k := fieldB c 10 1
  let g := fieldB c 11 1
  let ref := fieldB c 12 4
  let off := fieldB c 16 6
  let n := fieldB c 24 8
  let src := fieldB c 32 2
  if 7 < p || 7 < b || 15 < k || 2 < g || n = 0 || n % 64 != 0 || !s.holdsBasin p b ||
      (s.accessCause b k { field := 16, seg := g, off := off, len := n, write := true, reach := .any }).isSome then
    s.reply x .badArgument
  else if s.meetsPlain (s.segAddr b k g off, n) then s.reply x .notPermitted
  else if (s.keyAt p ref 0).isNone || (s.partition p).imports.any fun i => i.keyRef == ref then s.reply x .authFailed
  else if (s.importOf p src).isSome then s.reply x .badArgument
  else
    match s.ctxFor p src with
    | none => s.reply x .badArgument
    | some ctx =>
      if ctx.lost then s.reply x .hardwareFault
      else
        s.accept x (.weights p src) fun s => s.modPartition p fun y => { y with imports := y.imports ++
          [{ basin := b, slot := k, seg := g, keyRef := ref, dstOff := off, length := n, source := src }] }

/-- The import digest over the units in order (R405). -/
def importDigest (i : Import) : Bytes :=
  sm3 ((List.range ((i.length + 4095) / 4096)).flatMap fun j =>
    match i.units.find? fun u => u.1 == 4096 * j with
    | some u => u.2
    | none => [])

/-- Every unit is written: the import ends, its entry is appended and the chain moves on. -/
def State.importDone (s : State) (p : Nat) (i : Import) : State :=
  let d := importDigest i
  let e := reportEntry 3 i.basin i.slot i.seg 0 i.length i.dstOff i.source d
  let s := s.modPartition p fun y =>
    let all := y.importEntries ++ [e]
    { y with importEntries := all.drop (all.length - 1024), importChain := sm3 (y.importChain ++ e), importCount := y.importCount + 1 }
  s.closeImport p i .done d

/-- WEIGHT_DATA reaches its import: one opened unit. -/
def State.onWeightData (s : State) (p _ctx : Nat) (m : Msg) : State :=
  match s.importOf p m.src with
  | none => s
  | some i =>
    let o := m.place44
    if o % 4096 != 0 || i.length ≤ o || m.payload.length != min 4096 (i.length - o) then s.bumpBasin i.basin cRecvBound
    else
      let s := s.put (s.segAddr i.basin i.slot i.seg (i.dstOff + o)) m.payload false
      let j : Import := { i with units := (i.units.filter fun u => u.1 != o) ++ [(o, sm3 m.payload)] }
      let s := s.modPartition p fun y => { y with imports := y.imports.map fun z => if z.source == i.source then j else z }
      if j.units.length = (i.length + 4095) / 4096 then s.importDone p j else s

/-! ### DEBUG_UNLOCK (R411) -/

/-- The signed unlock verifies. -/
def State.unlockVerifies (s : State) (u : Bytes) : Bool :=
  fieldB u 0 2 == 1 && fieldB u 2 2 < 2 && fieldB u 4 4 == s.bootCount && fieldB u 8 8 == s.serial && allZero (sliceB u 16 16) &&
    sm2Verify s.running.vendorKey (sliceB u 0 32) (fieldB u 32 32) (fieldB u 64 32)

/-- DEBUG_UNLOCK after the gate. -/
def State.debugUnlock (s : State) (x : Ticket) (c : Bytes) (buf : Option Bytes) : State :=
  s.withInput x c 16 (· == 96) buf fun u =>
    if !s.unlockVerifies u then s.reply x .authFailed
    else ({ s with debugUnlocked := s.debugUnlocked || bit (fieldB u 2 1) 0 } : State).reply x .done

/-! ### Commands -/

/-- The gate of ATTEST_REPORT (Table 15.2 and its arguments). -/
def specAttestReport : CmdSpec :=
  { opcode := 0x0801, states := inHRUS, part := some 8, fields := [(8, 1), (16, 16), (32, 32)] }
/-- ATTEST_REPORT (R396). -/
def execAttestReport (t fn mb : Nat) (s : State) : Host.Outcome State Fault Refusal :=
  s.run t fun u => u.command fn mb specAttestReport State.attestReport
/-- ATTEST_REPORT_COMPLETE (R396). -/
def execAttestReportComplete (t : Nat) (outOk : Bool) (s : State) : Host.Outcome State Fault Refusal :=
  s.run t fun u => if u.answers then u.attestComplete outOk else u
/-- The gate of KEY_ACCEPT (Table 15.2 and its arguments). -/
def specKeyAccept : CmdSpec :=
  { opcode := 0x0802, states := inUS, part := some 8, fields := [(8, 1), (9, 1), (12, 4), (16, 16)] }
/-- KEY_ACCEPT (R400). -/
def execKeyAccept (t fn mb : Nat) (buf : HostBuf) (s : State) : Host.Outcome State Fault Refusal :=
  s.run t fun u => u.command fn mb specKeyAccept
    fun u x c => u.keyAccept x c buf
/-- The gate of WEIGHTS_IMPORT (Table 15.2 and its arguments). -/
def specWeightsImport : CmdSpec :=
  { opcode := 0x0803, states := inUS, part := some 8, basins := oneBasin 9, basinOk := (· == .active)
    fields := [(8, 1), (9, 1), (10, 1), (11, 1), (12, 4), (16, 6), (24, 8), (32, 2)] }
/-- WEIGHTS_IMPORT (R404). -/
def execWeightsImport (t fn mb : Nat) (s : State) : Host.Outcome State Fault Refusal :=
  s.run t fun u => u.command fn mb specWeightsImport State.weightsImport
/-- WEIGHT_DATA (R404, R405). -/
def execWeightData (t : Nat) (s : State) : Host.Outcome State Fault Refusal :=
  s.runWriter t fun u => u.onMessage (· == 2) 0x38 State.onWeightData
/-- The gate of DEBUG_UNLOCK (Table 15.2 and its arguments). -/
def specDebugUnlock : CmdSpec :=
  { opcode := 0x0804, states := fun d => d == .held || d == .ready, physical := true, fields := [(16, 16)] }
/-- DEBUG_UNLOCK (R411). -/
def execDebugUnlock (t fn mb : Nat) (buf : HostBuf) (s : State) : Host.Outcome State Fault Refusal :=
  s.run t fun u => u.command fn mb specDebugUnlock
    fun u x c => u.debugUnlock x c buf

end Sys2Proof.Machine
end

