-- ==== Sys2Proof/Machine/Service.lean ====
section
/-! DEFINITION. Service in operation: draining, service, retirement and calibration of basins, firmware staging and the
handover (spec 14 R323, Table 14.11; 15 R360, R361; 17 R392 to R394; 18 R419 to R430). -/

namespace Sys2Proof.Machine

/-! ### Draining a basin (R421, Table 18.5) -/

/-- Step 1: the slot stops, and one in State 2 posts its service record. -/
def State.drainSlot (s : State) (b k : Nat) : State :=
  let x := s.slot b k
  if x.clearing || !x.isUsed then s
  else
    let s := if x.state == .running then s.postSlot b k 4 1 0 0 0 0 else s
    s.stopSlot b k

/-- Step 2: a staged gang pass of another basin that includes basin `b` is unstaged, and its task halts. -/
def State.unstageGang (s : State) (b : Nat) : State :=
  match (s.basin b).mere.staged with
  | some x => if x.lead = b then s else (s.dropStaged x.lead x.slot).halt x.lead x.slot .gangUnavailable (2 ^ b) 0 0 0
  | none => s

/-- What BASIN_DRAIN does at once. -/
def State.startDrain (s : State) (b : Nat) : State :=
  let s := (s.modBasin b fun x => { x with state := .draining }).unstageGang b
  let s := (List.range 16).foldl (fun (s : State) k => s.drainSlot b k) s
  match s.partitionOf b with
  | some p => s.failImports p fun x => x.basin == b
  | none => s

/-- BASIN_DRAIN after the gate. -/
def State.basinDrain (s : State) (x : Ticket) (c : Bytes) : State :=
  let b := fieldB c 8 1
  if 7 < b then s.reply x .badArgument
  else if s.busyBasin b then s.reply x .busy
  else s.accept x (.drain b s.time) fun s => s.startDrain b

/-- The drain of basin `b`. -/
def State.drainOf (s : State) (b : Nat) : Option OpenCmd :=
  s.findOpen fun k => match k with | .drain c _ => c == b | _ => false

/-- Issued work still uses basin `b`, or a TASK_STOP accepted meanwhile is open on it (steps 3 and 4). -/
def State.basinInUse (s : State) (b : Nat) : Bool :=
  (s.flights.any fun f => f.basin == b || f.basins.contains b) || (s.basin b).mere.staged.isSome ||
    s.opens.any fun o => match o.kind with
      | .taskStop c _ => c == b
      | _ => false

/-- DRAIN_COMPLETE: steps 5 to 7. -/
def State.drainComplete (s : State) (b : Nat) : State :=
  match s.drainOf b with
  | none => s
  | some o =>
    if s.basinInUse b then s
    else
      let s := ((s.clearBasin b).freeSlots b).emptyBasin b
      (s.modBasin b fun x => { x with state := .service, needsCalibration := false }).finish o .done

/-- DRAIN_COLLECTIVE_TIMEOUT: collectives not ended 100 ms after ACCEPTED are broken at this device (step 4). -/
def State.drainTimeout (s : State) (b : Nat) : State :=
  match s.drainOf b with
  | none => s
  | some o =>
    match o.kind with
    | .drain _ at_ =>
      if s.time < at_ + 100000000 then s
      else
        (s.flights.filter fun f => f.unit == .collective && f.basin == b).foldl (fun (s : State) f =>
          match s.instances.find? fun i => i.member.any fun m => m.flight == f.id with
          | some i => s.memberGivesUp i
          | none => s) s
    | _ => s

/-! ### SERVICE and RETIRED (R360, R423) -/

/-- BASIN_SERVICE after the gate. -/
def State.basinService (s : State) (x : Ticket) (c : Bytes) : State :=
  let b := fieldB c 8 1
  if 7 < b then s.reply x .badArgument
  else if s.busyBasin b then s.reply x .busy
  else
    let retired := (s.basin b).state == .retired
    ((s.emptyBasin b).modBasin b fun y => { y with state := .service, needsCalibration := retired }).reply x .done

/-- The retirement map record in use marks basin `b`. -/
def State.mapRetired (s : State) (b : Nat) : Bool :=
  s.store.any fun r => r.type == 5 && r.committed && bit (fieldB r.payload 0 1) b

/-- BASIN_RETURN after the gate. -/
def State.basinReturn (s : State) (x : Ticket) (c : Bytes) : State :=
  let b := fieldB c 8 1
  if 7 < b then s.reply x .badArgument
  else if (s.basin b).needsCalibration then s.reply x .notPermitted
  else if s.busyBasin b then s.reply x .busy
  else
    let s := s.modBasin b fun y =>
      { y with state := if (s.partitionOf b).isSome then .active else .idle
               slots := y.slots.map fun (z : Slot) => if z.isUsed then { z with state := .loaded, clearing := false } else z }
    (if s.mapRetired b then s.commitRetired else s).reply x .done

/-- BASIN_RETIRE after the gate. -/
def State.basinRetire (s : State) (x : Ticket) (c : Bytes) : State :=
  let b := fieldB c 8 1
  if 7 < b then s.reply x .badArgument
  else if s.busyBasin b then s.reply x .busy
  else
    let s := (((s.emptyBasin b).modBasin b fun y => { y with state := .retired, needsCalibration := false }).commitRetired).reply x .done
    if (List.range 8).all fun q => (s.basin q).state == .retired then s.enterFault 9 else s

/-! ### CALIBRATE (R360, R424) -/

/-- CALIBRATE after the gate. -/
def State.calibrate (s : State) (x : Ticket) (c : Bytes) : State :=
  let b := fieldB c 8 1
  let items := fieldB c 9 1
  if 7 < b || items = 0 then s.reply x .badArgument
  else s.accept x (.calibrate b (bit items 0) (bit items 1)) id

/-- CALIBRATION_COMPLETE; `failed` are the stacks that failed training. -/
def State.calibrated (s : State) (b : Nat) (failed : List Nat) : State :=
  match s.findOpen fun k => match k with | .calibrate c _ _ => c == b | _ => false with
  | none => s
  | some o =>
    match o.kind with
    | .calibrate _ hbm microcode =>
      if hbm && failed.any fun i => i / 3 == b then s.basinFault b
      else
        let s := if hbm then
            let (values, s) := s.freeBytes 0 24
            let s := (s.commitRecord 6 values).modBasin b fun y => { y with needsCalibration := false }
            if (s.partitionOf b).isNone then s.startWipe b else s
          else s
        let s := if microcode then s.modBasin b fun y => { y with microcode := s.firmware } else s
        s.finish o .done
    | _ => s

/-! ### FIRMWARE_STAGE (R361, R392 to R394, R425) -/

/-- What an image says of itself (Table 17.3). -/
def imageOf (m : Bytes) : ImageSlot where
  present := true
  version := fieldB m 0 4
  floor := fieldB m 4 4
  vendorKey := (fieldB m 16 32, fieldB m 48 32)
  stage1Digest := sm3 (sliceB m 256 (fieldB m 8 4))
  imageDigest := sm3 m

/-- Steps 5 and 6 of Table 17.2 and both signatures, of an image whose reserved header bytes are 0 (R12). -/
def State.imageVerifies (s : State) (m : Bytes) : Bool :=
  let i := imageOf m
  let n := fieldB m 8 4
  let head := sliceB m 0 128
  allZero (sliceB m 80 48) && sm3 (sliceB m 16 64) == s.vendorDigest && i.floor ≤ i.version && s.versionFloor ≤ i.version && 256 + n ≤ m.length &&
    sm2Verify i.vendorKey (head ++ sliceB m 256 n) (fieldB m 128 32) (fieldB m 160 32) &&
    sm2Verify i.vendorKey (head ++ m.drop (256 + n)) (fieldB m 192 32) (fieldB m 224 32)

/-- A FIRMWARE_STAGE or FIRMWARE_SWITCH is open. -/
def State.firmwareBusy (s : State) : Bool :=
  s.opens.any fun o => match o.kind with
    | .firmwareStage .. => true
    | .firmwareSwitch .. => true
    | _ => false

/-- The slot that is not running: 0 A, 1 B. -/
def State.otherSlot (s : State) : Nat := if s.imageSlot = 0 then 1 else 0

/-- Put an image into the slot that is not running, staged. -/
def State.storeImage (s : State) (m : Bytes) : State :=
  let i := imageOf m
  let s := if s.otherSlot = 0 then { s with imageA := i, staged := some i } else { s with imageB := i, staged := some i }
  s.commitRecord (0x10 + s.otherSlot) m

/-- FIRMWARE_STAGE after the gate. -/
def State.firmwareStage (s : State) (x : Ticket) (c : Bytes) (buf : Option Bytes) : State :=
  s.withInput x c 16 (256 ≤ ·) buf fun m =>
    if fieldB m 12 4 != m.length then s.reply x .badArgument
    else if s.firmwareBusy then s.reply x .busy
    else if !s.imageVerifies m then s.reply x .authFailed
    else s.accept x (.firmwareStage s.otherSlot m) fun s => s.storeImage m

/-- FIRMWARE_STAGE_COMPLETE: the standby pair has loaded the image. -/
def State.firmwareStaged (s : State) : State :=
  match s.findOpen fun k => match k with | .firmwareStage .. => true | _ => false with
  | none => s
  | some o =>
    match o.kind with
    | .firmwareStage slot m => s.finish o .done (toLE 4 (imageOf m).version ++ toLE 1 slot)
    | _ => s

/-! ### FIRMWARE_SWITCH and the handover (R426 to R430) -/

/-- The image of the slot that is not running. -/
def State.otherImage (s : State) : ImageSlot := if s.otherSlot = 0 then s.imageA else s.imageB

/-- An open partition has period 0 and a pulse source that is on (R426). -/
def State.pulseOnly (s : State) : Bool :=
  (List.range 8).any fun p =>
    let x := s.partition p
    x.isOpen && x.plan.period == 0 && s.pulsesCount p x.plan

/-- FIRMWARE_SWITCH after the gate. -/
def State.firmwareSwitch (s : State) (x : Ticket) (c : Bytes) : State :=
  let rollback := bit (fieldB c 8 1) 0
  if !rollback && s.staged.isNone then s.reply x .notPermitted
  else if rollback && !(s.otherImage.present && s.versionFloor ≤ s.otherImage.version) then s.reply x .notPermitted
  else if !s.opens.isEmpty || s.pulseOnly then s.reply x .busy
  else s.accept x (.firmwareSwitch rollback s.time false) id

/-- A partition stands in the way of a handover at this moment: it is in a still, or a window or planned still start
comes within the next 2 ms (R427). -/
def State.stillNear (s : State) (p : Nat) : Bool :=
  let x := s.partition p
  let w := x.ruling
  x.isOpen && (x.stillPhase != .idle ||
    (w.period != 0 && w.next ≤ s.time + 2000000 + (if s.pulsesCount p w then w.window else 0)))

/-- Stage 8 of a still of an open partition has just ended. -/
def State.stillEnded (s : State) : Bool := s.partitions.any fun x => x.isOpen && x.lastStillEnd == some s.time

/-- The handover may start now (R427, R428). -/
def State.handoverMay (s : State) (deadlinePassed : Bool) : Bool :=
  if deadlinePassed then s.stillEnded
  else
    (s.stillEnded || !s.partitions.any fun x => x.isOpen && x.ruling.period != 0) && !(List.range 8).any s.stillNear

/-- The open FIRMWARE_SWITCH. -/
def State.switchOf (s : State) : Option OpenCmd :=
  s.findOpen fun k => match k with | .firmwareSwitch .. => true | _ => false

/-- Phases 3 and 4 of Table 18.6: the other image runs. -/
def State.switchImage (s : State) : State :=
  let i := s.otherImage
  let slot := s.otherSlot
  let (minor, s) := s.freeNat
  let s : State := { s with
    imageSlot := slot, firmware := i.version, abaopMinor := minor % 256, staged := none
    versionFloor := max s.versionFloor i.floor }
  (s.commitRecord 4 (toLE 1 slot)).raise 15 slot

/-- HANDOVER_START: the four phases, at the first moment that permits them. -/
def State.handover (s : State) : State :=
  match s.switchOf with
  | none => s
  | some o =>
    match o.kind with
    | .firmwareSwitch _ _ late =>
      if s.handoverMay late then
        let s := s.switchImage
        s.finish o .done (toLE 4 s.firmware ++ toLE 1 s.imageSlot)
      else s
    | _ => s

/-- HANDOVER_DEADLINE: 100 ms have passed without such a moment (R428). -/
def State.handoverLate (s : State) : State :=
  { s with opens := s.opens.map fun (o : OpenCmd) =>
      match o.kind with
      | .firmwareSwitch r at_ late => { o with kind := .firmwareSwitch r at_ (late || Decidable.decide (at_ + 100000000 ≤ s.time)) }
      | _ => o }

/-- HANDOVER_TIMEOUT: phase 2 overruns, and the old pair resumes (R430). -/
def State.handoverFails (s : State) : State :=
  match s.switchOf with
  | none => s
  | some o =>
    match o.kind with
    | .firmwareSwitch _ _ late => if s.handoverMay late then s.finish o .hardwareFault else s
    | _ => s

/-! ### Commands -/

/-- The gate of BASIN_DRAIN (Table 15.2 and its arguments). -/
def specBasinDrain : CmdSpec :=
  { opcode := 0x0A01, states := inUS, physical := true, basins := oneBasin 8, basinOk := (· == .active)
    fields := [(8, 1)] }
/-- BASIN_DRAIN (R421). -/
def execBasinDrain (t fn mb : Nat) (s : State) : Host.Outcome State Fault Refusal :=
  s.run t fun u => u.command fn mb specBasinDrain State.basinDrain
/-- DRAIN_COMPLETE (R421). -/
def execDrainComplete (t b : Nat) (s : State) : Host.Outcome State Fault Refusal := s.runAlive t fun u => u.drainComplete b
/-- DRAIN_COLLECTIVE_TIMEOUT (R421). -/
def execDrainCollectiveTimeout (t b : Nat) (s : State) : Host.Outcome State Fault Refusal :=
  s.runAlive t fun u => u.drainTimeout b
/-- The gate of BASIN_SERVICE (Table 15.2 and its arguments). -/
def specBasinService : CmdSpec :=
  { opcode := 0x0A02, states := inRUS, physical := true, basins := oneBasin 8
    basinOk := fun b => b == .idle || b == .retired, fields := [(8, 1)] }
/-- BASIN_SERVICE (R360). -/
def execBasinService (t fn mb : Nat) (s : State) : Host.Outcome State Fault Refusal :=
  s.run t fun u => u.command fn mb specBasinService State.basinService
/-- The gate of BASIN_RETURN (Table 15.2 and its arguments). -/
def specBasinReturn : CmdSpec :=
  { opcode := 0x0A03, states := (· == .service), physical := true, basins := oneBasin 8, basinOk := (· == .service)
    fields := [(8, 1)] }
/-- BASIN_RETURN (R360, R423). -/
def execBasinReturn (t fn mb : Nat) (s : State) : Host.Outcome State Fault Refusal :=
  s.run t fun u => u.command fn mb specBasinReturn State.basinReturn
/-- The gate of BASIN_RETIRE (Table 15.2 and its arguments). -/
def specBasinRetire : CmdSpec :=
  { opcode := 0x0A04, states := (· == .service), physical := true, basins := oneBasin 8, basinOk := (· == .service)
    fields := [(8, 1)] }
/-- BASIN_RETIRE (R360, R423). -/
def execBasinRetire (t fn mb : Nat) (s : State) : Host.Outcome State Fault Refusal :=
  s.run t fun u => u.command fn mb specBasinRetire State.basinRetire
/-- The gate of CALIBRATE (Table 15.2 and its arguments). -/
def specCalibrate : CmdSpec :=
  { opcode := 0x0A05, states := (· == .service), physical := true, basins := oneBasin 8, basinOk := (· == .service)
    fields := [(8, 1)], flags := [(9, 3)] }
/-- CALIBRATE (R360, R424). -/
def execCalibrate (t fn mb : Nat) (s : State) : Host.Outcome State Fault Refusal :=
  s.run t fun u => u.command fn mb specCalibrate State.calibrate
/-- CALIBRATION_COMPLETE (R424). -/
def execCalibrationComplete (t b : Nat) (failedStacks : List Nat) (s : State) : Host.Outcome State Fault Refusal :=
  s.runAlive t fun u => u.calibrated b failedStacks
/-- The gate of FIRMWARE_STAGE (Table 15.2 and its arguments). -/
def specFirmwareStage : CmdSpec :=
  { opcode := 0x0A06, states := inRUS, physical := true, fields := [(16, 16)] }
/-- FIRMWARE_STAGE (R361, R425). -/
def execFirmwareStage (t fn mb : Nat) (buf : HostBuf) (s : State) : Host.Outcome State Fault Refusal :=
  s.run t fun u => u.command fn mb specFirmwareStage fun u x c => u.firmwareStage x c buf
/-- FIRMWARE_STAGE_COMPLETE (R425). -/
def execFirmwareStageComplete (t : Nat) (s : State) : Host.Outcome State Fault Refusal := s.runAlive t State.firmwareStaged
/-- The gate of FIRMWARE_SWITCH (Table 15.2 and its arguments). -/
def specFirmwareSwitch : CmdSpec :=
  { opcode := 0x0A07, states := inRUS, physical := true, flags := [(8, 1)] }
/-- FIRMWARE_SWITCH (R361, R426). -/
def execFirmwareSwitch (t fn mb : Nat) (s : State) : Host.Outcome State Fault Refusal :=
  s.run t fun u => u.command fn mb specFirmwareSwitch State.firmwareSwitch
/-- HANDOVER_START (R427 to R429). -/
def execHandoverStart (t : Nat) (s : State) : Host.Outcome State Fault Refusal := s.runAlive t State.handover
/-- HANDOVER_DEADLINE (R428). -/
def execHandoverDeadline (t : Nat) (s : State) : Host.Outcome State Fault Refusal := s.runAlive t State.handoverLate
/-- HANDOVER_TIMEOUT (R430). -/
def execHandoverTimeout (t : Nat) (s : State) : Host.Outcome State Fault Refusal := s.runAlive t State.handoverFails

end Sys2Proof.Machine
end

