-- ==== Sys2Proof/Machine/HostPort.lean ====
section
/-! DEFINITION. The host endpoint: the BAR0 window, what its reads return and what its writes do, unsupported accesses,
configuration requests and function level resets (spec 14 R306 to R310, R317 to R319, R326; 09 R208; 18 R413). -/

namespace Sys2Proof.Machine

/-! ### When the host reaches the device (R306, R322, R413, R417) -/

/-- Phase 7 of Table 18.1 begins and ends 425 ms and 435 ms after t0. -/
def phase7Start : Nat := 425000000
/-- End of phase 7: BAR0 is readable. -/
def phase7End : Nat := 435000000

/-- The host endpoint works: it has not failed, PERST_L is released and phase 7 has ended. -/
def State.hostUp (s : State) : Bool :=
  !s.perst && !s.failedBlocks.contains .hostEndpoint &&
    match s.power with
    | .off => false
    | .boot => s.pwrGood && s.faultCause.isNone && s.bootStart + phase7End ≤ s.time
    | _ => true

/-- Registers other than the state and alert registers remain: the wellhead has not failed (R322). -/
def State.mailboxesUp (s : State) : Bool := s.hostUp && !s.failedBlocks.contains .activeWellhead

/-- A BAR0 access of `size` bytes at `off` is supported (R307): 4 or 8 bytes naturally aligned, or in the command slots
an aligned write of up to 64 bytes. -/
def accessSupported (off size : Nat) (isWrite : Bool) : Bool :=
  off + size ≤ 0x1000000 &&
    ((size == 4 || size == 8) && off % size == 0 ||
      isWrite && [1, 2, 16, 32, 64].contains size && off % size == 0 && 0x10000 ≤ off && off < 0x50000 && off % 0x10000 < 0x4000)

/-! ### Reading BAR0 (Tables 14.2 to 14.5, 14.7, 14.9, 14.12) -/

/-- The identity and version block in the view of function `f` (Table 14.3). -/
def State.identity (s : State) (f : Nat) : Bytes :=
  toLE 2 0x8824 ++ toLE 1 0xA1 ++ toLE 1 f ++ toLE 1 3 ++ toLE 1 s.abaopMinor ++ zeros 2 ++ toLE 8 s.serial ++ toLE 4 s.firmware ++
    toLE 1 s.imageSlot ++ toLE 1 (s.feed % 64) ++ toLE 1 (f - 1) ++
    toLE 1 (if f = 0 then 0xFF else if (s.partition (f - 1)).isOpen then (s.partition (f - 1)).basins.toNat else 0) ++
    toLE 2 s.deviceId ++ toLE 1 4 ++ zeros 1 ++ toLE 2 0x100 ++ toLE 2 0x80

/-- A mailbox's control registers (Table 14.4): the register at offset `r`. -/
def Mailbox.register (x : Mailbox) (r : Nat) : Nat :=
  if r = 0x00 then x.tail.toNat
  else if r = 0x08 then x.head.toNat
  else if r = 0x10 then x.oldestOpen.toNat
  else if r = 0x18 then x.overrunCount.toNat + (if x.overrunFlag then 65536 else 0)
  else if r = 0x20 then x.eventTail.toNat
  else if r = 0x28 then x.eventHead.toNat
  else 0

/-- The 64 bytes of a response slot (Table 14.5). -/
def RespSlot.bytes (x : RespSlot) : Bytes :=
  toLE 2 x.opcode.toNat ++ toLE 2 x.tag.toNat ++ toLE 2 x.status.toNat ++ toLE 2 x.index.toNat ++ toLE 1 x.deviceState.toNat ++
    zeros 3 ++ toLE 4 x.basinStates.toNat ++ sliceB x.result 0 48

/-- Response slot `i` of a mailbox: an unlisted one holds its reset value. -/
def Mailbox.response (x : Mailbox) (i : Nat) : RespSlot :=
  ((x.responses.find? fun y => y.1 == i).map (·.2)).getD { index := BitVec.ofNat 16 (0xFF00 + i) }

/-- Event ring entry `i` of a mailbox. -/
def Mailbox.event (x : Mailbox) (i : Nat) : Bytes := ((x.ring.find? fun y => y.1 == i).map fun y => sliceB y.2.bytes 0 64).getD (zeros 64)

/-- The 8 bytes of BAR0 of function `f` at the multiple of 8 `o` (Table 14.2). -/
def State.barQword (s : State) (f o : Nat) : Bytes :=
  if o < 0x1000 then sliceB (s.identity f) o 8
  else if o < 0x1100 then toLE 8 ((s.mailbox f ((o - 0x1000) / 0x40)).register ((o - 0x1000) % 0x40))
  else if 0x2000 ≤ o && o < 0x2044 then
    let a := (o - 0x2000) / 4
    toLE 4 ((s.func f).alerts.getD a {}).word ++ toLE 4 ((s.func f).alerts.getD (a + 1) {}).word
  else if o = 0x2100 then toLE 8 (s.alertSummary f)
  else if o = 0x2108 then toLE 8 (s.func f).mask.toNat
  else if o = 0x3000 then toLE 8 (s.stateRegister f)
  else if 0xF000 ≤ o && o < 0xF080 then memRead (s.func f).msixTable (o - 0xF000) 8
  else if o = 0xF800 then toLE 8 (s.func f).msixPending.toNat
  else if 0x10000 ≤ o && o < 0x50000 then
    let x := s.mailbox f (o / 0x10000 - 1)
    let r := o % 0x10000
    if r < 0x4000 then memRead x.commands r 8
    else if r < 0x8000 then sliceB (x.response ((r - 0x4000) / 64)).bytes (r % 64) 8
    else if r < 0xA000 then sliceB (x.event ((r - 0x8000) / 64)) (r % 64) 8
    else zeros 8
  else zeros 8

/-- What a supported read of 4 or 8 bytes returns. -/
def State.barRead (s : State) (f off size : Nat) : Bytes := sliceB (s.barQword f (off / 8 * 8)) (off % 8) size

/-! ### Writing BAR0 -/

/-- A doorbell write (R310). -/
def State.doorbell (s : State) (f m tail : Nat) : State :=
  s.modMailbox f m fun x =>
    let t := BitVec.ofNat 16 tail
    if (t - x.oldestOpen).toNat ≤ 256 && (t - x.head).toNat ≤ 256 then { x with tail := t }
    else { x with overrunFlag := true, overrunCount := x.overrunCount + 1 }

/-- A counted clear of Overrun (R309). -/
def State.overrunClear (s : State) (f m value : Nat) : State :=
  s.modMailbox f m fun x => if BitVec.ofNat 16 value = x.overrunCount then { x with overrunFlag := false } else x

/-- Records that wait enter the ring, each with vector `m` (R317, R319). -/
def State.drainMailbox (s : State) (f m : Nat) : State :=
  let before := (s.mailbox f m).eventTail
  let s := s.modMailbox f m fun x => drainRing x.waiting.length x
  (List.range ((s.mailbox f m).eventTail - before).toNat).foldl (fun (s : State) _ => s.signal f m) s

/-- A write to EventHead (R319). -/
def State.eventHeadWrite (s : State) (f m value : Nat) : State :=
  (s.modMailbox f m fun x => { x with eventHead := BitVec.ofNat 16 value }).drainMailbox f m

/-- A counted clear of an alert (R326). -/
def AlertReg.clear (value : Nat) (r : AlertReg) : AlertReg := if BitVec.ofNat 16 value = r.count then { r with flag := false } else r

/-- A write to alert register `a` of function `f`: an accepted clear of CXL_LOST by the host lets the ports in LOST return
to ABSENT (R208). -/
def State.alertWrite (s : State) (f a value : Nat) : State :=
  let accepted := BitVec.ofNat 16 value == ((s.func f).alerts.getD a {}).count
  let s := s.modFunc f fun x => { x with alerts := x.alerts.modify a (AlertReg.clear value) }
  if f = 0 && a = 10 && accepted then
    { s with cxl := s.cxl.map fun (c : CxlPort) => if c.state == .lost then ({ c with acked := true } : CxlPort).leaveLost else c }
  else s

/-- Replace 32 bits of a 64-bit register at bit `sh`. -/
def putWord (r : BitVec 64) (sh value : Nat) : BitVec 64 :=
  (r &&& ~~~(0xFFFFFFFF#64 <<< sh)) ||| (BitVec.ofNat 64 (value % 2 ^ 32) <<< sh)

/-- A vector that is unmasked while pending sends its message (R317). -/
def State.sendPending (s : State) (f v : Nat) : State :=
  let x := s.func f
  if x.msixPending.getLsbD v && (memRead x.msixTable (16 * v + 12) 1).headD 0 &&& 1 == 0 then
    let s := s.modFunc f fun x => { x with msixPending := x.msixPending &&& ~~~(1#64 <<< v) }
    { s with msix := s.msix ++ [(f, v)] }
  else s

/-- What an MSI-X table word keeps: the message address is 4-byte aligned, the control word has its Mask bit only. -/
def msixWord (d value : Nat) : Nat := if d = 0 then value / 4 * 4 else if d = 3 then value % 2 else value

/-- A write to a word of the MSI-X table. -/
def State.msixWrite (s : State) (f o value : Nat) : State :=
  let s := s.modFunc f fun x => { x with msixTable := memWrite x.msixTable o (toLE 4 (msixWord (o % 16 / 4) value)) }
  s.sendPending f (o / 16)

/-- A write of 4 bytes at the multiple of 4 `o` outside the mailboxes' slots; read-only and reserved offsets ignore it
(R11, R306). -/
def State.wordWrite (s : State) (f o value : Nat) : State :=
  if 0x2000 ≤ o && o < 0x2044 then s.alertWrite f ((o - 0x2000) / 4) value
  else if !s.mailboxesUp then s
  else if 0x1000 ≤ o && o < 0x1100 then
    let m := (o - 0x1000) / 0x40
    let r := (o - 0x1000) % 0x40
    if r = 0 then s.doorbell f m value
    else if r = 0x18 then s.overrunClear f m value
    else if r = 0x28 then s.eventHeadWrite f m value
    else s
  else if o = 0x2108 then s.modFunc f fun x => { x with mask := putWord x.mask 0 value }
  else if o = 0x210C then s.modFunc f fun x => { x with mask := putWord x.mask 32 value }
  else if 0xF000 ≤ o && o < 0xF080 then s.msixWrite f (o - 0xF000) value
  else s

/-- A write of bytes to BAR0 of function `f` (R306, R307, R311). -/
def State.barWrite (s : State) (f off : Nat) (bs : Bytes) : State :=
  if !accessSupported off bs.length true then { s with completion := .unsupportedRequest }
  else if 0x10000 ≤ off && off < 0x50000 then
    if off % 0x10000 < 0x4000 && s.mailboxesUp then
      s.modMailbox f (off / 0x10000 - 1) fun x => { x with commands := memWrite x.commands (off % 0x10000) bs }
    else s
  else
    let s := s.wordWrite f off (fieldB bs 0 4)
    if bs.length = 8 then s.wordWrite f (off + 4) (fieldB bs 4 4) else s

/-- The write takes place when the host reaches the function. -/
def State.whenHost (s : State) (f : Nat) (up : Bool) (go : State → State) : State := if up && f ≤ 8 then go s else s

/-! ### Function level reset (R318) -/

/-- A mailbox at a function level reset: registers, event ring and response slots at their reset values; the command
slots and the records that wait in the wellhead are kept. -/
def Mailbox.levelReset (x : Mailbox) : Mailbox := { commands := x.commands, waiting := x.waiting }

/-- A function level reset of function `f`. Its MSI-X table returns to its reset values as PCIe has it, and the records
that waited enter the empty rings. -/
def State.levelReset (s : State) (f : Nat) : State :=
  let s := s.modFunc f fun x =>
    { x with mailboxes := x.mailboxes.map Mailbox.levelReset, msixTable := ({} : Func).msixTable, msixPending := 0, config := [] }
  let s : State := { s with opens := s.opens.map fun (o : OpenCmd) =>
    if o.ticket.fn == f then { o with ticket := { o.ticket with discarded := true } } else o }
  let mine := (List.range 8).flatMap fun b => ((List.range 16).filter fun k =>
    let x := s.slot b k
    x.isUsed && !x.clearing && x.fn == f).map fun k => (b, k)
  let s := mine.foldl (fun (s : State) x => s.stopSlot x.1 x.2) s
  (List.range 4).foldl (fun (s : State) m => s.drainMailbox f m) s

/-! ### Configuration space (R304, Table 14.1)

The capabilities' formats, and the registers of the header, are PCIe's (assumption 64). -/

/-- A register of configuration space: the bits that read as fixed, those that keep what was written, and what these
hold before that. -/
structure ConfigWord where
  fixed : Nat := 0
  writable : Nat := 0
  initial : Nat := 0
  deriving DecidableEq, Repr

/-- The PCI Express capability: payloads up to 512 bytes, 10-bit tags, function level reset; no ASPM. -/
def State.pcieWord (s : State) (i : Nat) : ConfigWord :=
  match i with
  | 0 => { fixed := 0x00020010 + 256 * (Config.capability 1 % 256) }
  | 1 => { fixed := 0x10008022 }
  | 2 => { writable := 0x79FF, initial := 0x2000 }
  | 3 => { fixed := 0x46 }
  | 4 => { fixed := (s.hostRate % 16 + 16 * (s.hostWidth % 64)) * 65536 }
  | 9 => { fixed := 0x30000 }
  | 10 => { writable := 0x1000 }
  | 11 => { fixed := 0x7E }
  | _ => {}

/-- The MSI-X capability: 8 vectors, the table and the pending bits where Table 14.2 has them. -/
def msixCapability (i : Nat) : ConfigWord :=
  match i with
  | 0 => { fixed := 0x00070011, writable := 0xC0000000 }
  | 1 => { fixed := 0xF000 }
  | 2 => { fixed := 0xF800 }
  | _ => {}

/-- The SR-IOV capability of the physical function: TotalVFs 8, one 64-bit BAR of the virtual functions. -/
def sriovCapability (i : Nat) : ConfigWord :=
  match i with
  | 0 => { fixed := 0x00010010 }
  | 2 => { writable := 0x9 }
  | 3 => { fixed := 0x00080008 }
  | 4 => { writable := 0xFFFF }
  | 5 => { fixed := Config.configWord 0 5 % 2 ^ 32 }
  | 6 => { fixed := Config.configWord 0 6 % 65536 * 65536 }
  | 7 => { fixed := 1 }
  | 8 => { fixed := 1 }
  | 9 => { fixed := 4, writable := 0xFF000000 }
  | 10 => { writable := 0xFFFFFFFF }
  | _ => {}

/-- The first registers of function `fn`. A virtual function has the identities 0xFFFF and no BARs of its own there:
they stand in the SR-IOV capability. -/
def headerWord (fn i : Nat) : ConfigWord :=
  match i with
  | 0 => { fixed := if fn = 0 then Config.vendorId % 65536 + 65536 * (Config.configWord 0 0 % 65536) else 0xFFFFFFFF }
  | 1 => { fixed := 0x00100000, writable := if fn = 0 then 0x146 else 4 }
  | 2 => { fixed := Config.configWord 0 2 % 2 ^ 32 }
  | 3 => { writable := if fn = 0 then 0xFF else 0 }
  | 4 => if fn = 0 then { fixed := 4, writable := 0xFF000000 } else {}
  | 5 => if fn = 0 then { writable := 0xFFFFFFFF } else {}
  | 11 => { fixed := Config.configWord 0 11 % 2 ^ 32 }
  | 13 => { fixed := Config.capability 0 % 256 }
  | 15 => { writable := if fn = 0 then 0xFF else 0 }
  | _ => {}

/-- Register `reg` of function `fn`: what Table 14.1 does not name reads as 0. The extended capabilities are AER, whose
registers R304 does not give, and in the physical function SR-IOV. -/
def State.configWordOf (s : State) (fn reg : Nat) : ConfigWord :=
  let within (which n : Nat) : Option Nat :=
    let at_ := Config.capability which / 4
    if at_ ≤ reg && reg < at_ + n then some (reg - at_) else none
  if reg < 16 then headerWord fn reg
  else if reg < 64 then
    match within 0 15, within 1 3 with
    | some i, _ => s.pcieWord i
    | none, some i => msixCapability i
    | none, none => {}
  else if reg = 64 then { fixed := 0x00020001 + 2 ^ 20 * (if fn = 0 then Config.capability 2 % 4096 else 0) }
  else if reg < 64 + 18 then { fixed := Config.configWord fn reg % 2 ^ 32 }
  else match within 2 16 with
    | some i => if fn = 0 then sriovCapability i else {}
    | none => {}

/-- The value a register reads as. -/
def State.configRead (s : State) (fn reg : Nat) : Nat :=
  let w := s.configWordOf fn reg
  let written := (((s.func fn).config.find? fun x => x.1 == reg).map (·.2)).getD w.initial
  w.fixed ||| (written &&& w.writable)

/-- A write keeps the writable bits. -/
def State.configWrite (s : State) (fn reg value : Nat) : State :=
  let w := s.configWordOf fn reg
  let kept := value &&& w.writable
  s.modFunc fn fun x =>
    let rest := x.config.filter fun y => y.1 != reg
    { x with config := if kept = w.initial then rest else (reg, kept) :: rest }

/-! ### Commands -/

/-- DOORBELL (R310). -/
def execDoorbell (t fn mb tail : Nat) (s : State) : Host.Outcome State Fault Refusal :=
  s.run t fun u => u.whenHost fn u.mailboxesUp fun u => u.doorbell fn mb tail
/-- OVERRUN_CLEAR (R309). -/
def execOverrunClear (t fn mb value : Nat) (s : State) : Host.Outcome State Fault Refusal :=
  s.run t fun u => u.whenHost fn u.mailboxesUp fun u => u.overrunClear fn mb value
/-- EVENT_HEAD_WRITE (R319). -/
def execEventHeadWrite (t fn mb value : Nat) (s : State) : Host.Outcome State Fault Refusal :=
  s.run t fun u => u.whenHost fn u.mailboxesUp fun u => u.eventHeadWrite fn mb value
/-- ALERT_REGISTER_WRITE (R326). -/
def execAlertRegisterWrite (t fn a value : Nat) (s : State) : Host.Outcome State Fault Refusal :=
  s.run t fun u => u.whenHost fn u.hostUp fun u => u.alertWrite fn a value
/-- REGISTER_WRITE (R306). -/
def execRegisterWrite (t fn off : Nat) (bytes : Bytes) (s : State) : Host.Outcome State Fault Refusal :=
  s.run t fun u => u.whenHost fn u.hostUp fun u => u.barWrite fn off bytes
/-- UNSUPPORTED_ACCESS (R307). -/
def execUnsupportedAccess (t fn off size : Nat) (isWrite : Bool) (s : State) : Host.Outcome State Fault Refusal :=
  s.run t fun u => u.whenHost fn u.hostUp fun u =>
    if accessSupported off size isWrite then u else { u with completion := .unsupportedRequest }
/-- CONFIGURATION_REQUEST (R304, R413): a read, or a write of `write`, of DWORD `reg`. Before phase 7 it is told to retry. -/
def execConfigurationRequest (t fn reg : Nat) (write : Option Nat) (s : State) : Host.Outcome State Fault Refusal :=
  s.run t fun u =>
    if u.power == .off || u.perst || 8 < fn || u.failedBlocks.contains .hostEndpoint then u
    else if u.power == .boot && (!u.pwrGood || u.time < u.bootStart + phase7Start || u.faultCause.isSome) then
      { u with completion := .retryStatus }
    else
      match write with
      | some v => { u.configWrite fn reg v with completion := .success 0 }
      | none => { u with completion := .success (u.configRead fn reg) }
/-- FUNCTION_LEVEL_RESET (R318). -/
def execFunctionLevelReset (t fn : Nat) (s : State) : Host.Outcome State Fault Refusal :=
  s.run t fun u => u.whenHost fn u.hostUp fun u => u.levelReset fn

end Sys2Proof.Machine
end

