-- ==== Sys2Proof/Machine/Sense.lean ====
section
/-! DEFINITION. Readings that the physical world gives within the bounds of the specification: module input power (spec 01
R30, R31, Table 1.9; 02 R50), the input current that follows from it (19 R435), and the outlet temperature, which it leaves
open. -/

namespace Sys2Proof.Machine

/-- The rating of a performance point in W; where only P1 is used, the rating of P2 (R30). -/
def ratedPower (point : Nat) : Nat := if point = 3 then 4800 else 4200

/-- One basin's eighth of the datapath rows of Table 1.9, at the module input, in W: the sums 1.64, 2.31 and 3.09 kW at the
die, over 8 and over 0.92 (R31). -/
def basinShare (point : Nat) : Nat := (if point = 3 then 3090 else if point = 2 then 2310 else 1640) * 100 / 736

/-- One basin's eighth of the stack row of Table 1.9, at the module input, in W (R31). -/
def stackShare : Nat := 1160 * 100 / 736

/-- What the basins in SERVICE or RETIRED lower the input power by: their datapaths, and their stacks unless these are
recalibrated (R31). -/
def State.idlePower (s : State) : Nat :=
  ((List.range 8).map fun b =>
    if (s.basin b).state == .service || (s.basin b).state == .retired then
      basinShare s.point + (if s.retraining b then 0 else stackShare)
    else 0).sum

/-- The most the module draws now: the rating of the higher point of a ramp, less what idle basins leave (R30, R31). -/
def State.powerLimit (s : State) : Nat :=
  max (ratedPower s.point) (ratedPower ((s.ramp.map (·.target)).getD s.point)) - s.idlePower

/-- A reading of the input power: at a fixed point within 3 % of the mean of the preceding second (R50), which moves with
the basins in use (R31); a free value below the limit when the point has just changed or is changing. -/
def State.drawPower (s : State) : State :=
  let (n, s) := s.freeNat
  let r := s.powerRecord
  let limit := s.powerLimit
  if s.ramp.isNone && !s.datapathCut && r.point == s.point then
    let mean := min (r.mean + r.idle - s.idlePower) limit
    let low := (97 * mean + 99) / 100
    { s with inputPower := low + n % (min (103 * mean / 100) limit - low + 1)
             powerRecord := if r.idle = s.idlePower then { r with mean := mean }
               else { mean := mean, point := s.point, idle := s.idlePower } }
  else
    { s with inputPower := n % (limit + 1)
             powerRecord := { mean := n % (limit + 1), point := if s.ramp.isSome then 0 else s.point, idle := s.idlePower } }

/-- A 1 ms window's average of the input power, and the mean of a second that it ends (R50). -/
def State.powerWindow (s : State) : State :=
  let s := s.drawPower
  let r := s.powerRecord
  { s with powerRecord :=
      if r.windows + 1 < 1000 then { r with sum := r.sum + s.inputPower, windows := r.windows + 1 }
      else { r with mean := (r.sum + s.inputPower) / 1000, sum := 0, windows := 0 } }

/-- Readings that no event of this model fixes are made anew at each reading: the outlet, a free value, the input power,
and the input current in 10 mA, which is the power over the voltage (Table 19.3). -/
def State.sense (s : State) : State :=
  let (o, s) := s.freeNat
  let s := s.drawPower
  { s with outlet := o % 2 ^ 16, inputCurrent := s.inputPower * 10000 / s.inputVoltage }

end Sys2Proof.Machine
end

