-- ==== Sys2Proof/Machine/Telemetry.lean ====
section
/-! DEFINITION. Telemetry and counters: TELEMETRY_READ, COUNTER_READ and the polling of counters (spec 15 R356 to R359;
02 R40, R48, R49; 13 R299, R303; 17 R409). -/

namespace Sys2Proof.Machine

/-! ### Telemetry items (Table 15.8) -/

/-- The event-rate monitor record as a word (Table 2.3). -/
def MonitorRec.word (r : MonitorRec) : Nat :=
  r.window % 2 ^ 32 + (r.rate % 2 ^ 16 <<< 32) + (r.junction % 256 <<< 48) + ((if r.inEnvelope then 1 else 0) <<< 60) +
    ((if r.ramping then 1 else 0) <<< 61) + (r.point <<< 62)

/-- Item 0x0002 for a function: a tenant sees the 1 s average of the power in steps of 10 W, and the point. -/
def State.sensorItem (s : State) (f : Nat) : Bytes :=
  if f = 0 then
    s.junction.flatMap (toLE 1) ++ toLE 2 s.inlet ++ toLE 2 s.outlet ++ toLE 2 s.inputVoltage ++ zeros 2 ++
      toLE 4 s.inputCurrent ++ toLE 4 s.inputPower ++ toLE 1 s.point ++ zeros 7
  else zeros 20 ++ toLE 4 (s.powerRecord.mean / 10 * 10) ++ toLE 1 s.point ++ zeros 7

/-- Code of a sub-port state in item 0x0004. -/
def SubState.code : SubState → Nat
  | .off => 0 | .training => 1 | .up => 2 | .retraining => 3 | .failed => 4

/-- Code of a CXL port state in item 0x0006. -/
def CxlState.code : CxlState → Nat
  | .absent => 0 | .present => 1 | .online => 2 | .detaching => 3 | .lost => 4

/-- Item 0x0004 of a sub-port. -/
def SubPort.item (x : SubPort) : Bytes :=
  toLE 1 x.state.code ++ toLE 1 (if x.state == .up then x.lanes else 0) ++ zeros 2 ++ toLE 4 x.roundTrip

/-- Item 0x0005 of context `i`, its round trip in steps of 1,000 ns for a tenant (R409). -/
def State.contextItem (s : State) (f i : Nat) : Bytes :=
  match s.contexts.find? fun c => c.index == i with
  | none => zeros 8
  | some c =>
    toLE 1 (if c.lost then 2 else 1) ++ zeros 3 ++ toLE 4 (if f = 0 then c.roundTrip else c.roundTrip / 1000 * 1000)

/-- Item 0x0006 of a CXL port. -/
def CxlPort.item (x : CxlPort) : Bytes :=
  let on := (x.state == .online || x.state == .detaching) && !x.plain
  toLE 1 x.state.code ++ toLE 1 (if on then 1 else 0) ++ toLE 1 x.gts ++ toLE 1 x.lanes ++ zeros 4 ++ toLE 8 x.mapped

/-- Item 0x0007. -/
def State.soundingItem (s : State) : Bytes :=
  toLE 1 s.sounding ++ toLE 1 s.thresholdSet ++ (s.scores.flatMap (toLE 1)) ++ zeros 1

/-- Number of indexes of an item, 0 for an item that is not listed. -/
def itemCount : Nat → Nat
  | 1 => 8 | 2 => 1 | 3 => 1 | 4 => 48 | 5 => 16384 | 6 => 8 | 7 => 1 | _ => 0

/-- Virtual function `f` may see an index of an item (Table 15.8). -/
def State.seesItem (s : State) (f item i : Nat) : Bool :=
  match item with
  | 1 => 8 ≤ i || s.holdsBasin (f - 1) i
  | 4 | 7 => false
  | 5 => let x := s.partition (f - 1); 16384 ≤ i || (x.peerBase ≤ i && i < x.peerBase + x.peerCount)
  | 6 => 8 ≤ i || s.holdsPort (f - 1) i
  | _ => true

/-- The bytes of an item in the view of function `f`. -/
def State.itemBytes (s : State) (f item i : Nat) : Bytes :=
  match item with
  | 1 => toLE 8 ((if f = 0 then s.monitors else s.tenantMonitors).getD i {}).word
  | 2 => s.sensorItem f
  | 3 => (s.alertTotals.getD f []).flatMap (toLE 8)
  | 4 => (s.sub i).item
  | 5 => s.contextItem f i
  | 6 => (s.port i).item
  | _ => s.soundingItem

/-- TELEMETRY_READ after the gate. -/
def State.telemetryRead (s : State) (x : Ticket) (c : Bytes) (outOk : Bool) : State :=
  let item := fieldB c 8 2
  let i := fieldB c 10 2
  if itemCount item ≤ i then s.reply x .badArgument
  else
    let s := if item = 2 then s.sense else s
    let out := s.itemBytes x.fn item i
    s.withOutput x c 16 out outOk (toLE 4 out.length)

/-! ### Counters (Tables 15.9 and 15.10) -/

/-- Virtual function `f` may read a counter scope and index (R358). -/
def State.seesScope (s : State) (f scope i : Nat) : Bool :=
  scopeCount scope ≤ i ||
    match scope with
    | 1 => i == f - 1
    | 2 => s.holdsBasin (f - 1) i
    | 3 => s.holdsBasin (f - 1) (i / 16)
    | 4 => s.holdsBasin (f - 1) (i / 3)
    | 6 => s.holdsPort (f - 1) i
    | _ => false

/-- The open partition whose unit a scope and index name. -/
def State.scopePartition (s : State) (scope i : Nat) : Option Nat :=
  match scope with
  | 1 => if (s.partition i).isOpen then some i else none
  | 2 => s.partitionOf i
  | 3 => s.partitionOf (i / 16)
  | 4 => s.partitionOf (i / 3)
  | 6 => s.holderOf i
  | _ => none

/-- A counter's value in the view of a function: wait-event counters in steps of 65,536 for a tenant (R409). -/
def coarse (f scope pos v : Nat) : Nat := if f != 0 && scope == 2 && pos < 5 then v / 65536 * 65536 else v

/-- Counters whose advance is open move on before a reading. -/
def State.advanceScope (s : State) (scope i : Nat) : State :=
  match scope with
  | 2 => s.advanceWaits i
  | 5 => s.advanceOpen 5 i 2
  | _ => s

/-- Poll every counter of a scope and index. -/
def State.pollScope (s : State) (scope i : Nat) : State :=
  (List.range (scopeSize scope)).foldl (fun (s : State) pos => s.pollCounter scope i pos) s

/-- The live extended values of a scope and index. -/
def State.liveBytes (s : State) (f scope i : Nat) : Bytes :=
  (List.range (scopeSize scope)).flatMap fun pos => toLE 8 (coarse f scope pos (s.counterValue scope i pos))

/-- The values of a scope and index in a partition's snapshot; counters not listed were 0. -/
def Partition.snapshotBytes (x : Partition) (f scope i : Nat) : Bytes :=
  (List.range (scopeSize scope)).flatMap fun pos =>
    match x.snapshot.find? fun y => y.1 == scope && y.2.1 == i && y.2.2.1 == pos with
    | some y => toLE 8 (coarse f scope pos y.2.2.2)
    | none => zeros 8

/-- An expert counter snapshot (Table 15.10). -/
def ExpertSnap.bytes (x : ExpertSnap) : Bytes :=
  toLE 8 x.step ++ toLE 1 (if x.set.saturated then 1 else 0) ++ zeros 7 ++
    (List.range 4096).flatMap fun e =>
      match x.set.counts.find? fun y => y.1 == e with
      | some y => toLE 4 y.2.placed ++ toLE 4 y.2.movedIn ++ toLE 4 y.2.dropped
      | none => zeros 12

/-- The step of the still that took the snapshot of a scope and index (R358). -/
def Partition.snapStepOf (x : Partition) (scope i : Nat) : Nat :=
  match scope with
  | 2 => x.basinSnapSteps.getD i 0
  | 3 => x.basinSnapSteps.getD (i / 16) 0
  | 4 => x.basinSnapSteps.getD (i / 3) 0
  | _ => x.snapshotStep

/-- Step 3 of COUNTER_READ: Set 1 names an open partition, or a unit of one (R334, R358). -/
def State.counterPermits (s : State) (f : Nat) (c : Bytes) : Bool :=
  let scope := fieldB c 8 1
  let i := fieldB c 10 2
  fieldB c 9 1 != 1 || scope == 0 || scope == 5 || scopeCount scope ≤ i ||
    (f != 0 && s.scopePartition scope i != some (f - 1)) || (s.scopePartition scope i).isSome

/-- COUNTER_READ after the gate. -/
def State.counterRead (s : State) (x : Ticket) (c : Bytes) (outOk : Bool) : State :=
  let scope := fieldB c 8 1
  let set := fieldB c 9 1
  let i := fieldB c 10 2
  let e := fieldB c 12 1
  let written (n step : Nat) : Bytes := toLE 4 n ++ zeros 4 ++ toLE 8 step
  if scopeCount scope ≤ i || 2 < set || 15 < e || (set != 2 && e != 0) || (set == 2 && scope != 2) ||
      (set == 1 && (scope == 0 || scope == 5)) then s.reply x .badArgument
  else
    match set with
    | 0 =>
      let s := (s.advanceScope scope i).pollScope scope i
      let out := s.liveBytes x.fn scope i
      s.withOutput x c 16 out outOk (written out.length 0)
    | 1 =>
      match s.scopePartition scope i with
      | none => s.reply x .stateRefused
      | some p =>
        let out := (s.partition p).snapshotBytes x.fn scope i
        s.withOutput x c 16 out outOk (written out.length ((s.partition p).snapStepOf scope i))
    | _ =>
      let y := (s.basin i).expertSnaps.getD e {}
      s.withOutput x c 16 y.bytes outOk (written y.bytes.length y.step)

/-! ### Commands -/

/-- The gate of TELEMETRY_READ (Table 15.2 and its arguments). -/
def specTelemetryRead (s : State) : CmdSpec :=
  { opcode := 0x0901, states := inHRUSF, fields := [(8, 2), (10, 2), (16, 16)]
    may := fun f c => s.seesItem f (fieldB c 8 2) (fieldB c 10 2) }
/-- TELEMETRY_READ (R357). -/
def execTelemetryRead (t fn mb : Nat) (outOk : Bool) (s : State) : Host.Outcome State Fault Refusal :=
  s.run t fun u => u.command fn mb (specTelemetryRead u) fun u x c => u.telemetryRead x c outOk
/-- The gate of COUNTER_READ (Table 15.2 and its arguments). -/
def specCounterRead (s : State) : CmdSpec :=
  { opcode := 0x0902, states := inHRUSF, fields := [(8, 1), (9, 1), (10, 2), (12, 1), (16, 16)]
    unitsOk := State.counterPermits
    may := fun f c => s.seesScope f (fieldB c 8 1) (fieldB c 10 2) }
/-- COUNTER_READ (R358, R359). -/
def execCounterRead (t fn mb : Nat) (outOk : Bool) (s : State) : Host.Outcome State Fault Refusal :=
  s.run t fun u => u.command fn mb (specCounterRead u) fun u x c => u.counterRead x c outOk
/-- COUNTER_POLL (R303). -/
def execCounterPoll (t scope idx pos : Nat) (s : State) : Host.Outcome State Fault Refusal :=
  s.run t fun u => if u.answers then u.pollCounter scope idx pos else u

end Sys2Proof.Machine
end

