-- ==== Sys2Proof/Machine/Manage.lean ====
section
/-! DEFINITION. The I3C management path and the debug port (spec 14 R329 to R331, Table 14.14; 17 R411; 19 R439, R443). -/

namespace Sys2Proof.Machine

/-! ### Management messages (R330, Table 14.14) -/

/-- The target answers from BOOT on, in every state but OFF (R329). -/
def State.whenI3C (s : State) (go : State → State) : State := if s.power == .off then s else go s

/-- The response to a control message: the completion byte and what follows it. -/
def State.manage (s : State) (code : Nat) (data : Bytes) : State := { s with i3cReply := toLE 1 code ++ data }

/-- The response to a vendor-defined message: the PCI vendor ID, high byte first as DSP0236 has it, the completion byte
and what follows it (R329, R330). -/
def State.answer (s : State) (code : Nat) (data : Bytes) : State :=
  { s with i3cReply := toLE 1 (Config.vendorId / 256) ++ toLE 1 Config.vendorId ++ toLE 1 code ++ data }

/-- A vendor-defined message whose request is `request`, its command byte first: 0x01 for a command byte that Table 14.14
does not give, 0x02 for another length than the command alone (R330). -/
def State.vendorMessage (s : State) (code : Nat) (request : Bytes) (go : State → State) : State :=
  if fieldB request 0 1 != code then s.answer 1 []
  else if request.length != 1 then s.answer 2 []
  else go s

/-- STATE_READ: the state register and the physical function's alert summary. -/
def State.stateRead (s : State) : State := s.answer 0 (toLE 8 (s.stateRegister 0) ++ toLE 8 (s.alertSummary 0))

/-- SENSOR_READ: the readings in the order of Table 14.14; outlet, current and power are read afresh. -/
def State.sensorRead (s : State) : State :=
  let s := s.sense
  s.answer 0 (s.junction.flatMap (toLE 1) ++ toLE 2 s.inlet ++ toLE 2 s.outlet ++ toLE 2 s.inputVoltage ++
    toLE 4 s.inputCurrent ++ toLE 4 s.inputPower ++ toLE 1 s.point)

/-- ALERT_READ: the 17 alert registers of the physical function's copy. -/
def State.alertRead (s : State) : State :=
  s.answer 0 ((List.range 17).flatMap fun a => toLE 4 ((s.func 0).alerts.getD a {}).word)

/-- STOP_ARM. -/
def State.stopArm (s : State) : State := ({ s with stopArmed := some s.time } : State).answer 0 []

/-- For how long STOP_ARM arms the stop. -/
def armTime : Nat := 1000000000

/-- STOP_ARM_EXPIRY: 1 s has passed. -/
def State.stopExpire (s : State) : State :=
  match s.stopArmed with
  | some a => if a + armTime ≤ s.time then { s with stopArmed := none } else s
  | none => s

/-- The stop is armed: STOP_ARM came within the last 1 s (R331). -/
def State.isArmed (s : State) : Bool :=
  match s.stopArmed with
  | some a => Decidable.decide (s.time ≤ a + armTime)
  | none => false

/-- The Folham and CXL links go down (R331). -/
def State.linksDown (s : State) : State :=
  { s with subPorts := s.subPorts.map fun (x : SubPort) => x.restart .off
           cxl := s.cxl.map fun (c : CxlPort) => ({ c with linkUp := false } : CxlPort).leaveLost }

/-- The emergency stop (R331). -/
def State.emergencyStop (s : State) : State :=
  let s : State := { s with datapathCut := true, faultCause := some 0x0A, stopArmed := none }
  ((s.linksDown.raise 16 0).raise 4 0x0A).failAll

/-- STOP. -/
def State.stopNow (s : State) : State := if s.isArmed then s.emergencyStop.answer 0 [] else s.answer 3 []

/-! ### MCTP control messages (R329; their formats are those of DSP0236, assumption 40) -/

/-- Set Endpoint ID: 0 and 0xFF are no endpoint IDs. -/
def State.setEid (s : State) (eid : Nat) : State :=
  if eid % 256 = 0 || eid % 256 = 0xFF then s.manage 2 []
  else ({ s with endpointId := eid % 256 } : State).manage 0 (toLE 1 0 ++ toLE 1 eid ++ toLE 1 0)

/-- Get Endpoint ID. -/
def State.getEid (s : State) : State := s.manage 0 (toLE 1 s.endpointId ++ zeros 2)

/-- Get MCTP Version Support: one version, which the specification does not name. -/
def State.getVersions (s : State) : State :=
  let (v, s) := s.freeBytes 0 4
  s.manage 0 (toLE 1 1 ++ v)

/-- Get Message Type Support: the vendor-defined type 0x7E. -/
def State.getTypes (s : State) : State := s.manage 0 (toLE 1 1 ++ toLE 1 0x7E)

/-! ### The debug port (R411, R443) -/

/-- The next state of an IEEE 1149.1 controller at a rising edge of DBG_TCK with DBG_TMS at `tms`. -/
def TapState.next (x : TapState) (tms : Bool) : TapState :=
  match x with
  | .testLogicReset => if tms then .testLogicReset else .runTestIdle
  | .runTestIdle => if tms then .selectDr else .runTestIdle
  | .selectDr => if tms then .selectIr else .captureDr
  | .captureDr => if tms then .exit1Dr else .shiftDr
  | .shiftDr => if tms then .exit1Dr else .shiftDr
  | .exit1Dr => if tms then .updateDr else .pauseDr
  | .pauseDr => if tms then .exit2Dr else .pauseDr
  | .exit2Dr => if tms then .updateDr else .shiftDr
  | .updateDr => if tms then .selectDr else .runTestIdle
  | .selectIr => if tms then .testLogicReset else .captureIr
  | .captureIr => if tms then .exit1Ir else .shiftIr
  | .shiftIr => if tms then .exit1Ir else .shiftIr
  | .exit1Ir => if tms then .updateIr else .pauseIr
  | .pauseIr => if tms then .exit2Ir else .pauseIr
  | .exit2Ir => if tms then .updateIr else .shiftIr
  | .updateIr => if tms then .selectDr else .runTestIdle

/-- The bypass register after a rising edge in a state: cleared in Capture-DR, loaded from DBG_TDI in Shift-DR. -/
def TapState.bypass (x : TapState) (old tdi : Bool) : Bool :=
  match x with
  | .captureDr => false
  | .shiftDr => tdi
  | _ => old

/-- A clock of the debug port. While locked its only instruction is BYPASS and DBG_TDO is driven in Shift-DR only. What
an unlocked port shifts out is not stated. -/
def State.tapClock (s : State) (tms tdi : Bool) : State :=
  let st := s.tap.next tms
  let b := s.tap.bypass s.tapBypass tdi
  let s : State := { s with tap := st, tapBypass := b, tapOut := if st == .shiftDr then some b else none }
  if s.debugUnlocked && (st == .shiftDr || st == .shiftIr) then
    let (n, s) := s.freeNat
    { s with tapOut := some (n % 2 == 1) }
  else s

/-! ### Commands -/

/-- STATE_READ (R330). -/
def execStateRead (t : Nat) (request : Bytes) (s : State) : Host.Outcome State Fault Refusal :=
  s.run t fun u => u.whenI3C fun u => u.vendorMessage 1 request State.stateRead
/-- SENSOR_READ (R330). -/
def execSensorRead (t : Nat) (request : Bytes) (s : State) : Host.Outcome State Fault Refusal :=
  s.run t fun u => u.whenI3C fun u => u.vendorMessage 2 request State.sensorRead
/-- ALERT_READ (R330). -/
def execAlertRead (t : Nat) (request : Bytes) (s : State) : Host.Outcome State Fault Refusal :=
  s.run t fun u => u.whenI3C fun u => u.vendorMessage 3 request State.alertRead
/-- STOP_ARM (R330). -/
def execStopArm (t : Nat) (request : Bytes) (s : State) : Host.Outcome State Fault Refusal :=
  s.run t fun u => u.whenI3C fun u => u.vendorMessage 4 request State.stopArm
/-- STOP_ARM_EXPIRY (R331). -/
def execStopArmExpiry (t : Nat) (s : State) : Host.Outcome State Fault Refusal := s.run t fun u => u.whenI3C State.stopExpire
/-- STOP (R331). -/
def execStop (t : Nat) (request : Bytes) (s : State) : Host.Outcome State Fault Refusal :=
  s.run t fun u => u.whenI3C fun u => u.vendorMessage 5 request State.stopNow
/-- SET_ENDPOINT_ID (R329). -/
def execSetEndpointId (t eid : Nat) (s : State) : Host.Outcome State Fault Refusal :=
  s.run t fun u => u.whenI3C fun u => u.setEid eid
/-- GET_ENDPOINT_ID (R329). -/
def execGetEndpointId (t : Nat) (s : State) : Host.Outcome State Fault Refusal := s.run t fun u => u.whenI3C State.getEid
/-- GET_MCTP_VERSION_SUPPORT (R329). -/
def execGetMctpVersionSupport (t : Nat) (s : State) : Host.Outcome State Fault Refusal :=
  s.run t fun u => u.whenI3C State.getVersions
/-- GET_MESSAGE_TYPE_SUPPORT (R329). -/
def execGetMessageTypeSupport (t : Nat) (s : State) : Host.Outcome State Fault Refusal :=
  s.run t fun u => u.whenI3C State.getTypes
/-- SETDASA (R329): the controller names static address 0x3A and gives the dynamic address. -/
def execSetdasa (t addr : Nat) (s : State) : Host.Outcome State Fault Refusal :=
  s.run t fun u => u.whenI3C fun u => { u with dynAddr := some (addr % 128) }
/-- ENTDAA (R329). -/
def execEntdaa (t addr : Nat) (s : State) : Host.Outcome State Fault Refusal :=
  s.run t fun u => u.whenI3C fun u => { u with dynAddr := some (addr % 128) }
/-- TEST_ACCESS_PORT_CLOCK (R443). -/
def execTestAccessPortClock (t : Nat) (tms tdi : Bool) (s : State) : Host.Outcome State Fault Refusal :=
  s.run t fun u => if u.power == .off then u else u.tapClock tms tdi

end Sys2Proof.Machine
end

