-- ==== Sys2Proof/Machine/Power.lean ====
section
/-! DEFINITION. Monitors, thermal and supply responses, faults of shared blocks, power, PERST_L and boot (spec 01 R20;
02 R34 to R43, R446; 14 R322; 17 R390 to R394; 18 R412 to R420; 19 R434, R440, R441, R444). -/

namespace Sys2Proof.Machine

/-! ### The rated envelope (R34, R444) -/

/-- The coolant inlet is within the limits of Table 19.6 for a point, in 0.1 °C. -/
def inletOk (point tenths : Nat) : Bool := 100 ≤ tenths && tenths ≤ (if point = 3 then 300 else 400)

/-- The input supply lies within 48 to 54 V, in 10 mV. -/
def supplyOk (centivolts : Nat) : Bool := 4800 ≤ centivolts && centivolts ≤ 5400

/-- The device is within its rated envelope as its sensors stand: supply, junctions, coolant inlet, and the die voltage
within ±10 mV of its nominal or in a ramp (R34). -/
def State.envelopeNow (s : State) : Bool :=
  supplyOk s.inputVoltage && (s.junction.all (· ≤ 105)) && inletOk s.point s.inlet && (s.ramp.isSome || !s.voltageOff)

/-- The firmware responds to conditions: the wellhead works and the datapath supply is on (R35). -/
def State.whenResponds (s : State) (go : State → State) : State := if s.answers && !s.datapathCut then go s else s

/-! ### Event-rate monitors (R39, R40) -/

/-- The two monitors of a basin differ by more than 3 % (R39). DESIGN CHOICE: the spec does not say which reading the 3 %
are taken of; the model takes them of the lower one (assumption 50). -/
def monitorsDiffer (r : MonitorReading) : Bool := 3 * min r.rateA r.rateB < 100 * (max r.rateA r.rateB - min r.rateA r.rateB)

/-- The reading of basin `b` in a window. -/
def readingOf (rs : List MonitorReading) (b : Nat) : MonitorReading := rs.getD b ⟨0, 0, 0, 0⟩

/-- The provider's record of basin `b` at the end of a window, which the device spent `inside` its envelope or not. -/
def State.windowRecord (s : State) (rs : List MonitorReading) (inside : Bool) (b : Nat) : MonitorRec where
  point := s.point
  ramping := s.rampInWindow || s.ramp.isSome
  inEnvelope := inside
  junction := (readingOf rs b).junction % 256
  rate := min (readingOf rs b).rateA (readingOf rs b).rateB % 65536
  window := s.windows % 2 ^ 32

/-- A tenant's record of basin `b` at the end of a second of windows (R40). -/
def State.secondRecord (s : State) (b : Nat) : MonitorRec where
  point := s.point
  ramping := s.tenantRamping
  inEnvelope := s.tenantInEnvelope
  junction := 0
  rate := s.tenantSums.getD b 0 / 1000 / 10 * 10 % 65536
  window := s.windows / 1000 % 2 ^ 32

/-- A second has ended with the present window: the tenants' records are made and their sums start afresh. -/
def State.closeSecond (s : State) : State :=
  if (s.windows + 1) % 1000 = 0 then
    { s with tenantMonitors := (List.range 8).map s.secondRecord, tenantSums := List.replicate 8 0
             tenantRamping := false, tenantInEnvelope := true }
  else s

/-- A 1 ms window closes: records, the average of the input power over it (R50), and FAULT when the monitors of a basin
differ by more than 3 %. The window was spent inside the envelope when it began and ended there, no junction passed
105 °C in it and no condition of Table 2.2 arose; `voltageOk` says whether the die voltage stands within ±10 mV of its
nominal as it ends (R34, R40). -/
def State.monitorWindow (s : State) (rs : List MonitorReading) (voltageOk : Bool) : State :=
  let s : State := { s.powerWindow with junction := (List.range 8).map fun b => (readingOf rs b).junctionEnd, voltageOff := !voltageOk }
  let inside := s.inEnvelope && s.envelopeNow && (List.range 8).all fun b => (readingOf rs b).junction ≤ 105
  let s : State := { s with
    monitors := (List.range 8).map (s.windowRecord rs inside)
    tenantSums := (List.range 8).map fun b => s.tenantSums.getD b 0 + min (readingOf rs b).rateA (readingOf rs b).rateB
    tenantRamping := s.tenantRamping || s.rampInWindow || s.ramp.isSome
    tenantInEnvelope := s.tenantInEnvelope && inside }
  let s := s.closeSecond
  let s : State := { s with windows := s.windows + 1, rampInWindow := s.ramp.isSome, inEnvelope := s.envelopeNow }
  if (List.range 8).any fun b => monitorsDiffer (readingOf rs b) then s.enterFault 7 else s

/-- The rate of every basin, by its lower monitor in the last window, is at least 2.7 G events/s (R446). -/
def State.ratesHeld (s : State) : Bool := s.monitors.all fun r => 2700 ≤ r.rate

/-- The wellhead may move the P3 target to `mv`: at most 5 mV away, between 0.78 V and 0.85 V, and towards the lowest value
that holds the rate: not upwards while every basin holds it, and upwards, short of 0.85 V, while one does not (R446). -/
def State.trimsTo (s : State) (mv : Nat) : Bool :=
  mv ≤ s.milliVolts + 5 && s.milliVolts ≤ mv + 5 && 780 ≤ mv && mv ≤ 850 &&
    if s.ratesHeld then mv ≤ s.milliVolts else s.milliVolts < mv || s.milliVolts == 850

/-- P3_TRIM: at P3 the wellhead sets the target every 1 ms (R446). -/
def State.trim (s : State) (mv : Nat) : State :=
  if s.point = 3 && s.ramp.isNone && s.nextTrim ≤ s.time && s.trimsTo mv then
    { s with milliVolts := mv, nextTrim := s.time + 1000000 }
  else s

/-! ### Thermal and supply responses (R35, R38, Table 2.2) -/

/-- An automatic step-down to a point: it overrides a change that the host requested, whose command fails (R38). A
step-down already in progress keeps the lower of the two points. -/
def State.stepDown (s : State) (target : Nat) : State :=
  let t := match s.ramp with
    | some r => if r.byHost then target else min r.target target
    | none => target
  let host := s.ramp.any (·.byHost)
  let s : State := { s with ramp := some { target := t, byHost := false }, rampInWindow := true }
  if host then
    (s.opens.filter fun o => o.kind == .operatingPoint).foldl (fun (s : State) o => s.finish o .hardwareFault (toLE 1 s.point)) s
  else s

/-- The device is at P3, or on its way there at the host's request. -/
def State.nearP3 (s : State) : Bool := s.point == 3 || s.ramp.any fun r => r.byHost && r.target == 3

/-- The coolant inlet reads `tenths`: above 30 °C at P3 the device moves to P2. -/
def State.coolantInlet (s : State) (tenths : Nat) : State :=
  let s : State := { s with inlet := tenths }
  let s : State := { s with inEnvelope := s.inEnvelope && s.envelopeNow }
  if 300 < tenths && s.nearP3 then
    let (b, s) := s.freeNat
    (s.stepDown 2).raise 0 (b % 8)
  else s

/-- The junction of basin `b` reads `celsius`: above 105 °C the device moves one point down from P2 or P3; at P1 it stays
there, or returns there where a change away from P1 is in progress. -/
def State.junctionOver (s : State) (b celsius : Nat) : State :=
  let s : State := { s with junction := s.junction.set b celsius }
  let s : State := { s with inEnvelope := s.inEnvelope && s.envelopeNow }
  if b < 8 && 105 < celsius then
    let s := if 1 < s.point then s.stepDown (s.point - 1) else if s.ramp.isSome then s.stepDown 1 else s
    s.raise 0 b
  else s

/-- The junction of basin `b` reads 115 °C or more: the datapath supply is cut and the device enters FAULT. -/
def State.thermalTrip (s : State) (b celsius : Nat) : State :=
  let s : State := { s with junction := s.junction.set b celsius }
  if b < 8 && 115 ≤ celsius then
    (({ s with datapathCut := true, inEnvelope := false } : State).raise 1 b).enterFault 1
  else s

/-- The die voltage is off its nominal, not during a ramp: the device is outside its envelope until a window ends with the
voltage back, or a change of point settles. -/
def State.regulatorAlarm (s : State) : State :=
  if s.ramp.isSome then s
  else ({ s with voltageOff := true, inEnvelope := false, regulatorTimes := s.regulatorTimes ++ [s.time] } : State).raise 2 0

/-- The input supply reads `centivolts`: outside 48 to 54 V SUPPLY is raised, the sounding is fed and SAG goes to the
co-fed devices (R381). -/
def State.supplyWarning (s : State) (centivolts : Nat) : State :=
  let s : State := { s with inputVoltage := centivolts }
  if supplyOk centivolts then s
  else
    let s := ({ s with inEnvelope := false, sagTimes := s.sagTimes ++ [s.time] } : State).raise 3 0
    if s.alive then s.sendSags else s

/-! ### Faults of shared blocks (R20, Table 1.4) -/

/-- Folham port `p` fails: its sub-ports leave the routing candidates, and port commands on it fail. -/
def State.folhamFault (s : State) (p : Nat) : State :=
  if 12 ≤ p then s
  else
    let s : State := { s with portFailed := s.portFailed.set p true }
    let s := (List.range 4).foldl (fun (s : State) i => s.leaveUp (4 * p + i) .off) s
    s.failOpens fun k => match k with
      | .portMode q => q == p
      | .portRetrain i => i / 4 == p
      | _ => false

/-- CXL port `q` fails: its link goes down for good, and a port that is not serving reads ABSENT. -/
def State.cxlFault (s : State) (q : Nat) : State :=
  s.modPort q fun c =>
    if c.state == .online || c.state == .detaching then
      { c with failed := true, linkUp := false, downSince := some (c.downSince.getD s.time) }
    else if c.state == .lost then ({ c with failed := true, linkUp := false } : CxlPort).leaveLost
    else ({ c with failed := true } : CxlPort).absent

/-- A block whose fault puts the device in FAULT. -/
def State.blockFault (s : State) (x : SharedBlock) (cause : Nat) : State :=
  ({ s with failedBlocks := s.failedBlocks ++ [x] } : State).enterFault cause

/-- A fault appears in a shared block. -/
def State.sharedFault (s : State) (x : SharedBlock) : State :=
  match x with
  | .folhamPort p => s.folhamFault p
  | .cxlPort q => s.cxlFault q
  | .activeWellhead => s.blockFault x 2
  | .routerCore => s.blockFault x 3
  | .hostEndpoint => s.blockFault x 4
  | .moduleStore => s.blockFault x 5
  | .securityBlock => s.blockFault x 6
  | .monitor _ => s.blockFault x 7

/-! ### Power and PERST_L (R412, R414, R434, R441) -/

/-- PERST_L: every volatile value is lost, and rails that were cut come up again (R414). What survives: the module store and its replay-protected area, the mask ROM, the clock, the sensors, the
I3C target, the debug port's controller, what was already sent, and the draws of the free values. -/
def State.coldStart (s : State) : State :=
  { State.reset with
    pending := s.pending, time := s.time, power := .boot, perst := s.perst, pwrGood := s.pwrGood || s.datapathCut, feed := s.feed
    bootHold := s.bootHold, bootStart := s.bootStart, junction := s.junction, inlet := s.inlet, outlet := s.outlet
    inputVoltage := s.inputVoltage, inputCurrent := s.inputCurrent, inputPower := s.inputPower
    msix := s.msix, hostWrites := s.hostWrites, completion := s.completion, hostRate := s.hostRate, hostWidth := s.hostWidth
    subPorts := List.replicate 48 {}, cxl := s.cxl.map fun (c : CxlPort) => { epoch := c.epoch + 1, prsntHigh := c.prsntHigh }
    vendorDigest := s.vendorDigest, bootCount := s.bootCount, versionFloor := s.versionFloor, imageA := s.imageA
    imageB := s.imageB, randomCount := s.randomCount, freeCount := s.freeCount, store := s.store
    echoPulses := s.echoPulses, dynAddr := s.dynAddr, endpointId := s.endpointId, stopArmed := s.stopArmed
    i3cReply := s.i3cReply, ibis := s.ibis, tap := s.tap, tapBypass := s.tapBypass, tapOut := s.tapOut }

/-- PERST_L_ASSERT: held low for 100 µs, in any state but OFF (R414). -/
def State.perstAssert (s : State) : State :=
  if s.power == .off then { s with perst := true } else ({ s with perst := true } : State).coldStart

/-- The PCIe link trains from t0 (R413) to one of the rates and widths of Table 14.1; which, is not stated. -/
def State.trainHost (s : State) : State :=
  let (n, s) := s.freeNat
  { s with hostRate := 1 + n % 6, hostWidth := 2 ^ (n / 6 % 3) }

/-- PERST_L_RELEASE: with PWR_GOOD asserted, boot starts at t0 and the straps are sampled (R412, R416). -/
def State.perstRelease (s : State) (feed : Nat) (hold : Bool) : State :=
  let s := if s.perst then s.trainHost else s
  { s with perst := false, feed := if s.perst then feed % 64 else s.feed, bootHold := if s.perst then hold else s.bootHold
           bootStart := if s.perst then s.time else s.bootStart }

/-- Input power is gone: every value outside the module store is lost (R412); the level of PERST_L is the host's. -/
def State.lights (s : State) : State :=
  { s.coldStart with power := .off, pwrGood := false, dynAddr := none, endpointId := 0, stopArmed := none, i3cReply := []
                     tap := .testLogicReset, tapBypass := false, tapOut := none }

/-- The device goes to OFF, if it is not there. -/
def State.powerDown (s : State) : State := if s.power == .off then s else s.lights

/-- POWER_ON: the input rises above the lockout threshold, the rails and the oscillator come up and PWR_GOOD asserts;
device time starts at 0. With PERST_L released this is t0, and the straps read as they last did. -/
def State.powerUp (s : State) : State :=
  if s.power == .off then
    let (v, s) := s.trainHost.freeNat
    { s.coldStart with time := 0, power := .boot, pwrGood := true, bootStart := 0, inputVoltage := 4600 + v % 1201 }
  else s

/-- A rail leaves regulation: PWR_GOOD is pulled low (R441). -/
def State.railLost (s : State) : State := { s with pwrGood := false }

/-! ### Boot (R392, R394, R413 to R416) -/

/-- The payload of the record of a type that boot uses: the committed one with the highest Version (R420). -/
def State.recordOf (s : State) (type : Nat) : Option Bytes :=
  ((s.store.filter fun r => r.type == type && r.committed).foldl
    (fun (best : Option StoreRecord) r => match best with
      | some x => if x.version < r.version then some r else some x
      | none => some r) none).map (·.payload)

/-- The image of a slot: 0 A, 1 B. -/
def State.imageIn (s : State) (slot : Nat) : ImageSlot := if slot = 0 then s.imageA else s.imageB

/-- Stage 1 of the image of a slot runs: steps 4 to 7 of Table 17.2 with the stored floor `floor`, where `sig1` says that
the header decrypts and Sig1 verifies. -/
def State.stageOneRuns (s : State) (floor slot : Nat) (sig1 : Bool) : Bool :=
  let i := s.imageIn slot
  sig1 && i.present && sm3 (toLE 32 i.vendorKey.1 ++ toLE 32 i.vendorKey.2) == s.vendorDigest && i.floor ≤ i.version && floor ≤ i.version

/-- Steps 4 to 8 of Table 17.2 on a slot: the stored floor after them, which step 7 raises whatever step 8 finds, and
whether the slot boots. -/
def State.bootFrom (s : State) (boot : BootResult) (floor slot : Nat) : Nat × Bool :=
  let sig1 := if slot = 0 then boot.slotAStage1 else boot.slotBStage1
  if s.stageOneRuns floor slot sig1 then (max floor (s.imageIn slot).floor, if slot = 0 then boot.slotAImage else boot.slotBImage)
  else (floor, false)

/-- The slot that the active slot mark names: A where there is no mark (Table 18.4). -/
def State.activeSlot (s : State) : Nat :=
  match s.recordOf 4 with
  | some m => fieldB m 0 1 % 2
  | none => 0

/-- The stored floor after boot has tried the active slot and, where that fails, the other one, and the slot that boots
(R392). -/
def State.bootSlot (s : State) (boot : BootResult) : Nat × Option Nat :=
  let first := s.activeSlot
  let a := s.bootFrom boot s.versionFloor first
  if a.2 then (a.1, some first)
  else
    let b := s.bootFrom boot a.1 (1 - first)
    (b.1, if b.2 then some (1 - first) else none)

/-- The slot is not the one that the active slot mark names. -/
def State.isFallback (s : State) (slot : Nat) : Bool := s.activeSlot != slot

/-- What the wellhead takes from the image and the records (Table 18.2). -/
def State.takeRecords (s : State) (slot : Nat) (serial : Bytes) : State :=
  let i := s.imageIn slot
  let (minor, s) := s.freeNat
  { s with serial := fieldB serial 0 8, firmware := i.version, abaopMinor := minor % 256, imageSlot := slot
           fallbackBoot := s.isFallback slot, chain := (s.recordOf 2).getD [], basins := s.basins.map fun (b : Basin) => { b with microcode := i.version } }

/-- Stacks that failed training, of the basins not marked retired. -/
def State.failedStacks (s : State) (failed : List Nat) : List Nat := failed.filter fun i => i < 24 && !s.mapRetired (i / 3)

/-- Phase 6: basins marked retired, and those whose stacks fail training, come up RETIRED (R415). -/
def State.trainStacks (s : State) (bad : List Nat) : State :=
  let s := (List.range 8).foldl (fun (s : State) b =>
    if s.mapRetired b || bad.any fun i => i / 3 == b then s.modBasin b fun x => { x with state := .retired } else s) s
  if bad.isEmpty then s else s.commitRetired

/-- Phase 8: HELD with BOOT_HOLD strapped; else READY, with the sub-ports in training. -/
def State.enterUp (s : State) : State :=
  if s.bootHold then { s with power := .held } else ({ s with power := .up } : State).trainAll

/-- BOOT_COMPLETE. -/
def State.bootDone (s : State) (boot : BootResult) : State :=
  if s.power != .boot || s.perst || !s.pwrGood || s.faultCause.isSome then s
  else if !boot.rootOk || (s.recordOf 1).isNone then s.enterFault 0x0B
  else
    let x := s.bootSlot boot
    let s : State := { s with bootCount := (s.bootCount + 1) % 2 ^ 32, versionFloor := x.1 }
    match x.2, s.recordOf 3 with
    | some slot, some serial =>
      let bad := s.failedStacks boot.failedStacks
      let s := (s.takeRecords slot serial).trainStacks bad
      if s.basins.all fun b => b.state == .retired then
        (bad.foldl (fun (s : State) i => s.raise 7 i) { s with power := .up }).enterFault 9
      else
        let s := bad.foldl (fun (s : State) i => s.raise 7 i) s.enterUp
        if s.fallbackBoot then s.raise 15 slot else s
    | _, _ => s.enterFault 0x0B

/-! ### Commands -/

/-- MONITOR_WINDOW (R39, R40). -/
def execMonitorWindow (t : Nat) (readings : List MonitorReading) (voltageOk : Bool) (s : State) :
    Host.Outcome State Fault Refusal :=
  s.run t fun u => u.whenResponds fun u => u.monitorWindow readings voltageOk
/-- P3_TRIM (R446). -/
def execP3Trim (t millivolts : Nat) (s : State) : Host.Outcome State Fault Refusal :=
  s.run t fun u => u.whenResponds fun u => u.trim millivolts
/-- COOLANT_INLET_HIGH (R35). -/
def execCoolantInletHigh (t tenths : Nat) (s : State) : Host.Outcome State Fault Refusal :=
  s.run t fun u => u.whenResponds fun u => u.coolantInlet tenths
/-- JUNCTION_OVER_LIMIT (R35). -/
def execJunctionOverLimit (t b celsius : Nat) (s : State) : Host.Outcome State Fault Refusal :=
  s.run t fun u => u.whenResponds fun u => u.junctionOver b celsius
/-- THERMAL_TRIP (R35). -/
def execThermalTrip (t b celsius : Nat) (s : State) : Host.Outcome State Fault Refusal :=
  s.run t fun u => if u.power == .off then u else u.thermalTrip b celsius
/-- REGULATOR_ALARM (R35). -/
def execRegulatorAlarm (t : Nat) (s : State) : Host.Outcome State Fault Refusal :=
  s.run t fun u => u.whenResponds State.regulatorAlarm
/-- SUPPLY_WARNING (R35, R381). -/
def execSupplyWarning (t centivolts : Nat) (s : State) : Host.Outcome State Fault Refusal :=
  s.run t fun u => u.whenResponds fun u => u.supplyWarning centivolts
/-- OSCILLATOR_LOSS (R43). -/
def execOscillatorLoss (t : Nat) (s : State) : Host.Outcome State Fault Refusal :=
  s.run t fun u => if u.power == .off then u else u.enterFault 8
/-- SHARED_BLOCK_FAULT (R20). -/
def execSharedBlockFault (t : Nat) (block : SharedBlock) (s : State) : Host.Outcome State Fault Refusal :=
  s.run t fun u => if u.power == .off then u else u.sharedFault block
/-- POWER_ON (R412, R434): device time starts anew, so the clock is not the one that `run` keeps. -/
def execPowerOn (_t : Nat) (s : State) : Host.Outcome State Fault Refusal := .next s.powerUp
/-- PERST_L_RELEASE (R412, R416). -/
def execPerstLRelease (t feed : Nat) (hold : Bool) (s : State) : Host.Outcome State Fault Refusal :=
  s.run t fun u => u.perstRelease feed hold
/-- PERST_L_ASSERT (R414). -/
def execPerstLAssert (t : Nat) (s : State) : Host.Outcome State Fault Refusal := s.run t State.perstAssert
/-- BOOT_COMPLETE (R413). -/
def execBootComplete (t : Nat) (boot : BootResult) (s : State) : Host.Outcome State Fault Refusal :=
  s.run t fun u => u.bootDone boot
/-- UNDERVOLTAGE_LOCKOUT (R434). -/
def execUndervoltageLockout (t : Nat) (s : State) : Host.Outcome State Fault Refusal := s.run t State.powerDown
/-- OVERVOLTAGE_CUT (R434). -/
def execOvervoltageCut (t : Nat) (s : State) : Host.Outcome State Fault Refusal := s.run t State.powerDown
/-- POWER_OFF (R412, R441). -/
def execPowerOff (t : Nat) (s : State) : Host.Outcome State Fault Refusal := s.run t State.powerDown
/-- RAIL_OUT_OF_REGULATION (R441). -/
def execRailOutOfRegulation (t : Nat) (s : State) : Host.Outcome State Fault Refusal := s.run t State.railLost

end Sys2Proof.Machine
end

