-- ==== Sys2Proof/Machine/Resilience.lean ====
section
/-! DEFINITION. Resilience commands: the reflection partner and interval, the sounding threshold, failure notices,
restores and replay verification (spec 15 R351 to R354; 16 R364, R374, R375, R378, R380, R388, R389; 12 R263). -/

namespace Sys2Proof.Machine

/-! ### REFLECT_PAIR (R352) -/

/-- A pairing of partition `p` is being made. -/
def pairingOf (p : Nat) : OpenKind → Bool
  | .reflectAsk q .. => q == p
  | .reflectPair q .. => q == p
  | _ => false

/-- REFLECT_PAIR with Unpair 1: the present partner is removed. -/
def State.reflectUnpair (s : State) (x : Ticket) (c : Bytes) : State :=
  let p := fieldB c 8 1
  if !allZero (sliceB c 10 54) || bit (fieldB c 9 1) 0 then s.reply x .badArgument
  else if (s.partition p).capture.isSome || s.opens.any fun o => pairingOf p o.kind then s.reply x .busy
  else (s.modPartition p fun y => { y with partner := none, flushPending := false }).reply x .done

/-- The question of FEED_QUERY: whether the pair is co-fed, this partition, and the region (assumption 37). -/
def feedQuestion (p part off size : Nat) (coFed : Bool) : Msg :=
  tc0 0x33 part 0 (toLE 1 (if coFed then 2 else 0) ++ toLE 1 p ++ toLE 8 off ++ toLE 8 size)

/-- REFLECT_PAIR with Unpair 0. The third check waits for the partner's answer. -/
def State.reflectMake (s : State) (x : Ticket) (c : Bytes) : State :=
  let p := fieldB c 8 1
  let dev := fieldB c 10 2
  let part := fieldB c 12 1
  let off := fieldB c 16 6
  let size := fieldB c 24 8
  let coFed := bit (fieldB c 9 1) 0
  match s.ctxFor p dev with
  | none => s.reply x .badArgument
  | some ctx =>
    if 7 < part || size % 4096 != 0 || 480 * 2 ^ 30 < size then s.reply x .badArgument
    else if (s.partition p).capture.isSome || s.switchOpen || s.opens.any fun o => pairingOf p o.kind then s.reply x .busy
    else if ctx.lost then (s.modPartition p fun y => { y with partner := none }).reply x .hardwareFault
    else (s.openCommand x (.reflectAsk p dev part off size coFed)).sendTo p dev (feedQuestion p part off size coFed) .none

/-- REFLECT_PAIR after the gate. -/
def State.reflectPairing (s : State) (x : Ticket) (c : Bytes) : State :=
  if 7 < fieldB c 8 1 then s.reply x .badArgument
  else if bit (fieldB c 9 1) 1 then s.reflectUnpair x c
  else s.reflectMake x c

/-! ### REFLECT_INTERVAL_SET, SOUNDING_THRESHOLD_SET, FAILURE_NOTICE (R353, R375, R378) -/

/-- REFLECT_INTERVAL_SET after the gate. The interval is computed anew at the next commit or accepted notice; before a
reflection has been measured the result is a free value. -/
def State.reflectIntervalSet (s : State) (x : Ticket) (c : Bytes) : State :=
  let p := fieldB c 8 1
  if 7 < p then s.reply x .badArgument
  else
    let s := s.modPartition p fun y => { y with mtbf := fieldB c 12 4, mtbfSince := s.time, mtbfNotices := 0 }
    match (s.partition p).partner with
    | some q =>
      if q.measured.isSome then s.reply x .done (toLE 4 (q.interval / 1000000000))
      else let (n, s) := s.freeNat; s.reply x .done (toLE 4 (n % 2 ^ 32))
    | none => let (n, s) := s.freeNat; s.reply x .done (toLE 4 (n % 2 ^ 32))

/-- SOUNDING_THRESHOLD_SET after the gate. -/
def State.soundingThresholdSet (s : State) (x : Ticket) (c : Bytes) : State :=
  if fieldB c 8 1 = 0 then s.reply x .badArgument
  else ({ s with thresholdSet := fieldB c 8 1 } : State).reply x .done

/-- Device `dev` is marked lost in every group that holds it (R263). -/
def markLost (dev : Nat) (g : GroupRec) : GroupRec :=
  if g.members.contains dev && !g.lost.contains dev then { g with lost := g.lost ++ [dev] } else g

/-- A failure notice is accepted: it counts unless one for the same ID came in the last 60 s, and marks the device. -/
def State.noteFailure (s : State) (dev : Nat) : State :=
  let recentOnes := s.notices.filter fun n => s.time < n.1 + 60000000000
  let counts := !recentOnes.any fun n => n.2 == dev
  let s : State := { s with
    notices := recentOnes ++ [(s.time, dev)]
    partitions := s.partitions.map fun (y : Partition) =>
      { y with groups := y.groups.map (markLost dev), mtbfNotices := if counts then y.mtbfNotices + 1 else y.mtbfNotices } }
  ((List.range 8).filter fun p => (s.partition p).isOpen).foldl (fun (s : State) p => (s.refreshInterval p).collLost p dev) s

/-- FAILURE_NOTICE after the gate. -/
def State.failureNotice (s : State) (x : Ticket) (c : Bytes) : State :=
  if 16383 < fieldB c 8 2 then s.reply x .badArgument
  else ((s.noteFailure (fieldB c 8 2)).collProgress).reply x .done

/-! ### RESTORE_BEGIN (R354, R388) -/

/-- The partition has a task slot in State 2. -/
def State.anyRunning (s : State) (p : Nat) : Bool :=
  (s.basinsOf p).any fun b => (s.basin b).slots.any fun k => k.state == .running

/-- The holder's answer is the image asked for and its manifest copy is legal here. -/
def State.answerFits (s : State) (p step : Nat) (a : RestoreAnswer) : Bool :=
  (step == 0 || fieldB a.record 0 8 == step) &&
    match s.manifestBasin p with
    | some b => (s.manifestIllegal p (windowBase b) (sliceB a.deviceArea 0 manifestSize)).isNone
    | none => false

/-- RESTORE_BEGIN after the gate; `found` is what HolderId answers to RESTORE_ASK, none when it has no such image. -/
def State.restoreBegin (s : State) (x : Ticket) (c : Bytes) (found : Option RestoreAnswer) : State :=
  let p := fieldB c 8 1
  let source := fieldB c 9 1
  let dev := fieldB c 10 2
  let part := fieldB c 12 1
  let step := fieldB c 16 8
  if 7 < p || 1 < source || 7 < part then s.reply x .badArgument
  else if s.anyRunning p || (s.partition p).restore.isSome then s.reply x .busy
  else if (s.ctxFor p dev).isNone then s.reply x .badArgument
  else
    let s := s.sendTo p dev (tc0 0x35 part 0 (toLE 1 source ++ toLE 1 p ++ toLE 8 step)) .none
    match found with
    | none => s.reply x .badArgument
    | some a =>
      if !s.peerLive p dev || !s.answerFits p step a then s.reply x .badArgument
      else
        s.accept x (.restore p dev (sliceB a.record 0 64) (sliceB a.deviceArea 0 131072)) fun s =>
          ((((s.abandonCapture p false).abandonCapture p true).allDirty p).modPartition p fun y => { y with restore := some {} })

/-! ### REPLAY_VERIFY (R354, R389) -/

/-- The two losses match: bit by bit, or within the tolerance, whose zero stands for 1e-3. -/
def lossMatches (exactly : Bool) (r old tol : Nat) : Bool :=
  let a := f32 r
  let b := f32 old
  let d := (Val.add a b.neg).abs
  if a.isNaN || b.isNaN then false
  else if exactly then r == old
  else
    let (l, u) := if (f32 tol).isZero then (Val.mul (Val.ofInt 1000) d, b.abs) else (d, Val.mul (f32 tol) b.abs)
    !l.isNaN && !u.isNaN && !Val.lt u l

/-- REPLAY_VERIFY after the gate. -/
def State.replayVerify (s : State) (x : Ticket) (c : Bytes) : State :=
  let p := fieldB c 8 1
  let b := fieldB c 9 1
  let k := fieldB c 10 1
  let off := fieldB c 16 6
  if 7 < p || 7 < b || 15 < k || !s.holdsBasin p b || (s.seg b k 0).size < off + 4 then s.reply x .badArgument
  else if (s.slot b k).state != .finished then s.reply x .busy
  else
    let r := leNat (s.read (s.segAddr b k 0 off) 4)
    let ok := lossMatches (bit (fieldB c 11 1) 0) r (fieldB c 24 4) (fieldB c 28 4)
    s.reply x .done (toLE 1 (if ok then 0 else 1) ++ zeros 3 ++ toLE 4 r)

/-! ### Commands -/

/-- The gate of REFLECT_PAIR (Table 15.2 and its arguments). -/
def specReflectPair : CmdSpec :=
  { opcode := 0x0701, states := inUS, part := some 8, fields := [(8, 1), (10, 2), (12, 1), (16, 6), (24, 8)]
    flags := [(9, 3)] }
/-- REFLECT_PAIR (R352). -/
def execReflectPair (t fn mb : Nat) (s : State) : Host.Outcome State Fault Refusal :=
  s.run t fun u => u.command fn mb specReflectPair State.reflectPairing
/-- The gate of REFLECT_INTERVAL_SET (Table 15.2 and its arguments). -/
def specReflectIntervalSet : CmdSpec :=
  { opcode := 0x0702, states := inUS, part := some 8, fields := [(8, 1), (12, 4)] }
/-- REFLECT_INTERVAL_SET (R353). -/
def execReflectIntervalSet (t fn mb : Nat) (s : State) : Host.Outcome State Fault Refusal :=
  s.run t fun u => u.command fn mb specReflectIntervalSet State.reflectIntervalSet
/-- The gate of SOUNDING_THRESHOLD_SET (Table 15.2 and its arguments). -/
def specSoundingThresholdSet : CmdSpec :=
  { opcode := 0x0703, states := inRUS, physical := true, fields := [(8, 1)] }
/-- SOUNDING_THRESHOLD_SET (R353). -/
def execSoundingThresholdSet (t fn mb : Nat) (s : State) : Host.Outcome State Fault Refusal :=
  s.run t fun u => u.command fn mb specSoundingThresholdSet State.soundingThresholdSet
/-- The gate of FAILURE_NOTICE (Table 15.2 and its arguments). -/
def specFailureNotice : CmdSpec :=
  { opcode := 0x0704, states := inRUS, physical := true, fields := [(8, 2)] }
/-- FAILURE_NOTICE (R353). -/
def execFailureNotice (t fn mb : Nat) (s : State) : Host.Outcome State Fault Refusal :=
  s.run t fun u => u.command fn mb specFailureNotice State.failureNotice
/-- The gate of RESTORE_BEGIN (Table 15.2 and its arguments). -/
def specRestoreBegin (s : State) : CmdSpec :=
  { opcode := 0x0705, states := inUS, part := some 8, basins := fun c => s.basinsOf (fieldB c 8 1)
    basinOk := (· == .active), fields := [(8, 1), (9, 1), (10, 2), (12, 1), (16, 8)] }
/-- RESTORE_BEGIN (R388). -/
def execRestoreBegin (t fn mb : Nat) (found : Option RestoreAnswer) (s : State) : Host.Outcome State Fault Refusal :=
  s.run t fun u => u.command fn mb (specRestoreBegin u) fun u x c => u.restoreBegin x c found
/-- The gate of REPLAY_VERIFY (Table 15.2 and its arguments). -/
def specReplayVerify : CmdSpec :=
  { opcode := 0x0706, states := inUS, part := some 8, basins := oneBasin 9, basinOk := (· == .active)
    fields := [(8, 1), (9, 1), (10, 1), (16, 6), (24, 4), (28, 4)], flags := [(11, 1)] }
/-- REPLAY_VERIFY (R354). -/
def execReplayVerify (t fn mb : Nat) (s : State) : Host.Outcome State Fault Refusal :=
  s.run t fun u => u.command fn mb specReplayVerify State.replayVerify

end Sys2Proof.Machine
end

