-- ==== Sys2Proof/Machine/Tier.lean ====
section
/-! DEFINITION. The CXL links and the stacks as the physical world moves them: links that come and go, reads that arrive
poisoned, patrol scrub, in-line recalibration and the end of a wipe (spec 09 R197, R201 to R204, R207, R208, R212, R213;
10 R221; 17 R407). -/

namespace Sys2Proof.Machine

/-! ### CXL links (R207, R208, R212, R213) -/

/-- What a port maps of a device of capacity `c` bytes (R207). -/
def mappedOf (c : Nat) : Nat := min c 0x20000000000 / 0x10000000 * 0x10000000

/-- CXL_LINK_UP: a device is detected, enumerated and mapped at a supported rate and width; one below 256 MiB is not
admitted (R206, R207). A port whose CXLp_PRSNT_L reads high, or whose CXLp_PERST_L is low, stays ABSENT (R438). -/
def State.cxlLinkUp (s : State) (q capacity gts lanes : Nat) (prsnt : Bool) : State :=
  let s := s.modPort q fun c => { c with prsntHigh := prsnt }
  if 8 ≤ q || (s.port q).state != .absent || prsnt || (s.port q).failed || !s.cxlPerst q || capacity < 0x10000000 ||
      !(gts == 64 || gts == 32) || !(lanes == 8 || lanes == 4 || lanes == 2) then s
  else
    (s.modPort q fun c =>
      { c.absent with state := .present, medium := c.epoch + 1, mapped := mappedOf capacity, gts := gts, lanes := lanes
                      linkUp := true }).raise 9 q

/-- A port in ONLINE or DETACHING, whose accesses are served (R208). -/
def CxlPort.serves (c : CxlPort) : Bool := c.state == .online || c.state == .detaching

/-- CXL_LINK_DOWN: accesses wait from now on; a port whose loss the host has acknowledged returns to ABSENT (R208). -/
def State.cxlLinkDown (s : State) (q : Nat) : State :=
  s.modPort q fun c =>
    if c.serves && c.linkUp then { c with linkUp := false, downSince := some s.time }
    else if c.state == .lost then ({ c with linkUp := false } : CxlPort).leaveLost
    else c

/-- CXL_LINK_RETRAIN_RECOVERY: a link that has been down for less than 10 ms recovers. That of a port in LOST may train
again, which takes the port out of no state (R208, R213). -/
def State.cxlRecover (s : State) (q : Nat) : State :=
  s.modPort q fun c =>
    if c.state == .lost && !c.failed then { c with linkUp := true } else
    match c.downSince with
    | some d => if c.serves && !c.failed && s.time < d + 10000000 then { c with linkUp := true, downSince := none } else c
    | none => c

/-- The dirty lines of port `q`'s range in its home cache, by line number. -/
def State.dirtyPortLines (s : State) (q : Nat) : List Nat :=
  ((s.basin q).cache.lines.filter fun l => l.2.dirty && l.2.ofPort q).map (·.2.line)

/-- The four 64-byte units of each line, as unit numbers of the port's range, ascending. -/
def lineUnits (q : Nat) (lines : List Nat) : List Nat :=
  lines.foldl (fun acc l => insertAll acc ((List.range 4).map fun i => (l * 256 - cxlBase q) / 64 + i)) []

/-- The port enters LOST: dirty lines are dropped, counted and poisoned, CXL_LOST is raised, no partition holds it any
longer (R209), and a detach that waited fails (R324). -/
def State.cxlLost (s : State) (q : Nat) : State :=
  let dirty := s.dirtyPortLines q
  let holder := s.holderOf q
  let s := s.modBasin q fun x => { x with cache := { x.cache with lines := x.cache.lines.filter fun l => !l.2.ofPort q } }
  let s := s.bump 6 q 1 dirty.length
  let s := s.modPort q fun c =>
    { c with state := .lost, linkUp := false, downSince := none, poison := insertAll c.poison (lineUnits q dirty)
             lastHolder := holder, acked := false }
  let s := s.raise 10 q
  let s : State := { s with partitions := s.partitions.map fun (p : Partition) => { p with ports := p.ports &&& ~~~(1#8 <<< q) } }
  s.failOpens fun k => k == .cxlDetach q

/-- CXL_LINK_LOSS: the link has been down for 10 ms. -/
def State.cxlLoss (s : State) (q : Nat) : State :=
  match (s.port q).downSince with
  | some d => if q < 8 && (s.port q).serves && d + 10000000 ≤ s.time then s.cxlLost q else s
  | none => s

/-- CXL_UNPLUG of a PRESENT port. -/
def State.cxlUnplug (s : State) (q : Nat) : State :=
  s.modPort q fun c =>
    if c.state == .present then { c.absent with prsntHigh := true } else c

/-- CXL_READ_COMPLETION: a read whose data the device marks poisoned is delivered poisoned, and its 64-byte unit reads so
until it is written (R221, R225). -/
def State.cxlReadDone (s : State) (q a : Nat) (poison : Bool) : State :=
  match placeOf a with
  | .cxl p o =>
    if p = q && (s.port q).serves && o < (s.port q).mapped && poison && !s.cached a then
      ((s.markStored a 64 true).bump 6 q 0).raise 8 (0x20 + q)
    else s
  | _ => s

/-! ### Stacks (R197, R202 to R204) -/

/-- Number of 64-byte units of a stack. -/
def stackUnits : Nat := 0x1400000000 / 64

/-- The device address of unit `n` of stack `i`: the inverse of R197. -/
def stackUnitAddr (i n : Nat) : Nat :=
  let a := n * 64
  windowBase (i / 3) + (3 * (a / 4096) + i % 3) * 4096 + a % 4096

/-- PATROL_SCRUB: one unit of stack `i` is read, with `symbols` in error, the first at pin `position` (Table 9.3). -/
def State.patrol (s : State) (i symbols position : Nat) : State :=
  let b := i / 3
  let x := s.basin b
  if 24 ≤ i || x.state == .service || x.state == .retired || x.wiping then s
  else
    let n := (s.hbm.getD i {}).patrol
    let a := stackUnitAddr i n
    let s := s.modStack i fun y => { y with patrol := (n + 1) % stackUnits }
    (s.stackRead a symbols position).checkWear i

/-- STACK_RECALIBRATION: in line, every 128 ms in ACTIVE and DRAINING; one that cannot restore the margins is a stack
fault (R204, R205). -/
def State.recalibrate (s : State) (i : Nat) (restored : Bool) : State :=
  let b := i / 3
  let st := (s.basin b).state
  if 24 ≤ i || (st != .active && st != .draining) || s.time < (s.hbm.getD i {}).lastRecal + 128000000 then s
  else
    let s := s.modStack i fun y => { y with lastRecal := s.time }
    if restored then s else s.basinFault b

/-! ### Commands -/

/-- CXL_LINK_UP (R207, R208). -/
def execCxlLinkUp (t port capacity gts lanes : Nat) (prsnt : Bool) (s : State) : Host.Outcome State Fault Refusal :=
  s.runAlive t fun u => u.cxlLinkUp port capacity gts lanes prsnt
/-- CXL_LINK_DOWN (R213). -/
def execCxlLinkDown (t port : Nat) (s : State) : Host.Outcome State Fault Refusal := s.runAlive t fun u => u.cxlLinkDown port
/-- CXL_LINK_LOSS (R213). -/
def execCxlLinkLoss (t port : Nat) (s : State) : Host.Outcome State Fault Refusal := s.runAlive t fun u => u.cxlLoss port
/-- CXL_LINK_RETRAIN_RECOVERY (R213). -/
def execCxlLinkRetrainRecovery (t port : Nat) (s : State) : Host.Outcome State Fault Refusal :=
  s.runAlive t fun u => u.cxlRecover port
/-- CXL_UNPLUG (R212). -/
def execCxlUnplug (t port : Nat) (s : State) : Host.Outcome State Fault Refusal := s.runAlive t fun u => u.cxlUnplug port
/-- CXL_READ_COMPLETION (R221). -/
def execCxlReadCompletion (t port addr : Nat) (poison : Bool) (s : State) : Host.Outcome State Fault Refusal :=
  s.runAlive t fun u => u.cxlReadDone port addr poison
/-- PATROL_SCRUB (R203). -/
def execPatrolScrub (t stack symbols position : Nat) (s : State) : Host.Outcome State Fault Refusal :=
  s.runAlive t fun u => u.patrol stack symbols position
/-- STACK_RECALIBRATION (R204). -/
def execStackRecalibration (t stack : Nat) (restored : Bool) (s : State) : Host.Outcome State Fault Refusal :=
  s.runAlive t fun u => u.recalibrate stack restored
/-- STACK_WIPE_COMPLETE (R407). -/
def execStackWipeComplete (t b : Nat) (s : State) : Host.Outcome State Fault Refusal :=
  s.runAlive t fun u => u.modBasin b fun x => { x with wiping := false }

end Sys2Proof.Machine
end

