-- ==== Sys2Proof/Machine/Dispatch.lean ====
section
/-! DEFINITION. Which meaning each command has: one arm per constructor of `Instr`. -/

namespace Sys2Proof.Machine

/-- The effect of a command on everything but the queue. -/
def exec (i : Instr) (s : State) : Host.Outcome State Fault Refusal :=
  match i with
  | .doorbell t fn mb tail => Sys2Proof.Machine.execDoorbell t fn mb tail s
  | .overrunClear t fn mb value => Sys2Proof.Machine.execOverrunClear t fn mb value s
  | .eventHeadWrite t fn mb value => Sys2Proof.Machine.execEventHeadWrite t fn mb value s
  | .alertRegisterWrite t fn a value => Sys2Proof.Machine.execAlertRegisterWrite t fn a value s
  | .registerWrite t fn off bytes => Sys2Proof.Machine.execRegisterWrite t fn off bytes s
  | .unsupportedAccess t fn off size isWrite => Sys2Proof.Machine.execUnsupportedAccess t fn off size isWrite s
  | .undefinedOpcode t fn mb => Sys2Proof.Machine.execUndefinedOpcode t fn mb s
  | .deviceQuery t fn mb => Sys2Proof.Machine.execDeviceQuery t fn mb s
  | .holdRelease t fn mb => Sys2Proof.Machine.execHoldRelease t fn mb s
  | .operatingPointSet t fn mb => Sys2Proof.Machine.execOperatingPointSet t fn mb s
  | .pointSettled t => Sys2Proof.Machine.execPointSettled t s
  | .partitionOpen t fn mb => Sys2Proof.Machine.execPartitionOpen t fn mb s
  | .partitionClose t fn mb => Sys2Proof.Machine.execPartitionClose t fn mb s
  | .partitionCloseComplete t p => Sys2Proof.Machine.execPartitionCloseComplete t p s
  | .poolModeSet t fn mb => Sys2Proof.Machine.execPoolModeSet t fn mb s
  | .poolModeChangeComplete t b => Sys2Proof.Machine.execPoolModeChangeComplete t b s
  | .segmentSet t fn mb buf => Sys2Proof.Machine.execSegmentSet t fn mb buf s
  | .cxlPortAttach t fn mb => Sys2Proof.Machine.execCxlPortAttach t fn mb s
  | .cxlPortDetach t fn mb => Sys2Proof.Machine.execCxlPortDetach t fn mb s
  | .cxlDetachComplete t port => Sys2Proof.Machine.execCxlDetachComplete t port s
  | .programLoad t fn mb buf => Sys2Proof.Machine.execProgramLoad t fn mb buf s
  | .programLoadComplete t b k => Sys2Proof.Machine.execProgramLoadComplete t b k s
  | .tableLoad t fn mb buf => Sys2Proof.Machine.execTableLoad t fn mb buf s
  | .tableLoadComplete t slot => Sys2Proof.Machine.execTableLoadComplete t slot s
  | .taskStart t fn mb => Sys2Proof.Machine.execTaskStart t fn mb s
  | .taskStop t fn mb => Sys2Proof.Machine.execTaskStop t fn mb s
  | .clearingComplete t b k => Sys2Proof.Machine.execClearingComplete t b k s
  | .taskQuery t fn mb => Sys2Proof.Machine.execTaskQuery t fn mb s
  | .stillPlan t fn mb => Sys2Proof.Machine.execStillPlan t fn mb s
  | .stillWindowSet t fn mb => Sys2Proof.Machine.execStillWindowSet t fn mb s
  | .routeTableLoad t fn mb buf => Sys2Proof.Machine.execRouteTableLoad t fn mb buf s
  | .peerTableLoad t fn mb buf => Sys2Proof.Machine.execPeerTableLoad t fn mb buf s
  | .groupDefine t fn mb buf => Sys2Proof.Machine.execGroupDefine t fn mb buf s
  | .weirSet t fn mb => Sys2Proof.Machine.execWeirSet t fn mb s
  | .syncTreeDefine t fn mb => Sys2Proof.Machine.execSyncTreeDefine t fn mb s
  | .generationCancel t fn mb => Sys2Proof.Machine.execGenerationCancel t fn mb s
  | .portModeSet t fn mb => Sys2Proof.Machine.execPortModeSet t fn mb s
  | .portRetrain t fn mb => Sys2Proof.Machine.execPortRetrain t fn mb s
  | .reflectPair t fn mb => Sys2Proof.Machine.execReflectPair t fn mb s
  | .partnerConfirm t p accepted => Sys2Proof.Machine.execPartnerConfirm t p accepted s
  | .reflectIntervalSet t fn mb => Sys2Proof.Machine.execReflectIntervalSet t fn mb s
  | .soundingThresholdSet t fn mb => Sys2Proof.Machine.execSoundingThresholdSet t fn mb s
  | .failureNotice t fn mb => Sys2Proof.Machine.execFailureNotice t fn mb s
  | .restoreBegin t fn mb found => Sys2Proof.Machine.execRestoreBegin t fn mb found s
  | .replayVerify t fn mb => Sys2Proof.Machine.execReplayVerify t fn mb s
  | .attestReport t fn mb => Sys2Proof.Machine.execAttestReport t fn mb s
  | .attestReportComplete t outOk => Sys2Proof.Machine.execAttestReportComplete t outOk s
  | .keyAccept t fn mb buf => Sys2Proof.Machine.execKeyAccept t fn mb buf s
  | .weightsImport t fn mb => Sys2Proof.Machine.execWeightsImport t fn mb s
  | .debugUnlock t fn mb buf => Sys2Proof.Machine.execDebugUnlock t fn mb buf s
  | .telemetryRead t fn mb outOk => Sys2Proof.Machine.execTelemetryRead t fn mb outOk s
  | .counterRead t fn mb outOk => Sys2Proof.Machine.execCounterRead t fn mb outOk s
  | .basinDrain t fn mb => Sys2Proof.Machine.execBasinDrain t fn mb s
  | .drainComplete t b => Sys2Proof.Machine.execDrainComplete t b s
  | .drainCollectiveTimeout t b => Sys2Proof.Machine.execDrainCollectiveTimeout t b s
  | .basinService t fn mb => Sys2Proof.Machine.execBasinService t fn mb s
  | .basinReturn t fn mb => Sys2Proof.Machine.execBasinReturn t fn mb s
  | .basinRetire t fn mb => Sys2Proof.Machine.execBasinRetire t fn mb s
  | .calibrate t fn mb => Sys2Proof.Machine.execCalibrate t fn mb s
  | .calibrationComplete t b failedStacks => Sys2Proof.Machine.execCalibrationComplete t b failedStacks s
  | .firmwareStage t fn mb buf => Sys2Proof.Machine.execFirmwareStage t fn mb buf s
  | .firmwareStageComplete t => Sys2Proof.Machine.execFirmwareStageComplete t s
  | .firmwareSwitch t fn mb => Sys2Proof.Machine.execFirmwareSwitch t fn mb s
  | .handoverStart t => Sys2Proof.Machine.execHandoverStart t s
  | .handoverDeadline t => Sys2Proof.Machine.execHandoverDeadline t s
  | .handoverTimeout t => Sys2Proof.Machine.execHandoverTimeout t s
  | .stateRead t request => Sys2Proof.Machine.execStateRead t request s
  | .sensorRead t request => Sys2Proof.Machine.execSensorRead t request s
  | .alertRead t request => Sys2Proof.Machine.execAlertRead t request s
  | .stopArm t request => Sys2Proof.Machine.execStopArm t request s
  | .stopArmExpiry t => Sys2Proof.Machine.execStopArmExpiry t s
  | .stop t request => Sys2Proof.Machine.execStop t request s
  | .setEndpointId t eid => Sys2Proof.Machine.execSetEndpointId t eid s
  | .getEndpointId t => Sys2Proof.Machine.execGetEndpointId t s
  | .getMctpVersionSupport t => Sys2Proof.Machine.execGetMctpVersionSupport t s
  | .getMessageTypeSupport t => Sys2Proof.Machine.execGetMessageTypeSupport t s
  | .setdasa t addr => Sys2Proof.Machine.execSetdasa t addr s
  | .entdaa t addr => Sys2Proof.Machine.execEntdaa t addr s
  | .functionLevelReset t fn => Sys2Proof.Machine.execFunctionLevelReset t fn s
  | .unknownClassDescriptor t b k => Sys2Proof.Machine.execUnknownClassDescriptor t b k s
  | .merePassStage t b k lanesFree errs => Sys2Proof.Machine.execMerePassStage t b k lanesFree errs s
  | .merePassIssue t b ready lowered errs => Sys2Proof.Machine.execMerePassIssue t b ready lowered errs s
  | .merePassComplete t b => Sys2Proof.Machine.execMerePassComplete t b s
  | .spmm t b k errs => Sys2Proof.Machine.execSpmm t b k errs s
  | .gather t b k errs => Sys2Proof.Machine.execGather t b k errs s
  | .scatterAdd t b k errs => Sys2Proof.Machine.execScatterAdd t b k errs s
  | .merge t b k errs => Sys2Proof.Machine.execMerge t b k errs s
  | .tilePack t b k errs => Sys2Proof.Machine.execTilePack t b k errs s
  | .tileUnpack t b k errs => Sys2Proof.Machine.execTileUnpack t b k errs s
  | .tarnOperationComplete t b => Sys2Proof.Machine.execTarnOperationComplete t b s
  | .rank t b k errs => Sys2Proof.Machine.execRank t b k errs s
  | .place t b k errs => Sys2Proof.Machine.execPlace t b k errs s
  | .combine t b k errs => Sys2Proof.Machine.execCombine t b k errs s
  | .retire t b k errs => Sys2Proof.Machine.execRetire t b k errs s
  | .maskBuild t b k errs => Sys2Proof.Machine.execMaskBuild t b k errs s
  | .maskApply t b k errs => Sys2Proof.Machine.execMaskApply t b k errs s
  | .add t b k errs => Sys2Proof.Machine.execAdd t b k errs s
  | .mul t b k errs => Sys2Proof.Machine.execMul t b k errs s
  | .fma t b k errs => Sys2Proof.Machine.execFma t b k errs s
  | .axpy t b k errs => Sys2Proof.Machine.execAxpy t b k errs s
  | .scale t b k errs => Sys2Proof.Machine.execScale t b k errs s
  | .convert t b k errs => Sys2Proof.Machine.execConvert t b k errs s
  | .max2 t b k errs => Sys2Proof.Machine.execMax2 t b k errs s
  | .min2 t b k errs => Sys2Proof.Machine.execMin2 t b k errs s
  | .div t b k errs => Sys2Proof.Machine.execDiv t b k errs s
  | .sqrt t b k errs => Sys2Proof.Machine.execSqrt t b k errs s
  | .rsqrt t b k errs => Sys2Proof.Machine.execRsqrt t b k errs s
  | .sum t b k errs => Sys2Proof.Machine.execSum t b k errs s
  | .sumsq t b k errs => Sys2Proof.Machine.execSumsq t b k errs s
  | .max t b k errs => Sys2Proof.Machine.execMax t b k errs s
  | .min t b k errs => Sys2Proof.Machine.execMin t b k errs s
  | .argmax t b k errs => Sys2Proof.Machine.execArgmax t b k errs s
  | .meanVar t b k errs => Sys2Proof.Machine.execMeanVar t b k errs s
  | .meanVarMerge t b k errs => Sys2Proof.Machine.execMeanVarMerge t b k errs s
  | .vectorOperationComplete t b n => Sys2Proof.Machine.execVectorOperationComplete t b n s
  | .fn t b k errs => Sys2Proof.Machine.execFn t b k errs s
  | .fnSave t b k errs => Sys2Proof.Machine.execFnSave t b k errs s
  | .deriv t b k errs => Sys2Proof.Machine.execDeriv t b k errs s
  | .grad t b k errs => Sys2Proof.Machine.execGrad t b k errs s
  | .gradMask t b k errs => Sys2Proof.Machine.execGradMask t b k errs s
  | .dropout t b k errs => Sys2Proof.Machine.execDropout t b k errs s
  | .maxsel t b k errs => Sys2Proof.Machine.execMaxsel t b k errs s
  | .maxselGrad t b k errs => Sys2Proof.Machine.execMaxselGrad t b k errs s
  | .tableOperationComplete t b n => Sys2Proof.Machine.execTableOperationComplete t b n s
  | .copy t b k lowered errs => Sys2Proof.Machine.execCopy t b k lowered errs s
  | .zero t b k lowered errs => Sys2Proof.Machine.execZero t b k lowered errs s
  | .moveComplete t b => Sys2Proof.Machine.execMoveComplete t b s
  | .syncSetCell t b k => Sys2Proof.Machine.execSyncSetCell t b k s
  | .setRemote t b k => Sys2Proof.Machine.execSetRemote t b k s
  | .arm t b k => Sys2Proof.Machine.execArm t b k s
  | .wait t b k => Sys2Proof.Machine.execWait t b k s
  | .barrier t b k => Sys2Proof.Machine.execBarrier t b k s
  | .pair t b k => Sys2Proof.Machine.execPair t b k s
  | .waitStep t b k => Sys2Proof.Machine.execWaitStep t b k s
  | .layerMark t b k => Sys2Proof.Machine.execLayerMark t b k s
  | .skippedDescriptor t b k => Sys2Proof.Machine.execSkippedDescriptor t b k s
  | .taskRunEnd t b k => Sys2Proof.Machine.execTaskRunEnd t b k s
  | .taskFinish t b k => Sys2Proof.Machine.execTaskFinish t b k s
  | .reduceScatter t b k errs => Sys2Proof.Machine.execReduceScatter t b k errs s
  | .allGather t b k errs => Sys2Proof.Machine.execAllGather t b k errs s
  | .norm t b k errs => Sys2Proof.Machine.execNorm t b k errs s
  | .reshard t b k errs => Sys2Proof.Machine.execReshard t b k errs s
  | .dispatch t b k errs => Sys2Proof.Machine.execDispatch t b k errs s
  | .collReturn t b k errs => Sys2Proof.Machine.execCollReturn t b k errs s
  | .join t => Sys2Proof.Machine.execJoin t s
  | .collStart t => Sys2Proof.Machine.execCollStart t s
  | .excluded t joined late adopter => Sys2Proof.Machine.execExcluded t joined late adopter s
  | .collDone t => Sys2Proof.Machine.execCollDone t s
  | .collEnd t => Sys2Proof.Machine.execCollEnd t s
  | .collBreak t => Sys2Proof.Machine.execCollBreak t s
  | .weirClose t p gid seq => Sys2Proof.Machine.execWeirClose t p gid seq s
  | .rsBlocks t => Sys2Proof.Machine.execRsBlocks t s
  | .scaleEcho t => Sys2Proof.Machine.execScaleEcho t s
  | .normValue t => Sys2Proof.Machine.execNormValue t s
  | .shardData t => Sys2Proof.Machine.execShardData t s
  | .dispatchRow t => Sys2Proof.Machine.execDispatchRow t s
  | .returnRow t => Sys2Proof.Machine.execReturnRow t s
  | .syncSet t => Sys2Proof.Machine.execSyncSet t s
  | .arrive t => Sys2Proof.Machine.execArrive t s
  | .release t => Sys2Proof.Machine.execRelease t s
  | .pairArrive t => Sys2Proof.Machine.execPairArrive t s
  | .still t => Sys2Proof.Machine.execStill t s
  | .stillSyncInPulse t => Sys2Proof.Machine.execStillSyncInPulse t s
  | .plannedStill t p => Sys2Proof.Machine.execPlannedStill t p s
  | .stillWindowEnd t p => Sys2Proof.Machine.execStillWindowEnd t p s
  | .stillResume t p => Sys2Proof.Machine.execStillResume t p s
  | .dataFrame t sp raw fec => Sys2Proof.Machine.execDataFrame t sp raw fec s
  | .dataFrameNak t sp raw fec => Sys2Proof.Machine.execDataFrameNak t sp raw fec s
  | .controlFrame t sp raw fec => Sys2Proof.Machine.execControlFrame t sp raw fec s
  | .idleFrame t sp raw fec => Sys2Proof.Machine.execIdleFrame t sp raw fec s
  | .frameSend t sp => Sys2Proof.Machine.execFrameSend t sp s
  | .controlFrameSend t sp => Sys2Proof.Machine.execControlFrameSend t sp s
  | .messageForward t src => Sys2Proof.Machine.execMessageForward t src s
  | .routeWaitExpiry t => Sys2Proof.Machine.execRouteWaitExpiry t s
  | .undefinedTypeMessage t => Sys2Proof.Machine.execUndefinedTypeMessage t s
  | .returnMessage t => Sys2Proof.Machine.execReturnMessage t s
  | .returnSend t ctx => Sys2Proof.Machine.execReturnSend t ctx s
  | .probe t => Sys2Proof.Machine.execProbe t s
  | .resendTimeout t ctx cls => Sys2Proof.Machine.execResendTimeout t ctx cls s
  | .probeTimeout t ctx => Sys2Proof.Machine.execProbeTimeout t ctx s
  | .lossOfLock t sp => Sys2Proof.Machine.execLossOfLock t sp s
  | .trainingComplete t sp failedLanes => Sys2Proof.Machine.execTrainingComplete t sp failedLanes s
  | .trainingAttemptFailed t sp => Sys2Proof.Machine.execTrainingAttemptFailed t sp s
  | .cxlLinkUp t port capacity gts lanes prsnt => Sys2Proof.Machine.execCxlLinkUp t port capacity gts lanes prsnt s
  | .cxlLinkDown t port => Sys2Proof.Machine.execCxlLinkDown t port s
  | .cxlLinkLoss t port => Sys2Proof.Machine.execCxlLinkLoss t port s
  | .cxlUnplug t port => Sys2Proof.Machine.execCxlUnplug t port s
  | .cxlReadCompletion t port addr poison => Sys2Proof.Machine.execCxlReadCompletion t port addr poison s
  | .imageBegin t => Sys2Proof.Machine.execImageBegin t s
  | .imagePage t => Sys2Proof.Machine.execImagePage t s
  | .imageCommit t => Sys2Proof.Machine.execImageCommit t s
  | .captureCommit t p checkpoint => Sys2Proof.Machine.execCaptureCommit t p checkpoint s
  | .feedQuery t => Sys2Proof.Machine.execFeedQuery t s
  | .sag t => Sys2Proof.Machine.execSag t s
  | .restoreAsk t => Sys2Proof.Machine.execRestoreAsk t s
  | .restorePage t => Sys2Proof.Machine.execRestorePage t s
  | .weightData t => Sys2Proof.Machine.execWeightData t s
  | .soundingUpdate t => Sys2Proof.Machine.execSoundingUpdate t s
  | .monitorWindow t readings voltageOk => Sys2Proof.Machine.execMonitorWindow t readings voltageOk s
  | .p3Trim t millivolts => Sys2Proof.Machine.execP3Trim t millivolts s
  | .coolantInletHigh t tenths => Sys2Proof.Machine.execCoolantInletHigh t tenths s
  | .junctionOverLimit t b celsius => Sys2Proof.Machine.execJunctionOverLimit t b celsius s
  | .thermalTrip t b celsius => Sys2Proof.Machine.execThermalTrip t b celsius s
  | .regulatorAlarm t => Sys2Proof.Machine.execRegulatorAlarm t s
  | .supplyWarning t centivolts => Sys2Proof.Machine.execSupplyWarning t centivolts s
  | .counterPoll t scope idx pos => Sys2Proof.Machine.execCounterPoll t scope idx pos s
  | .patrolScrub t stack symbols position => Sys2Proof.Machine.execPatrolScrub t stack symbols position s
  | .stackRecalibration t stack restored => Sys2Proof.Machine.execStackRecalibration t stack restored s
  | .basinFault t b => Sys2Proof.Machine.execBasinFault t b s
  | .oscillatorLoss t => Sys2Proof.Machine.execOscillatorLoss t s
  | .powerOn t => Sys2Proof.Machine.execPowerOn t s
  | .perstLRelease t feed hold => Sys2Proof.Machine.execPerstLRelease t feed hold s
  | .perstLAssert t => Sys2Proof.Machine.execPerstLAssert t s
  | .bootComplete t boot => Sys2Proof.Machine.execBootComplete t boot s
  | .undervoltageLockout t => Sys2Proof.Machine.execUndervoltageLockout t s
  | .overvoltageCut t => Sys2Proof.Machine.execOvervoltageCut t s
  | .powerOff t => Sys2Proof.Machine.execPowerOff t s
  | .railOutOfRegulation t => Sys2Proof.Machine.execRailOutOfRegulation t s
  | .sharedBlockFault t block => Sys2Proof.Machine.execSharedBlockFault t block s
  | .cxlLinkRetrainRecovery t port => Sys2Proof.Machine.execCxlLinkRetrainRecovery t port s
  | .stackWipeComplete t b => Sys2Proof.Machine.execStackWipeComplete t b s
  | .testAccessPortClock t tms tdi => Sys2Proof.Machine.execTestAccessPortClock t tms tdi s
  | .configurationRequest t fn reg write => Sys2Proof.Machine.execConfigurationRequest t fn reg write s

end Sys2Proof.Machine
end

