-- ==== Sys2Proof/WellFormed.lean ====
section
/-! DEFINITION. Which commands are well formed: every operand within the range of the unit, register or reading that it
names (spec 00 R9; 08 R197; 11 R229, R244; 14 R305 to R309, R325, R329; 18 R416). -/

namespace Sys2Proof

/-- Device time: 64 bits of nanoseconds (R43). -/
def okTime (t : Nat) : Bool := t < 2 ^ 64
/-- Functions 0 to 8 (R305). -/
def okFn (f : Nat) : Bool := f < 9
/-- Mailboxes 0 to 3 of a function (R309). -/
def okMailbox (m : Nat) : Bool := m < 4
/-- Basins 0 to 7 (R9). -/
def okBasin (b : Nat) : Bool := b < 8
/-- Task slots 0 to 15 of a basin (R9). -/
def okSlot (k : Nat) : Bool := k < 16
/-- Partitions 0 to 7 (R9). -/
def okPartition (p : Nat) : Bool := p < 8
/-- CXL ports 0 to 7 (R9). -/
def okCxlPort (p : Nat) : Bool := p < 8
/-- Sub-ports 0 to 47 (R229). -/
def okSubPort (i : Nat) : Bool := i < 48
/-- Peer contexts 0 to 16,383 (R244). -/
def okContext (i : Nat) : Bool := i < 16384
/-- Traffic classes 0 to 3. -/
def okClass (c : Nat) : Bool := c < 4
/-- Table slots 0 to 7 of a basin (R114). -/
def okTable (n : Nat) : Bool := n < 8
/-- Stacks 0 to 23 of the device (R9). -/
def okStack (i : Nat) : Bool := i < 24
/-- Alerts 0 to 16 (R327). -/
def okAlert (a : Nat) : Bool := a < 17
/-- An 8-bit value. -/
def okByte (n : Nat) : Bool := n < 2 ^ 8
/-- A 16-bit value. -/
def okHalf (n : Nat) : Bool := n < 2 ^ 16
/-- A 32-bit value. -/
def okWord (n : Nat) : Bool := n < 2 ^ 32
/-- A device address: 48 bits (spec 08). -/
def okAddress (a : Nat) : Bool := a < 2 ^ 48
/-- An offset in BAR0. -/
def okOffset (n : Nat) : Bool := n < 2 ^ 32
/-- Symbols of one 64-byte unit read in error, of its 36 (R201, Table 9.3). -/
def okSymbols (n : Nat) : Bool := n ≤ 36
/-- The pin that carries a symbol: 32 data and 4 check symbols (R201). -/
def okPin (n : Nat) : Bool := n < 36
/-- Link rates of a CXL port in GT/s (Table 9.4). -/
def okRate (n : Nat) : Bool := n == 64 || n == 32
/-- Link widths of a CXL port (Table 9.4). -/
def okLanes (n : Nat) : Bool := n == 8 || n == 4 || n == 2
/-- A dynamic address: 7 bits (R329). -/
def okDynamic (a : Nat) : Bool := a < 128
/-- FEED_ID: 6 straps (R416). -/
def okFeed (n : Nat) : Bool := n < 64
/-- The outcome of a check names a device address. -/
def okErr (e : CheckErr) : Bool :=
  match e with
  | .xfer a _ => okAddress a
  | .tile n _ => okWord n
  | .poolCorrected a => okAddress a
  | .poolUncorrectable a => okAddress a
  | .stackSymbols a n pos => okAddress a && okSymbols n && okPin pos
  | .chunkIn a _ => okAddress a
  | .cxlPoisoned a => okAddress a
/-- Every outcome of an operation. -/
def okErrs (es : List CheckErr) : Bool := es.all okErr
/-- A host buffer is at most 2 GiB (Table 15.1). -/
def okBuf (b : HostBuf) : Bool := b.all fun x => x.length ≤ 2 ^ 31
/-- The data bits of a frame, in 642 bytes and its pad (R231). -/
def okFrame (r : Bytes) : Bool := r.length == 643
/-- A register access is at most 64 bytes (R307). -/
def okAccess (b : Bytes) : Bool := b.length ≤ 64
/-- Stacks that failed training. -/
def okStacks (l : List Nat) : Bool := l.all okStack
/-- Lanes of a sub-port that failed. -/
def okFailedLanes (l : List Nat) : Bool := l.all (· < 8)
/-- The source of a forwarded message: VC 0 or 1 of a class of a sub-port. -/
def okSource (s : MsgSource) : Bool :=
  match s with
  | .localPort => true
  | .port sp cls vc => okSubPort sp && okClass cls && vc < 2
/-- One reading for each basin (R40). -/
def okReadings (l : List MonitorReading) : Bool := l.length == 8
/-- A register of configuration space: 1,024 DWORDs. -/
def okRegister (n : Nat) : Bool := n < 1024
/-- A value written to it. -/
def okWrite (v : Option Nat) : Bool := v.all okWord
/-- A management message: the command byte is the row's own, or one that Table 14.14 does not give (R330). -/
def okRequest (code : Nat) (r : Bytes) : Bool :=
  match r with
  | [] => false
  | c :: _ => c.toNat == code || c.toNat == 0 || 5 < c.toNat
/-- How boot ended. -/
def okBoot (b : BootResult) : Bool := okStacks b.failedStacks
/-- The unit that a shared block names exists. -/
def okBlock (x : SharedBlock) : Bool :=
  match x with
  | .folhamPort p => p < 12
  | .cxlPort p => okCxlPort p
  | .activeWellhead => true
  | .routerCore => true
  | .hostEndpoint => true
  | .moduleStore => true
  | .securityBlock => true
  | .monitor b => okBasin b
/-- A holder's answer: 64 bytes of the record, and the device area. -/
def okAnswer (a : Option RestoreAnswer) : Bool := a.all fun x => x.record.length == 64

/-- Every operand of a command is in its range. -/
def Instr.wf : Instr → Bool
  | .doorbell t f m tail => okTime t && okFn f && okMailbox m && okHalf tail
  | .overrunClear t f m value => okTime t && okFn f && okMailbox m && okWord value
  | .eventHeadWrite t f m value => okTime t && okFn f && okMailbox m && okHalf value
  | .alertRegisterWrite t f a value => okTime t && okFn f && okAlert a && okWord value
  | .registerWrite t f off bytes => okTime t && okFn f && okOffset off && okAccess bytes
  | .unsupportedAccess t f off size _ => okTime t && okFn f && okOffset off && okHalf size
  | .undefinedOpcode t f m => okTime t && okFn f && okMailbox m
  | .deviceQuery t f m => okTime t && okFn f && okMailbox m
  | .holdRelease t f m => okTime t && okFn f && okMailbox m
  | .operatingPointSet t f m => okTime t && okFn f && okMailbox m
  | .pointSettled t => okTime t
  | .partitionOpen t f m => okTime t && okFn f && okMailbox m
  | .partitionClose t f m => okTime t && okFn f && okMailbox m
  | .partitionCloseComplete t p => okTime t && okPartition p
  | .poolModeSet t f m => okTime t && okFn f && okMailbox m
  | .poolModeChangeComplete t b => okTime t && okBasin b
  | .segmentSet t f m buf => okTime t && okFn f && okMailbox m && okBuf buf
  | .cxlPortAttach t f m => okTime t && okFn f && okMailbox m
  | .cxlPortDetach t f m => okTime t && okFn f && okMailbox m
  | .cxlDetachComplete t port => okTime t && okCxlPort port
  | .programLoad t f m buf => okTime t && okFn f && okMailbox m && okBuf buf
  | .programLoadComplete t b k => okTime t && okBasin b && okSlot k
  | .tableLoad t f m buf => okTime t && okFn f && okMailbox m && okBuf buf
  | .tableLoadComplete t slot => okTime t && okTable slot
  | .taskStart t f m => okTime t && okFn f && okMailbox m
  | .taskStop t f m => okTime t && okFn f && okMailbox m
  | .clearingComplete t b k => okTime t && okBasin b && okSlot k
  | .taskQuery t f m => okTime t && okFn f && okMailbox m
  | .stillPlan t f m => okTime t && okFn f && okMailbox m
  | .stillWindowSet t f m => okTime t && okFn f && okMailbox m
  | .routeTableLoad t f m buf => okTime t && okFn f && okMailbox m && okBuf buf
  | .peerTableLoad t f m buf => okTime t && okFn f && okMailbox m && okBuf buf
  | .groupDefine t f m buf => okTime t && okFn f && okMailbox m && okBuf buf
  | .weirSet t f m => okTime t && okFn f && okMailbox m
  | .syncTreeDefine t f m => okTime t && okFn f && okMailbox m
  | .generationCancel t f m => okTime t && okFn f && okMailbox m
  | .portModeSet t f m => okTime t && okFn f && okMailbox m
  | .portRetrain t f m => okTime t && okFn f && okMailbox m
  | .reflectPair t f m => okTime t && okFn f && okMailbox m
  | .partnerConfirm t p _ => okTime t && okPartition p
  | .reflectIntervalSet t f m => okTime t && okFn f && okMailbox m
  | .soundingThresholdSet t f m => okTime t && okFn f && okMailbox m
  | .failureNotice t f m => okTime t && okFn f && okMailbox m
  | .restoreBegin t f m found => okTime t && okFn f && okMailbox m && okAnswer found
  | .replayVerify t f m => okTime t && okFn f && okMailbox m
  | .attestReport t f m => okTime t && okFn f && okMailbox m
  | .attestReportComplete t _ => okTime t
  | .keyAccept t f m buf => okTime t && okFn f && okMailbox m && okBuf buf
  | .weightsImport t f m => okTime t && okFn f && okMailbox m
  | .debugUnlock t f m buf => okTime t && okFn f && okMailbox m && okBuf buf
  | .telemetryRead t f m _ => okTime t && okFn f && okMailbox m
  | .counterRead t f m _ => okTime t && okFn f && okMailbox m
  | .basinDrain t f m => okTime t && okFn f && okMailbox m
  | .drainComplete t b => okTime t && okBasin b
  | .drainCollectiveTimeout t b => okTime t && okBasin b
  | .basinService t f m => okTime t && okFn f && okMailbox m
  | .basinReturn t f m => okTime t && okFn f && okMailbox m
  | .basinRetire t f m => okTime t && okFn f && okMailbox m
  | .calibrate t f m => okTime t && okFn f && okMailbox m
  | .calibrationComplete t b failedStacks => okTime t && okBasin b && okStacks failedStacks
  | .firmwareStage t f m buf => okTime t && okFn f && okMailbox m && okBuf buf
  | .firmwareStageComplete t => okTime t
  | .firmwareSwitch t f m => okTime t && okFn f && okMailbox m
  | .handoverStart t => okTime t
  | .handoverDeadline t => okTime t
  | .handoverTimeout t => okTime t
  | .stateRead t request => okTime t && okRequest 1 request
  | .sensorRead t request => okTime t && okRequest 2 request
  | .alertRead t request => okTime t && okRequest 3 request
  | .stopArm t request => okTime t && okRequest 4 request
  | .stopArmExpiry t => okTime t
  | .stop t request => okTime t && okRequest 5 request
  | .setEndpointId t eid => okTime t && okByte eid
  | .getEndpointId t => okTime t
  | .getMctpVersionSupport t => okTime t
  | .getMessageTypeSupport t => okTime t
  | .setdasa t addr => okTime t && okDynamic addr
  | .entdaa t addr => okTime t && okDynamic addr
  | .functionLevelReset t f => okTime t && okFn f
  | .unknownClassDescriptor t b k => okTime t && okBasin b && okSlot k
  | .merePassStage t b k _ errs => okTime t && okBasin b && okSlot k && okErrs errs
  | .merePassIssue t b _ _ errs => okTime t && okBasin b && okErrs errs
  | .merePassComplete t b => okTime t && okBasin b
  | .spmm t b k errs => okTime t && okBasin b && okSlot k && okErrs errs
  | .gather t b k errs => okTime t && okBasin b && okSlot k && okErrs errs
  | .scatterAdd t b k errs => okTime t && okBasin b && okSlot k && okErrs errs
  | .merge t b k errs => okTime t && okBasin b && okSlot k && okErrs errs
  | .tilePack t b k errs => okTime t && okBasin b && okSlot k && okErrs errs
  | .tileUnpack t b k errs => okTime t && okBasin b && okSlot k && okErrs errs
  | .tarnOperationComplete t b => okTime t && okBasin b
  | .rank t b k errs => okTime t && okBasin b && okSlot k && okErrs errs
  | .place t b k errs => okTime t && okBasin b && okSlot k && okErrs errs
  | .combine t b k errs => okTime t && okBasin b && okSlot k && okErrs errs
  | .retire t b k errs => okTime t && okBasin b && okSlot k && okErrs errs
  | .maskBuild t b k errs => okTime t && okBasin b && okSlot k && okErrs errs
  | .maskApply t b k errs => okTime t && okBasin b && okSlot k && okErrs errs
  | .add t b k errs => okTime t && okBasin b && okSlot k && okErrs errs
  | .mul t b k errs => okTime t && okBasin b && okSlot k && okErrs errs
  | .fma t b k errs => okTime t && okBasin b && okSlot k && okErrs errs
  | .axpy t b k errs => okTime t && okBasin b && okSlot k && okErrs errs
  | .scale t b k errs => okTime t && okBasin b && okSlot k && okErrs errs
  | .convert t b k errs => okTime t && okBasin b && okSlot k && okErrs errs
  | .max2 t b k errs => okTime t && okBasin b && okSlot k && okErrs errs
  | .min2 t b k errs => okTime t && okBasin b && okSlot k && okErrs errs
  | .div t b k errs => okTime t && okBasin b && okSlot k && okErrs errs
  | .sqrt t b k errs => okTime t && okBasin b && okSlot k && okErrs errs
  | .rsqrt t b k errs => okTime t && okBasin b && okSlot k && okErrs errs
  | .sum t b k errs => okTime t && okBasin b && okSlot k && okErrs errs
  | .sumsq t b k errs => okTime t && okBasin b && okSlot k && okErrs errs
  | .max t b k errs => okTime t && okBasin b && okSlot k && okErrs errs
  | .min t b k errs => okTime t && okBasin b && okSlot k && okErrs errs
  | .argmax t b k errs => okTime t && okBasin b && okSlot k && okErrs errs
  | .meanVar t b k errs => okTime t && okBasin b && okSlot k && okErrs errs
  | .meanVarMerge t b k errs => okTime t && okBasin b && okSlot k && okErrs errs
  | .vectorOperationComplete t b n => okTime t && okBasin b && okHalf n
  | .fn t b k errs => okTime t && okBasin b && okSlot k && okErrs errs
  | .fnSave t b k errs => okTime t && okBasin b && okSlot k && okErrs errs
  | .deriv t b k errs => okTime t && okBasin b && okSlot k && okErrs errs
  | .grad t b k errs => okTime t && okBasin b && okSlot k && okErrs errs
  | .gradMask t b k errs => okTime t && okBasin b && okSlot k && okErrs errs
  | .dropout t b k errs => okTime t && okBasin b && okSlot k && okErrs errs
  | .maxsel t b k errs => okTime t && okBasin b && okSlot k && okErrs errs
  | .maxselGrad t b k errs => okTime t && okBasin b && okSlot k && okErrs errs
  | .tableOperationComplete t b n => okTime t && okBasin b && okHalf n
  | .copy t b k _ errs => okTime t && okBasin b && okSlot k && okErrs errs
  | .zero t b k _ errs => okTime t && okBasin b && okSlot k && okErrs errs
  | .moveComplete t b => okTime t && okBasin b
  | .syncSetCell t b k => okTime t && okBasin b && okSlot k
  | .setRemote t b k => okTime t && okBasin b && okSlot k
  | .arm t b k => okTime t && okBasin b && okSlot k
  | .wait t b k => okTime t && okBasin b && okSlot k
  | .barrier t b k => okTime t && okBasin b && okSlot k
  | .pair t b k => okTime t && okBasin b && okSlot k
  | .waitStep t b k => okTime t && okBasin b && okSlot k
  | .layerMark t b k => okTime t && okBasin b && okSlot k
  | .skippedDescriptor t b k => okTime t && okBasin b && okSlot k
  | .taskRunEnd t b k => okTime t && okBasin b && okSlot k
  | .taskFinish t b k => okTime t && okBasin b && okSlot k
  | .reduceScatter t b k errs => okTime t && okBasin b && okSlot k && okErrs errs
  | .allGather t b k errs => okTime t && okBasin b && okSlot k && okErrs errs
  | .norm t b k errs => okTime t && okBasin b && okSlot k && okErrs errs
  | .reshard t b k errs => okTime t && okBasin b && okSlot k && okErrs errs
  | .dispatch t b k errs => okTime t && okBasin b && okSlot k && okErrs errs
  | .collReturn t b k errs => okTime t && okBasin b && okSlot k && okErrs errs
  | .join t => okTime t
  | .collStart t => okTime t
  | .excluded t joined late adopter => okTime t && okHalf joined && okHalf late && okHalf adopter
  | .collDone t => okTime t
  | .collEnd t => okTime t
  | .collBreak t => okTime t
  | .weirClose t p gid seq => okTime t && okPartition p && okByte gid && okHalf seq
  | .rsBlocks t => okTime t
  | .scaleEcho t => okTime t
  | .normValue t => okTime t
  | .shardData t => okTime t
  | .dispatchRow t => okTime t
  | .returnRow t => okTime t
  | .syncSet t => okTime t
  | .arrive t => okTime t
  | .release t => okTime t
  | .pairArrive t => okTime t
  | .still t => okTime t
  | .stillSyncInPulse t => okTime t
  | .plannedStill t p => okTime t && okPartition p
  | .stillWindowEnd t p => okTime t && okPartition p
  | .stillResume t p => okTime t && okPartition p
  | .dataFrame t sp raw _ => okTime t && okSubPort sp && okFrame raw
  | .dataFrameNak t sp raw _ => okTime t && okSubPort sp && okFrame raw
  | .controlFrame t sp raw _ => okTime t && okSubPort sp && okFrame raw
  | .idleFrame t sp raw _ => okTime t && okSubPort sp && okFrame raw
  | .frameSend t sp => okTime t && okSubPort sp
  | .controlFrameSend t sp => okTime t && okSubPort sp
  | .messageForward t src => okTime t && okSource src
  | .routeWaitExpiry t => okTime t
  | .undefinedTypeMessage t => okTime t
  | .returnMessage t => okTime t
  | .returnSend t ctx => okTime t && okContext ctx
  | .probe t => okTime t
  | .resendTimeout t ctx cls => okTime t && okContext ctx && okClass cls
  | .probeTimeout t ctx => okTime t && okContext ctx
  | .lossOfLock t sp => okTime t && okSubPort sp
  | .trainingComplete t sp failedLanes => okTime t && okSubPort sp && okFailedLanes failedLanes
  | .trainingAttemptFailed t sp => okTime t && okSubPort sp
  | .cxlLinkUp t port capacity gts lanes _ => okTime t && okCxlPort port && okAddress capacity && okRate gts && okLanes lanes
  | .cxlLinkDown t port => okTime t && okCxlPort port
  | .cxlLinkLoss t port => okTime t && okCxlPort port
  | .cxlUnplug t port => okTime t && okCxlPort port
  | .cxlReadCompletion t port addr _ => okTime t && okCxlPort port && okAddress addr
  | .imageBegin t => okTime t
  | .imagePage t => okTime t
  | .imageCommit t => okTime t
  | .captureCommit t p _ => okTime t && okPartition p
  | .feedQuery t => okTime t
  | .sag t => okTime t
  | .restoreAsk t => okTime t
  | .restorePage t => okTime t
  | .weightData t => okTime t
  | .soundingUpdate t => okTime t
  | .monitorWindow t readings _ => okTime t && okReadings readings
  | .p3Trim t millivolts => okTime t && okHalf millivolts
  | .coolantInletHigh t tenths => okTime t && okHalf tenths
  | .junctionOverLimit t b celsius => okTime t && okBasin b && okHalf celsius
  | .thermalTrip t b celsius => okTime t && okBasin b && okHalf celsius
  | .regulatorAlarm t => okTime t
  | .supplyWarning t centivolts => okTime t && okHalf centivolts
  | .counterPoll t scope idx pos => okTime t && okByte scope && okWord idx && okHalf pos
  | .patrolScrub t stack symbols position => okTime t && okStack stack && okSymbols symbols && okPin position
  | .stackRecalibration t stack _ => okTime t && okStack stack
  | .basinFault t b => okTime t && okBasin b
  | .oscillatorLoss t => okTime t
  | .powerOn t => okTime t
  | .perstLRelease t feed _ => okTime t && okFeed feed
  | .perstLAssert t => okTime t
  | .bootComplete t boot => okTime t && okBoot boot
  | .undervoltageLockout t => okTime t
  | .overvoltageCut t => okTime t
  | .powerOff t => okTime t
  | .railOutOfRegulation t => okTime t
  | .sharedBlockFault t block => okTime t && okBlock block
  | .cxlLinkRetrainRecovery t port => okTime t && okCxlPort port
  | .stackWipeComplete t b => okTime t && okBasin b
  | .testAccessPortClock t _ _ => okTime t
  | .configurationRequest t f reg write => okTime t && okFn f && okRegister reg && okWrite write

end Sys2Proof
end

