-- ==== Sys2Proof/Safety.lean ====
section
/-! DEFINITION. The terms in which claims about the block are stated: the invariants of its state, what it takes for a
command of the host to be carried out, and what an answer, a final response, an issued descriptor and a handled message
leave. Nothing here is part of the machine. -/

namespace Sys2Proof.Machine

/-! ### Invariants -/

/-- The memories are in canonical form: the pools and stacks, the command slots and the MSI-X tables with rising addresses
and no listed 0, each CXL port's with rising offsets. -/
def State.memoryOk (s : State) : Bool :=
  memWf s.mem && s.cxl.all (fun c => cellsRise c.bytes) &&
    s.funcs.all fun f => memWf f.msixTable && f.mailboxes.all fun m => memWf m.commands

/-- A function has its 4 mailboxes and 17 alert registers (R305, R325). -/
def Func.shaped (f : Func) : Bool := f.mailboxes.length == 4 && f.alerts.length == 17

/-- A basin has its 16 task slots, 256 sync cells, 8 table slots and 16 expert counter sets (Table 1.2, R114, R166). -/
def Basin.shaped (x : Basin) : Bool :=
  x.slots.length == 16 && x.cells.length == 256 && x.tables.length == 8 && x.experts.length == 16

/-- The device has the units of Tables 1.2 and 1.3: functions, basins, partitions, CXL ports, sub-ports and stacks. -/
def State.shaped (s : State) : Bool :=
  s.funcs.length == 9 && s.funcs.all Func.shaped && s.basins.length == 8 && s.basins.all Basin.shaped &&
    s.partitions.length == 8 && s.cxl.length == 8 && s.subPorts.length == 48 && s.hbm.length == 24

/-- A basin belongs to at most one open partition, and one that belongs to one is not IDLE (R18, R340). -/
def State.exclusive (s : State) : Prop :=
  (∀ p q b, s.holdsBasin p b = true → s.holdsBasin q b = true → p = q) ∧
    ∀ p b, s.holdsBasin p b = true → (s.basin b).state ≠ .idle

/-- Alert register `a` of function `f`. -/
def State.alert (s : State) (f a : Nat) : AlertReg := (s.func f).alerts.getD a {}

/-! ### A command of a mailbox -/

/-- The state with the clock at the moment of a command sent at `t`. -/
def State.now (s : State) (t : Nat) : State := { s with time := max s.time t }

/-- The 64 bytes of the command at the head of mailbox (f, m). -/
def State.headCommand (s : State) (f m : Nat) : Bytes := s.commandBytes f m (s.mailbox f m).head.toNat

/-- Its ticket: where its responses go. -/
def State.headTicket (s : State) (f m : Nat) : Ticket := ticketOf f m (s.mailbox f m).head (s.headCommand f m)

/-- The command of mailbox (f, m) is next, has the opcode of `k`, and passes the checks of R314 that every command of
the opcode passes: states, permission and reserved fields. -/
def State.passes (s : State) (f m : Nat) (k : CmdSpec) : Prop :=
  s.answers = true ∧ s.nextCommand = some (f, m) ∧ fieldB (s.headCommand f m) 0 2 = k.opcode ∧
    s.gate f k (s.headCommand f m) = none

/-- The host's registers differ in mailbox (f, m) and the pending interrupts of function `f` only. -/
def HostBut (s u : State) (f m : Nat) : Prop :=
  (∀ g n, (g, n) ≠ (f, m) → u.mailbox g n = s.mailbox g n) ∧ (∀ g, g ≠ f → u.func g = s.func g) ∧
    (u.func f).alerts = (s.func f).alerts ∧ (u.func f).mask = (s.func f).mask ∧ (u.func f).msixTable = (s.func f).msixTable ∧
    (u.func f).config = (s.func f).config

/-- The response that a ticket gets at a moment (Table 14.5). -/
def responseOf (u : State) (t : Ticket) (st : Status) (result : Bytes) : RespSlot :=
  { opcode := t.opcode, tag := t.tag, status := BitVec.ofNat 16 st.code, index := t.index
    deviceState := BitVec.ofNat 4 u.devState.code, basinStates := BitVec.ofNat 32 (u.basinStates t.fn)
    result := sliceB result 0 48 }

/-- Between `s` and `u` the command at the head of mailbox (f, m) left the mailbox and was answered; the other
response slots, command slots and event records of the mailbox stay, and so do the other mailboxes. -/
def Answered (s u : State) (f m : Nat) (st : Status) (result : Bytes) : Prop :=
  let a := s.mailbox f m
  let b := u.mailbox f m
  b = { a with head := a.head + 1, oldestOpen := b.oldestOpen, responses := b.responses } ∧
    b.response (a.head.toNat % 256) = responseOf u (s.headTicket f m) st result ∧
    (∀ j, j ≠ a.head.toNat % 256 → b.response j = a.response j) ∧ HostBut s u f m

/-- The command of mailbox (f, m) is answered and leaves, beside the answer, exactly the state `v`. -/
def Replies (s v u : State) (t f m : Nat) (st : Status) (result : Bytes) : Prop :=
  Answered s u f m st result ∧
    u = { v with time := max s.time t, funcs := u.funcs, msix := u.msix
                 lastServed := if m = 0 then s.lastServed else (f, m) }

/-- The command of mailbox (f, m) is ACCEPTED, stays open with the kind `k`, and leaves beside that exactly `v`. -/
def Accepts (s v u : State) (t f m : Nat) (k : OpenKind) : Prop :=
  Replies s { v with opens := v.opens ++ [⟨s.headTicket f m, k⟩] } u t f m .accepted []

/-- A ticket names a mailbox of the device. -/
def State.ticketOk (s : State) (t : Ticket) : Prop :=
  t.discarded = false ∧ t.fn < s.funcs.length ∧ t.mb < (s.func t.fn).mailboxes.length

/-- The open command `o` gets its final response and is no longer open; beside that exactly the state `v` is left. -/
def Finishes (s v u : State) (t : Nat) (o : OpenCmd) (st : Status) (result : Bytes) : Prop :=
  let a := s.mailbox o.ticket.fn o.ticket.mb
  let b := u.mailbox o.ticket.fn o.ticket.mb
  b = { a with oldestOpen := b.oldestOpen, responses := b.responses } ∧
    b.response (o.ticket.index.toNat % 256) = responseOf u o.ticket st result ∧
    (∀ j, j ≠ o.ticket.index.toNat % 256 → b.response j = a.response j) ∧ HostBut s u o.ticket.fn o.ticket.mb ∧
    u = { v with time := max s.time t, funcs := u.funcs, msix := u.msix, opens := v.opens.filter fun x => x != o }

/-! ### Interrupts and event rings -/

/-- MSI-X vector `v` of function `f` is masked (R317). -/
def State.vectorMasked (s : State) (f v : Nat) : Bool := (memRead (s.func f).msixTable (16 * v + 12) 1).headD 0 &&& 1 != 0

/-- Only mailbox (f, m) and the interrupts of function `f` differ in the registers of the host. -/
def MailboxOnly (s u : State) (f m : Nat) : Prop :=
  HostBut s u f m ∧ ∀ v, (u.func f).msixPending.getLsbD v = true → (s.func f).msixPending.getLsbD v = true ∨ v = m

/-- `n` interrupts of vector `v` of function `f` are signalled between `s` and `u`: messages, or the pending bit while the
vector is masked (R317). -/
def SignalsVector (s u : State) (f v n : Nat) : Prop :=
  if s.vectorMasked f v = true then
    u.msix = s.msix ∧ (0 < n → v < 64 → (u.func f).msixPending.getLsbD v = true)
  else u.msix = s.msix ++ List.replicate n (f, v) ∧ (u.func f).msixPending = (s.func f).msixPending

/-- Records that enter an event ring whose EventHead is `h` before EventTail is 128 past it, modulo 2^16 (R319). -/
def Mailbox.roomAt (x : Mailbox) (h : BitVec 16) : Nat := (128 - (x.eventTail - h)).toNat

/-! ### Memory -/

/-- Units of 64 bytes whose stored bytes a scrub left other than the line of the home cache that stands in front of them:
they show once the line leaves the cache (R203). -/
def State.damagedUnits (s : State) : List Range :=
  s.basins.flatMap fun b => b.cache.lines.flatMap fun l => l.2.damaged.map fun i => (256 * l.2.line + 64 * i, 64)

/-- A device address outside the sync and control space, whose cells and counters are stated for themselves (R287). -/
def storedAt (a : Nat) : Prop := a < 0x40000000 ∨ 0x80000000 ≤ a

/-- Address `a` lies in one of the ranges. -/
def inRanges (rs : List Range) (a : Nat) : Prop := ∃ r ∈ rs, r.1 ≤ a ∧ a < r.1 + r.2

/-- Every byte of the pools, stacks and CXL memories outside the given ranges reads as before, damaged units left aside. -/
def KeepsBytesOutside (rs : List Range) (s u : State) : Prop :=
  ∀ a, storedAt a → ¬ inRanges (rs ++ s.damagedUnits) a → u.readByte a = s.readByte a

/-- Every byte of the pools, stacks and CXL memories reads as before, damaged units left aside. -/
def KeepsBytes (s u : State) : Prop := KeepsBytesOutside [] s u

/-- The partitions differ only in what a write notes for captures: dirty, written and pending pages (R365, R366, R373). -/
def NotesPages (s v : State) : Prop :=
  ∀ p, v.partition p = { s.partition p with
    cleanA := (v.partition p).cleanA, cleanB := (v.partition p).cleanB, writtenPages := (v.partition p).writtenPages
    shadowed := (v.partition p).shadowed, touched := (v.partition p).touched }

/-- Between `s` and `v` device memory was written, or lines of the home caches were written back: what differs is bytes and
markings, the caches, what captures note, and the draws for damaged units. -/
def WritesMemory (s v : State) : Prop :=
  v = { s with mem := v.mem, poison := v.poison, cxl := v.cxl, basins := v.basins, partitions := v.partitions, freeCount := v.freeCount } ∧
    NotesPages s v ∧ (∀ e, v.basin e = { s.basin e with cache := (v.basin e).cache }) ∧
    ∀ q, v.port q = { s.port q with bytes := (v.port q).bytes, poison := (v.port q).poison }

/-- The sections of basin `b`'s pools that serve as its home cache at size `n`: the last n of its eight (R189). -/
def cacheSections (b n : Nat) : Range := (poolBase b + (8 - n) * 0x01000000, n * 0x01000000)

/-- A segment record is legal for a slot of partition `p`: absent with Base 0, or aligned and inside the range of its kind
(0 pool, 1 stack, 2 CXL, 3 shared), off the partition's cache sections for kinds 0 and 3 (R192, R209, Table 8.6). -/
def LegalSegment (s : State) (p : Nat) (r : SegRec) (kind : Nat) : Prop :=
  let pool := r.base + r.size ≤ 0x40000000
  let stack := 0x20000000000 ≤ r.base ∧ r.base + r.size ≤ 0x40000000000
  let cxl := ∃ q < 8, s.holdsPort p q = true ∧ (s.port q).state = .online ∧ cxlBase q ≤ r.base ∧
    r.base + r.size ≤ cxlBase q + (s.port q).mapped
  if r.size = 0 then r.base = 0
  else r.base % 4096 = 0 ∧ r.size % 4096 = 0 ∧
    (match kind with | 0 => pool | 1 => stack | 2 => cxl | _ => pool ∨ stack ∨ cxl) ∧
    (kind = 0 ∨ kind = 3 → ∀ b < 8, s.holdsBasin p b = true →
      rangesMeet (r.base, r.size) (cacheSections b (s.basin b).cache.size) = false)

/-! ### Messages -/

/-- Between `s` and `v` messages moved: at the router, in the sub-ports' queues and buffers, and into the contexts that are
this device's; counters count what was dropped (R237 to R247). -/
def MovesMessages (s v : State) : Prop :=
  v = { s with subPorts := v.subPorts, router := v.router, contexts := v.contexts, counters := v.counters, portMeters := v.portMeters }

/-- Every message that has arrived whole in the buffers of sub-port `i` passes its CRC-32C (R235). -/
def State.soundInput (s : State) (i : Nat) : Prop :=
  ∀ ix < 8, let y := (s.sub i).rx.getD ix {}
    ∀ m ∈ Stream.wholes (y.bytes.length / 16 + 1) y, m.2 = false

/-- The command at the head of mailbox (f, m) left the mailbox without an answer yet; beside that exactly `v` is left. -/
def Takes (s v u : State) (t f m : Nat) : Prop :=
  let a := s.mailbox f m
  let b := u.mailbox f m
  b = { a with head := a.head + 1, oldestOpen := b.oldestOpen } ∧ HostBut s u f m ∧
    (u.func f).msixPending = (s.func f).msixPending ∧
    u = { v with time := max s.time t, funcs := u.funcs, lastServed := if m = 0 then s.lastServed else (f, m) }

/-- `c` is the live context of partition `p` for device `dev`; no message of class `k` waits in it, and messages of the class
are not sealed. -/
def State.reaches (s : State) (p dev k : Nat) (c : PeerCtx) : Prop :=
  s.ctxFor p dev = some c ∧ s.ctx c.index = some c ∧ c.lost = false ∧ c.classes.length = 4 ∧ (c.cls k).queue = [] ∧
    (k = 0 ∨ c.encrypt = false)

/-- Message `m` of owner `o` is handed to context `c` at time `t`: with credit it is numbered, stamped and put on its way to
the router, and stays unacknowledged; without, it waits (R245, R248). -/
def Handed (s v : State) (t : Nat) (c : PeerCtx) (m : Msg) (o : MsgOwner) : Prop :=
  let k := c.cls m.cls
  let w : Msg := { m with src := s.deviceId, dst := c.peerId }
  let x : Msg := { w with peerSeq := k.nextSeq % 2 ^ 32, stamp := t % 2 ^ 32 }
  v = { s with contexts := v.contexts, router := v.router } ∧ (∀ i, i ≠ c.index → v.ctx i = s.ctx i) ∧
    (∃ d, v.ctx c.index = some d ∧ d = { c with peerPart := some m.part, classes := d.classes } ∧
      ∀ j < 4, d.cls j =
        if j ≠ m.cls then c.cls j
        else if k.credit = 0 then { k with queue := [(w, o)] }
        else { k with credit := k.credit - 1, nextSeq := k.nextSeq + 1, unacked := k.unacked ++ [⟨x, o, t⟩] }) ∧
    v.router = if k.credit = 0 then s.router else { s.router with localQueue := s.router.localQueue ++ [x] }

/-- Message `x` is taken out of the inbox: it is placed, and its credit is owed back to the sender (R245, R247). -/
def Taken (s v : State) (x : Nat × Nat × Msg) : Prop :=
  v = { s with contexts := v.contexts, router := v.router } ∧
    v.router = { s.router with inbox := s.router.inbox.erase x } ∧ (∀ i, i ≠ x.2.1 → v.ctx i = s.ctx i) ∧
    ∀ c, s.ctx x.2.1 = some c → ∃ d, v.ctx x.2.1 = some d ∧ d = { c with needReturn := true, classes := d.classes } ∧
      d.classes.length = c.classes.length ∧
      ∀ j < c.classes.length, d.cls j = if j = x.2.2.cls then { c.cls j with owed := (c.cls j).owed + 1 } else c.cls j

/-- Between `s` and `v` basin `b` was emptied as it left a partition or entered SERVICE or RETIRED (R115, R168, R190, R195):
table slots, expert counters and home cache are empty and its pools read as zeros; beside that only what the write-back of
its lines reaches differs. -/
def Emptied (s v : State) (b : Nat) : Prop :=
  v = { s with mem := v.mem, poison := v.poison, cxl := v.cxl, basins := v.basins, partitions := v.partitions, freeCount := v.freeCount } ∧
    NotesPages s v ∧ (∀ q, v.port q = { s.port q with bytes := (v.port q).bytes, poison := (v.port q).poison }) ∧
    (∀ e, e ≠ b → v.basin e = s.basin e) ∧
    v.basin b = { s.basin b with
      tables := List.replicate 8 none, experts := List.replicate 16 {}, expertSnaps := List.replicate 16 {}
      cache := { size := (s.basin b).cache.size } } ∧
    (∀ a, poolBase b ≤ a → a < poolBase (b + 1) → v.readByte a = 0) ∧ KeepsBytesOutside [(poolBase b, poolSize)] s v

/-- The record of a type that the module store has in use (R419). -/
def State.stored (s : State) (type : Nat) : Option Bytes := (s.store.find? fun r => r.type == type && r.committed).map (·.payload)

/-! ### Descriptors -/

/-- The descriptor at the head of slot (b, k) is `d`, it is not skipped and its WaitCell, if any, is set (R25, R27, R113). -/
def State.headIs (s : State) (b k : Nat) (d : Bytes) : Prop :=
  s.slotIssues b k = true ∧ s.head b k = .desc d ∧ (s.slot b k).skips d = false ∧ s.waitMet b d = true

/-- Every access of the list is legal and reaches no basin out of service (R193, R422). -/
def State.mayAccess (s : State) (b k : Nat) (xs : List Access) : Prop := s.firstFault b k xs = none ∧ s.lostBasin b k xs = none

/-- The segments of slot (b, k) begin at multiples of 4 KiB, as R192 has them. -/
def State.segsAligned (s : State) (b k : Nat) : Prop := ∀ g < 4, (s.seg b k g).base % 4096 = 0

/-- The pool segment of slot (b, k) lies in the pools, as R192 has it. -/
def State.poolSegment (s : State) (b k : Nat) : Prop := (s.seg b k 0).base + (s.seg b k 0).size ≤ 0x40000000

/-- A task names a mailbox of the device. -/
def Slot.mailboxOk (x : Slot) : Prop := x.fn < 9 ∧ x.mailbox < 4

/-- Count of a cell plus `v`, which stays at 0xFFFF (R286). -/
def SyncCell.plus (x : SyncCell) (v : Nat) : SyncCell := { x with count := BitVec.ofNat 16 (min (x.count.toNat + v) 0xFFFF) }

/-- The descriptor `d` of slot (b, k) has issued on a unit: one more descriptor is in flight, with its SetCell, what it
writes and the step; Position stands past it; no other slot and no cell differs (R25, R185, R300). -/
def IssuedOn (s u : State) (b k : Nat) (d : Bytes) (unit : UnitKind) (w : List Range) : Prop :=
  u.nextFlight = s.nextFlight + 1 ∧
    (∃ f, u.flights = s.flights ++ [f] ∧ f.id = s.nextFlight ∧ f.unit = unit ∧ f.basin = b ∧ f.slot = k ∧
      f.setCell = dSetCell d ∧ f.writes = w ∧ b ∈ f.basins ∧ f.step = s.stepOf b) ∧
    (∀ c j, u.slot c j =
      if c = b ∧ j = k then { s.slot b k with position := (s.slot b k).position + d.length } else s.slot c j) ∧
    ∀ c j, u.cell c j = s.cell c j

/-- It is slot (b, k)'s turn on a unit at time `t`: no slot ahead of it in the unit's round-robin is ready (R26). -/
def State.hasTurn (s : State) (t b : Nat) (u : UnitKind) (k : Nat) (step : State → Nat → State) : Prop :=
  (s.now t).firstInTurn b u k (step (s.now t)) = true

/-- The units' last grants in basin `c` once unit `u` of basin `b` has granted slot `k` (R26). -/
def State.grantsAfter (s : State) (b : Nat) (u : UnitKind) (k c : Nat) : List (Option Nat) :=
  if c = b then (s.basin b).lastGrant.set u.index (some k) else (s.basin c).lastGrant

/-- The row [a, a + n) stands in the pools and stacks, or in one CXL port that is not lost (R206, R213). -/
def State.rowStands (s : State) (a n : Nat) : Prop :=
  match placeOf a with
  | .cxl p o => o + n ≤ 0x20000000000 ∧ (s.port p).state ≠ .lost
  | _ => a + n ≤ 0x100000000000

/-- Record `r` is posted to mailbox (f, m): it enters the ring at EventTail with the vector of the mailbox, or waits while
the ring is full (R317, R319). Nothing is said where records wait beside a free entry, which no step leaves. -/
def Posts (s u : State) (f m : Nat) (r : EventRec) : Prop :=
  let x := s.mailbox f m
  let y := u.mailbox f m
  let full : Prop := (x.eventTail - x.eventHead).toNat = 128
  MailboxOnly s u f m ∧
    y = { x with eventTail := y.eventTail, ring := y.ring, waiting := y.waiting } ∧
    (¬ full → x.waiting = [] → y.eventTail = x.eventTail + 1 ∧ y.waiting = [] ∧ SignalsVector s u f m 1 ∧
      ∀ j < 128, y.event j = if j = x.eventTail.toNat % 128 then sliceB r.bytes 0 64 else x.event j) ∧
    (full → y.eventTail = x.eventTail ∧ y.ring = x.ring ∧ y.waiting = x.waiting ++ [r] ∧ SignalsVector s u f m 0)

/-- Slot (b, k) halts at time `t` with a fault record of Table 14.7; nothing else differs (R319, R78, R194). -/
def HaltsWith (s u : State) (t b k : Nat) (code : FaultCode) (d0 d1 d2 d3 : Nat) : Prop :=
  let x := s.slot b k
  u = { s with time := max s.time t, funcs := u.funcs, msix := u.msix, basins := u.basins } ∧
    (∀ c, u.basin c = { s.basin c with slots := (u.basin c).slots }) ∧
    (∀ c j, u.slot c j = if c = b ∧ j = k then { x with state := .halted } else s.slot c j) ∧
    Posts s u x.fn x.mailbox
      ⟨.slot b k, recordBytes 1 code.code b k (s.stepOf b) ((s.now t).timeFor x.fn) x.position d0 d1 d2 d3⟩

/-- The issued descriptor `f`, which raises no late fault, completes at time `t`: it leaves flight and its SetCell counts
one (R219, R286); nothing else differs. -/
def CompletesFlight (s u : State) (t : Nat) (f : Flight) : Prop :=
  u = { s with time := max s.time t, flights := s.flights.filter (fun g => g.id != f.id), basins := u.basins, counters := u.counters } ∧
    (∀ c, u.basin c = { s.basin c with cells := (u.basin c).cells }) ∧
    ∀ c j, u.cell c j = if c = f.basin ∧ f.setCell = some j then (s.cell c j).plus 1 else s.cell c j

/-- `n` is added to cell `c` of basin `b`; the rest of every basin's cells stays (R286). -/
def CellGains (s u : State) (b c n : Nat) : Prop := ∀ e j, u.cell e j = if e = b ∧ j = c then (s.cell e j).plus n else s.cell e j

/-- Between `s` and `u` the basins differ in their cells only. -/
def CellsOnly (s u : State) : Prop := ∀ e, u.basin e = { s.basin e with cells := (u.basin e).cells }

/-- Between `s` and `u` slot (b, k) becomes `x`, and the basins differ beside that in their cells and in the units' last
grants only. -/
def SlotBecomes (s u : State) (b k : Nat) (x : Slot) : Prop :=
  (∀ c, u.basin c = { s.basin c with slots := (u.basin c).slots, cells := (u.basin c).cells, lastGrant := (u.basin c).lastGrant }) ∧
    ∀ c j, u.slot c j = if c = b ∧ j = k then x else s.slot c j

end Sys2Proof.Machine
end

