-- ==== Sys2Proof/Certificates/Slice0/Obligations.lean ====
section
/-! DEFINITION. The statements about the block. Each follows the rules of spec/ that its docstring cites; where a
statement rests on a choice of the model, its docstring says so and names the log entry. Terms: Sys2Proof/Safety.lean. -/

open Sys2Proof Sys2Proof.Machine

/-- A step takes the command at the front of the queue and runs `exec` of it on the state with the queue's rest. On an
empty queue the block idles: the model's choice, log entry 2. -/
def Obligations.StepTakesFront : Prop :=
  (∀ (c : Instr) (rest : List Instr) (s : State), step { s with pending := c :: rest } = exec c { s with pending := rest }) ∧
    ∀ s : State, s.pending = [] → step s = .next s

/-- No command stops: each answers a next state, leaves the queue as it is, and the clock stands at the later of its own
time and the clock it found. That a command carries its time is the model's choice, log entry 1. -/
def Obligations.EveryCommandKeepsQueueAndClock : Prop :=
  ∀ (c : Instr) (s : State), ∃ u, exec c s = .next u ∧ u.pending = s.pending ∧ u.time = max s.time c.time

/-- The invariants hold of the state after reset. -/
def Obligations.ResetInvariants : Prop :=
  State.reset.memoryOk = true ∧ State.reset.shaped = true ∧ State.reset.exclusive

/-- Every step keeps the canonical form of the pools and stacks (addresses strictly rise and no listed byte is 0) and of the
CXL memories (offsets strictly rise). -/
def Obligations.StepKeepsMemoryCanonical : Prop :=
  ∀ s u : State, s.memoryOk = true → step s = .next u → u.memoryOk = true

/-- Every step keeps every unit: the functions with their mailboxes and alerts, the basins with their slots, cells, tables and
expert sets, the partitions, ports, sub-ports and stacks. -/
def Obligations.StepKeepsUnits : Prop :=
  ∀ s u : State, s.shaped = true → step s = .next u → u.shaped = true

/-- R18: a basin belongs to at most one partition, and every step keeps it so. The second half of the invariant (a basin of an
open partition is not IDLE) is what PARTITION_OPEN tests before it takes a basin (R340). -/
def Obligations.StepKeepsBasinsExclusive : Prop :=
  ∀ s u : State, s.exclusive → step s = .next u → u.exclusive

/-- A write to the pools, to the stack windows or to one CXL port's range is read back, and every byte outside the written
range reads as before the write. -/
def Obligations.MemoryReadsBackWrites : Prop :=
  ∀ (s : State) (a : Nat) (bs : Bytes) (p : Bool),
    KeepsBytesOutside [(a, bs.length)] s (s.write a bs p) ∧
    (a + bs.length ≤ 0x100000000000 → a + bs.length ≤ 0x40000000 ∨ 0x80000000 ≤ a → (s.write a bs p).read a bs.length = bs) ∧
    (∀ q < 8, cxlBase q ≤ a → a + bs.length ≤ cxlBase (q + 1) → q < s.cxl.length → (s.write a bs p).read a bs.length = bs)

/-- TASK_START (R345): its conditions in their order, and what DONE leaves. -/
def Obligations.TaskStartRuns : Prop :=
  ∀ (s : State) (t f m : Nat), s.passes f m specTaskStart →
    let c := s.headCommand f m
    let b := fieldB c 8 1
    let k := fieldB c 9 1
    let mask := fieldB c 24 32
    (7 < b ∨ 15 < k ∨ 3 < fieldB c 10 1 → ∃ u, exec (.taskStart t f m) s = .next u ∧ Replies s s u t f m .badArgument []) ∧
    (b < 8 → k < 16 → fieldB c 10 1 < 4 →
      ((s.slot b k).state = .empty → ∃ u, exec (.taskStart t f m) s = .next u ∧ Replies s s u t f m .notPermitted []) ∧
      ((s.slot b k).isUsed = true → ∃ u, exec (.taskStart t f m) s = .next u ∧ Replies s s u t f m .busy []) ∧
      ((s.slot b k).state = .loaded → s.recordWaits b k = true →
        ∃ u, exec (.taskStart t f m) s = .next u ∧ Replies s s u t f m .busy []) ∧
      ((s.slot b k).state = .loaded → s.recordWaits b k = false →
        (∃ j < 256, bit mask j = true ∧ s.ownedElsewhere b k j = true) →
        ∃ u, exec (.taskStart t f m) s = .next u ∧ Replies s s u t f m .busy []) ∧
      ((s.slot b k).state = .loaded → (s.slot b k).clearing = false → s.recordWaits b k = false →
        (∀ j < 256, bit mask j = true → s.ownedElsewhere b k j = false) →
        ∃ u v, exec (.taskStart t f m) s = .next u ∧ Replies s v u t f m .done [] ∧ v = { s with basins := v.basins } ∧
          (∀ e, e ≠ b → v.basin e = s.basin e) ∧
          v.basin b = { s.basin b with slots := (v.basin b).slots, cells := (v.basin b).cells } ∧
          (∀ j, j ≠ k → v.slot b j = s.slot b j) ∧
          v.slot b k = { s.slot b k with
            state := .running, position := 0, fn := f, mailbox := fieldB c 10 1, repeatCount := fieldB c 14 2, runsDone := 0
            seed := BitVec.ofNat 64 (fieldB c 16 8), crossover := if fieldB c 12 2 = 0 then 1311 else fieldB c 12 2
            regionPart := 3, regionFrozen := false, clearing := false, stoppedAt := 0 } ∧
          ∀ j < (s.basin b).cells.length, v.cell b j =
            if j < 256 ∧ bit mask j = true then { count := 0, target := 1, owned := true, owner := BitVec.ofNat 4 k } else s.cell b j))

/-- TASK_STOP, CLEARING_COMPLETE and TASK_QUERY (R296, R342, R346). -/
def Obligations.TaskStopClears : Prop :=
  (∀ (s : State) (t f m : Nat), s.passes f m specTaskStop →
    let c := s.headCommand f m
    let b := fieldB c 8 1
    let k := fieldB c 9 1
    b < 8 → k < 16 →
    ((s.slot b k).isUsed = false →
      ∃ u, exec (.taskStop t f m) s = .next u ∧ Replies s s u t f m .done (toLE 8 (s.slot b k).position)) ∧
    ((s.slot b k).isUsed = true → (s.slot b k).clearing = false → s.switchOpen = false →
      ∃ u v, exec (.taskStop t f m) s = .next u ∧ Accepts s v u t f m (.taskStop b k) ∧ v = { s with basins := v.basins } ∧
        (∀ e j, (e, j) ≠ (b, k) → v.slot e j = s.slot e j) ∧
        v.slot b k = { s.slot b k with
          state := if (s.slot b k).state = .running then .loaded else (s.slot b k).state
          clearing := true, stoppedAt := (s.slot b k).position } ∧
        ∀ e, ¬ (v.basin e).mere.staged.any (fun x => x.lead == b && x.slot == k && x.item.isNone) = true)) ∧
  (∀ (s : State) (t b k : Nat) (o : OpenCmd), s.alive = true → (s.slot b k).clearing = true → s.slotFlights b k = [] →
    (s.basin b).mere.staged = none → s.passesOn b = [] → (s.opens.filter fun x => x.kind == .taskStop b k) = [o] →
    s.ticketOk o.ticket →
    ∃ u v, exec (.clearingComplete t b k) s = .next u ∧
      Finishes s v u t o .done (toLE 8 (s.slot b k).stoppedAt) ∧
      v = { s with basins := v.basins, partitions := v.partitions, contexts := v.contexts } ∧
      (∀ e, e ≠ b → v.basin e = s.basin e) ∧ (∀ j, j ≠ k → v.slot b j = s.slot b j) ∧
      v.slot b k = { s.slot b k with state := .loaded, clearing := false } ∧
      (v.basin b).mere.sets = List.replicate 2 {} ∧ (s.unitBusy b .tarn = false → (v.basin b).inlets = List.replicate 64 {}) ∧
      ∀ j < (s.basin b).cells.length, v.cell b j =
        if (s.cell b j).owned = true ∧ (s.cell b j).owner.toNat = k then {} else s.cell b j) ∧
  ∀ (s : State) (t f m : Nat), s.passes f m specTaskQuery →
    let c := s.headCommand f m
    let b := fieldB c 8 1
    let k := fieldB c 9 1
    b < 8 → k < 16 →
    ∃ u, exec (.taskQuery t f m) s = .next u ∧
      Replies s s u t f m .done (toLE 1 (s.slot b k).state.code ++ toLE 1 (s.slot b k).mailbox ++
        toLE 2 ((s.slot b k).runsDone % 65536) ++ zeros 4 ++ toLE 8 (s.slot b k).position ++ (s.slot b k).digest)
/-- R321 and Table 14.9. -/
def Obligations.StateRegisterReads : Prop :=
  ∀ (s : State) (f : Nat),
    let r := fieldB (s.barRead f 0x3000 8) 0 8
    (∀ b < 8, r / 16 ^ b % 16 = if f = 0 ∨ (s.partition (f - 1)).isOpen = true ∧ (s.partition (f - 1)).basins.getLsbD b = true then
      (match (s.basin b).state with | .idle => 0 | .active => 1 | .draining => 2 | .service => 3 | .retired => 4) else 15) ∧
    r / 2 ^ 32 % 16 = (match s.devState with
      | .off => 0 | .boot => 1 | .held => 2 | .ready => 3 | .running => 4 | .service => 5 | .fault => 6) ∧
    r / 2 ^ 36 % 2 ^ 12 = 0 ∧
    (∀ p < 8, r / 2 ^ (48 + p) % 2 = if (s.partition p).isOpen = true ∧ (f = 0 ∨ f = p + 1) then 1 else 0) ∧
    r / 2 ^ 56 = if s.devState = .fault then (s.faultCause.getD 0).toNat else 0

/-- R325 and Table 14.12. -/
def Obligations.AlertOccurrence : Prop :=
  ∀ (s : State) (a d : Nat), s.shaped = true → a < 17 → d < 256 →
    (∀ f < 9, ∀ i < 17, (s.raise a d).alert f i =
      if i = a ∧ s.seesAlert f a d = true then
        { flag := true, count := BitVec.ofNat 16 ((s.alert f i).count.toNat + 1), detail := BitVec.ofNat 8 d }
      else s.alert f i) ∧
    ∀ f < 9, ∀ i < 17,
      let r := fieldB (s.barRead f (0x2000 + 4 * i) 4) 0 4
      r % 2 ^ 16 = (s.alert f i).count.toNat ∧ r / 2 ^ 16 % 2 = (s.alert f i).flag.toNat ∧ r / 2 ^ 17 % 2 ^ 7 = 0 ∧
        r / 2 ^ 24 = (s.alert f i).detail.toNat

/-- R309, R310, R319: each register write of a mailbox, with everything else unchanged. -/
def Obligations.MailboxRegisterWrites : Prop :=
  ∀ (s : State) (t f m v : Nat), (s.now t).mailboxesUp = true → f ≤ 8 → f < s.funcs.length → m < (s.func f).mailboxes.length →
    v < 65536 →
    let x := s.mailbox f m
    (∃ u, exec (.doorbell t f m v) s = .next u ∧ u = { s with time := max s.time t, funcs := u.funcs } ∧ HostBut s u f m ∧
      (u.func f).msixPending = (s.func f).msixPending ∧
      u.mailbox f m =
        if (v + 65536 - x.oldestOpen.toNat) % 65536 ≤ 256 ∧ (v + 65536 - x.head.toNat) % 65536 ≤ 256 then
          { x with tail := BitVec.ofNat 16 v }
        else { x with overrunFlag := true, overrunCount := BitVec.ofNat 16 (x.overrunCount.toNat + 1) }) ∧
    (∃ u, exec (.overrunClear t f m v) s = .next u ∧ u = { s with time := max s.time t, funcs := u.funcs } ∧ HostBut s u f m ∧
      (u.func f).msixPending = (s.func f).msixPending ∧
      u.mailbox f m = if v = x.overrunCount.toNat then { x with overrunFlag := false } else x) ∧
    ∃ u, exec (.eventHeadWrite t f m v) s = .next u ∧ u = { s with time := max s.time t, funcs := u.funcs, msix := u.msix } ∧
      MailboxOnly s u f m ∧
      let n := min x.waiting.length (x.roomAt (BitVec.ofNat 16 v))
      SignalsVector s u f m n ∧
      u.mailbox f m = { x with eventHead := BitVec.ofNat 16 v, eventTail := x.eventTail + BitVec.ofNat 16 n
                               waiting := x.waiting.drop n, ring := (u.mailbox f m).ring } ∧
      ∀ j < 128, (u.mailbox f m).event j =
        match (List.range n).reverse.find? (fun i => (x.eventTail.toNat + i) % 128 == j) with
        | some i => sliceB ((x.waiting.map (·.bytes)).getD i []) 0 64
        | none => x.event j

/-- R326, and R208 for CXL_LOST. That it is the physical function's clear is log entry 17. -/
def Obligations.AlertRegisterWrites : Prop :=
  ∀ (s : State) (t f a v : Nat), (s.now t).hostUp = true → f ≤ 8 → s.shaped = true → a < 17 →
    let r := s.alert f a
    let accepted := v % 65536 = r.count.toNat
    ∃ u, exec (.alertRegisterWrite t f a v) s = .next u ∧ u = { s with time := max s.time t, funcs := u.funcs, cxl := u.cxl } ∧
      u.alert f a = (if accepted then { r with flag := false } else r) ∧
      (∀ g i, (g, i) ≠ (f, a) → u.alert g i = s.alert g i) ∧ (∀ g, u.func g = { s.func g with alerts := (u.func g).alerts }) ∧
      ∀ q, let c := s.port q
        u.port q =
          if f = 0 ∧ a = 10 ∧ accepted ∧ c.state = .lost then
            if c.linkUp = true then { c with acked := true }
            else { epoch := c.epoch + 1, failed := c.failed, prsntHigh := c.prsntHigh, resetUntil := c.resetUntil }
          else c

/-- R306, R307, R311. The sizes of writes to command slots are log entry 15. -/
def Obligations.BarAccesses : Prop :=
  (∀ off n w, accessSupported off n w = true ↔ off + n ≤ 0x1000000 ∧ off % n = 0 ∧
    ((n = 4 ∨ n = 8) ∨ w = true ∧ (n = 1 ∨ n = 2 ∨ n = 16 ∨ n = 32 ∨ n = 64) ∧ 0x10000 ≤ off ∧ off < 0x50000 ∧ off % 0x10000 < 0x4000)) ∧
  (∀ (s : State) (t f off n : Nat) (w : Bool), (s.now t).hostUp = true → f ≤ 8 → accessSupported off n w = false →
    exec (.unsupportedAccess t f off n w) s = .next { s.now t with completion := .unsupportedRequest } ∧
    ∀ bs : Bytes, bs.length = n → w = true →
      exec (.registerWrite t f off bs) s = .next { s.now t with completion := .unsupportedRequest }) ∧
  (∀ (s : State) (t f m off : Nat) (bs : Bytes), (s.now t).mailboxesUp = true → s.memoryOk = true → s.shaped = true → f ≤ 8 → m < 4 →
    off < 0x4000 → accessSupported (0x10000 * (m + 1) + off) bs.length true = true →
    ∃ u, exec (.registerWrite t f (0x10000 * (m + 1) + off) bs) s = .next u ∧ u = { s with time := max s.time t, funcs := u.funcs } ∧
      HostBut s u f m ∧ (u.func f).msixPending = (s.func f).msixPending ∧
      u.mailbox f m = { s.mailbox f m with commands := (u.mailbox f m).commands } ∧
      memRead (u.mailbox f m).commands off bs.length = bs ∧
      ∀ a, a < off ∨ off + bs.length ≤ a → memRead (u.mailbox f m).commands a 1 = memRead (s.mailbox f m).commands a 1) ∧
  (∀ (s : State) (t f v : Nat), (s.now t).mailboxesUp = true → f ≤ 8 → v < 2 ^ 32 →
    (∀ m < 4, exec (.registerWrite t f (0x1000 + 0x40 * m) (toLE 4 v)) s = exec (.doorbell t f m v) s ∧
      exec (.registerWrite t f (0x1018 + 0x40 * m) (toLE 4 v)) s = exec (.overrunClear t f m v) s ∧
      exec (.registerWrite t f (0x1028 + 0x40 * m) (toLE 4 v)) s = exec (.eventHeadWrite t f m v) s) ∧
    (∀ a < 17, exec (.registerWrite t f (0x2000 + 4 * a) (toLE 4 v)) s = exec (.alertRegisterWrite t f a v) s) ∧
    (∀ h < 2, f < s.funcs.length → ∃ u, exec (.registerWrite t f (0x2108 + 4 * h) (toLE 4 v)) s = .next u ∧
      u = { s with time := max s.time t, funcs := u.funcs } ∧ (∀ g, g ≠ f → u.func g = s.func g) ∧
      u.func f = { s.func f with mask := (u.func f).mask } ∧
      ∀ i < 64, (u.func f).mask.getLsbD i = if i / 32 = h then v.testBit (i % 32) else (s.func f).mask.getLsbD i) ∧
    ∀ off, 0x50000 ≤ off → off % 4 = 0 → off + 4 ≤ 0x1000000 → exec (.registerWrite t f off (toLE 4 v)) s = .next (s.now t)) ∧
  ∀ (s : State) (f o : Nat), o % 8 = 0 → s.barRead f o 8 = s.barRead f o 4 ++ s.barRead f (o + 4) 4

/-- R413 phase 7, R314 step 1, R318. Configuration registers: log entry 64; waiting records: log entry 16. -/
def Obligations.HostRequests : Prop :=
  (∀ (s : State) (t f r : Nat) (w : Option Nat), f ≤ 8 → s.perst = false → s.failedBlocks.contains .hostEndpoint = false →
    (s.power = .boot → (s.pwrGood = false ∨ max s.time t < s.bootStart + 425000000) →
      exec (.configurationRequest t f r w) s = .next { s.now t with completion := .retryStatus }) ∧
    (s.power ≠ .off → (s.power = .boot → s.pwrGood = true ∧ s.bootStart + 425000000 ≤ max s.time t ∧ s.faultCause = none) →
      (∃ v, v < 2 ^ 32 ∧ exec (.configurationRequest t f r none) s = .next { s.now t with completion := .success v } ∧
        (f = 0 → r = 0 → v % 2 ^ 16 = Config.vendorId % 2 ^ 16) ∧ (f = 0 → r = 4 → v % 2 ^ 24 = 4) ∧
        (0 < f → r = 4 ∨ r = 5 → v = 0) ∧ (6 ≤ r ∧ r < 10 ∨ r = 12 → v = 0) ∧ (r = 15 → v / 256 = 0)) ∧
      ∀ x, ∃ u, exec (.configurationRequest t f r (some x)) s = .next u ∧
        u = { s with time := max s.time t, completion := .success 0, funcs := u.funcs } ∧
        (∀ g, g ≠ f → u.func g = s.func g) ∧ u.func f = { s.func f with config := (u.func f).config } ∧
        (∀ i, i ≠ r → u.configRead f i = s.configRead f i) ∧
        (f = 0 → 0 < s.funcs.length → (r = 4 → u.configRead 0 4 = 4 + x / 2 ^ 24 % 2 ^ 8 * 2 ^ 24) ∧
          (r = 5 → u.configRead 0 5 = x % 2 ^ 32)))) ∧
  (∀ (s : State) (t f m : Nat), s.answers = true → s.nextCommand = some (f, m) →
    opcodeDefined (fieldB (s.headCommand f m) 0 2) = false →
    ∃ u, exec (.undefinedOpcode t f m) s = .next u ∧ Replies s s u t f m .badOpcode []) ∧
  ∀ (s : State) (t f : Nat), (s.now t).hostUp = true → f ≤ 8 → s.shaped = true →
    ∃ u, exec (.functionLevelReset t f) s = .next u ∧
      u = { s with time := max s.time t, funcs := u.funcs, opens := u.opens, basins := u.basins, msix := u.msix } ∧
      (∀ g, g ≠ f → u.func g = s.func g) ∧ (u.func f).alerts = (s.func f).alerts ∧ (u.func f).mask = (s.func f).mask ∧ (u.func f).config = [] ∧
      (∀ m < 4, let x := s.mailbox f m
        u.mailbox f m = { commands := x.commands, ring := (u.mailbox f m).ring, eventTail := (u.mailbox f m).eventTail
                          waiting := x.waiting.drop (min x.waiting.length 128) } ∧
        (u.mailbox f m).eventTail.toNat = min x.waiting.length 128) ∧
      u.opens = s.opens.map (fun o => if o.ticket.fn = f then { o with ticket := { o.ticket with discarded := true } } else o) ∧
      ∀ b k, u.slot b k = if (s.slot b k).isUsed = true ∧ (s.slot b k).clearing = false ∧ (s.slot b k).fn = f then
        { s.slot b k with
          state := if (s.slot b k).state = .running then .loaded else (s.slot b k).state
          clearing := true, stoppedAt := (s.slot b k).position } else s.slot b k

/-- R338, R339 and Table 15.3 for DEVICE_QUERY. -/
def Obligations.DeviceQueryAnswers : Prop :=
  ∀ (s : State) (t f m : Nat), s.answers = true → s.nextCommand = some (f, m) → fieldB (s.headCommand f m) 0 2 = 0x0101 →
    allZero (sliceB (s.headCommand f m) 4 4) = true → allZero (sliceB (s.headCommand f m) 9 55) = true →
    let p := fieldB (s.headCommand f m) 8 1
    let y := s.partition p
    let now := max s.time t
    let next := if p = 0xFF ∨ y.isOpen = false ∨ y.ruling.period = 0 then 0 else y.ruling.next
    (f ≠ 0 ∧ p ≠ 0xFF ∧ p ≠ f - 1 → ∃ u, exec (.deviceQuery t f m) s = .next u ∧ Replies s s u t f m .notPermitted []) ∧
    (f = 0 ∧ p ≠ 0xFF ∧ 7 < p → ∃ u, exec (.deviceQuery t f m) s = .next u ∧ Replies s s u t f m .badArgument []) ∧
    (p = 0xFF ∨ f = 0 ∧ p < 8 ∨ f ≠ 0 ∧ p = f - 1 → ∃ u, exec (.deviceQuery t f m) s = .next u ∧
      Replies s s u t f m .done (toLE 8 (if f = 0 then now else now / 1000 * 1000) ++ toLE 1 s.point ++ toLE 1 (s.openPartitions f) ++
        zeros 6 ++ toLE 8 (if p = 0xFF then 0 else y.step) ++ toLE 8 (if f = 0 then next else next / 1000 * 1000)))

/-- R36, R37, R339, R417. The die voltage of P3 is free within its limits (log entry 13); result bytes: log entry 9. -/
def Obligations.HoldReleaseAndPoints : Prop :=
  (∀ (s : State) (t m : Nat), s.passes 0 m specHoldRelease → s.shaped = true → (∀ i < 48, s.sub i = {}) → s.router.waiting = [] →
    ∃ u v, exec (.holdRelease t 0 m) s = .next u ∧ Replies s v u t 0 m .done [] ∧
      v = { s with power := .up, subPorts := v.subPorts } ∧
      ∀ i, v.sub i = if s.subServes i = true then { state := .training } else s.sub i) ∧
  (∀ (s : State) (t m : Nat), s.passes 0 m specOperatingPointSet →
    let p := fieldB (s.headCommand 0 m) 8 1
    (p < 1 ∨ 3 < p → ∃ u, exec (.operatingPointSet t 0 m) s = .next u ∧ Replies s s u t 0 m .badArgument []) ∧
    (1 ≤ p → p ≤ 3 →
      (p = s.point → s.ramp = none → ∃ u, exec (.operatingPointSet t 0 m) s = .next u ∧ Replies s s u t 0 m .done (toLE 1 p)) ∧
      (s.ramp ≠ none → ∃ u, exec (.operatingPointSet t 0 m) s = .next u ∧ Replies s s u t 0 m .busy (toLE 1 s.point)) ∧
      (p ≠ s.point → s.ramp = none → p = 3 → 300 < s.inlet →
        ∃ u, exec (.operatingPointSet t 0 m) s = .next u ∧ Replies s s u t 0 m .notPermitted (toLE 1 s.point)) ∧
      (p ≠ s.point → s.ramp = none → ¬ (p = 3 ∧ 300 < s.inlet) → s.switchOpen = false →
        ∃ u, exec (.operatingPointSet t 0 m) s = .next u ∧
          Accepts s { s with ramp := some { target := p, byHost := true }, rampInWindow := true } u t 0 m .operatingPoint))) ∧
  ∀ (s : State) (t : Nat) (r : Ramp), s.ramp = some r →
    (r.byHost = false ∨ s.findOpen (fun k => k == .operatingPoint) = none → ∃ mv, exec (.pointSettled t) s = .next { s.now t with
        point := r.target, milliVolts := mv, ramp := none, voltageOff := false, freeCount := s.freeCount + 1 } ∧
      (r.target = 1 → mv = 720) ∧ (r.target = 2 → mv = 780) ∧ 720 ≤ mv ∧ mv ≤ 850) ∧
    ∀ o, r.byHost = true → s.findOpen (fun k => k == .operatingPoint) = some o → s.ticketOk o.ticket →
      ∃ u mv, exec (.pointSettled t) s = .next u ∧ Finishes s { s with
          point := r.target, milliVolts := mv, ramp := none, voltageOff := false, freeCount := s.freeCount + 1 } u t o .done (toLE 1 r.target) ∧
        (r.target = 1 → mv = 720) ∧ (r.target = 2 → mv = 780) ∧ 720 ≤ mv ∧ mv ≤ 850

/-- R340, with R210 for the ports' keys and R399 for the ephemeral key (how it comes from the draw: log entry 10). -/
def Obligations.PartitionOpens : Prop :=
  (∀ (s : State) (t m : Nat), s.answers = true → s.nextCommand = some (0, m) → fieldB (s.headCommand 0 m) 0 2 = 0x0201 →
    allZero (sliceB (s.headCommand 0 m) 4 4) = true →
    let c := s.headCommand 0 m
    let p := fieldB c 8 1
    (p < 8 ∧ (s.partition p).isOpen = true ∨ (∃ b < 8, bit (fieldB c 9 1) b = true ∧ (s.basin b).state ≠ .idle) ∨
      ∃ q < 8, bit (fieldB c 10 1) q = true ∧ ((s.port q).state ≠ .online ∨ s.holderOf q ≠ none)) →
    ∃ u, exec (.partitionOpen t 0 m) s = .next u ∧ Replies s s u t 0 m .stateRefused []) ∧
  ∀ (s : State) (t m : Nat), s.passes 0 m specPartitionOpen → s.shaped = true →
    let c := s.headCommand 0 m
    let p := fieldB c 8 1
    let base := fieldB c 12 2
    let count := fieldB c 14 2
    let bad := 7 < p ∨ fieldB c 9 1 = 0 ∨ count = 0 ∨ 16384 < base + count ∨
      ∃ y ∈ s.partitions, y.isOpen = true ∧ base < y.peerBase + y.peerCount ∧ y.peerBase < base + count
    let busy := ∃ b < 8, bit (fieldB c 9 1) b = true ∧ s.busyBasin b = true
    (bad → ∃ u, exec (.partitionOpen t 0 m) s = .next u ∧ Replies s s u t 0 m .badArgument []) ∧
    (¬ bad → busy → ∃ u, exec (.partitionOpen t 0 m) s = .next u ∧ Replies s s u t 0 m .busy []) ∧
    (¬ bad → ¬ busy → ∃ u v, exec (.partitionOpen t 0 m) s = .next u ∧ Replies s v u t 0 m .done [] ∧
      v = { s with partitions := v.partitions, basins := v.basins, cxl := v.cxl, contexts := v.contexts
                   randomCount := v.randomCount } ∧
      (∀ q, q ≠ p → v.partition q = s.partition q) ∧
      (∃ d, 0 < d ∧ d < sm2n - 1 ∧ v.partition p =
        { isOpen := true, basins := BitVec.ofNat 8 (fieldB c 9 1), ports := BitVec.ofNat 8 (fieldB c 10 1), peerBase := base
          peerCount := count, openedAt := max s.time t, mtbfSince := max s.time t, ephemeral := d, ephemeralPub := sm2Point d sm2G }) ∧
      (∀ b, v.basin b = if b < 8 ∧ bit (fieldB c 9 1) b = true then { s.basin b with state := .active } else s.basin b) ∧
      (∀ q, v.port q = if q < 8 ∧ bit (fieldB c 10 1) q = true ∧ (s.port q).plain = false then
        { s.port q with epoch := (s.port q).epoch + 1, bytes := [], media := (v.port q).media, keys := (v.port q).keys } else s.port q) ∧
      (∀ q < 8, bit (fieldB c 10 1) q = true → (s.port q).plain = false → ∃ k1 < 2 ^ 128, ∃ k2 < 2 ^ 128, (v.port q).keys = some (k1, k2)) ∧
      ∀ y, y ∈ v.contexts ↔ y ∈ s.contexts ∧ ¬ (base ≤ y.index ∧ y.index < base + count))

/-- R341, with R195 and R407 for the memory and R324 for the final status. When each step happens is log entry 43. -/
def Obligations.PartitionCloses : Prop :=
  (∀ (s : State) (t m : Nat), s.passes 0 m specPartitionClose → s.shaped = true →
    let p := fieldB (s.headCommand 0 m) 8 1
    (7 < p → ∃ u, exec (.partitionClose t 0 m) s = .next u ∧ Replies s s u t 0 m .badArgument []) ∧
    (p < 8 → (∃ b < 8, s.holdsBasin p b = true ∧ ((s.basin b).state = .draining ∨ s.busyBasin b = true)) →
      ∃ u, exec (.partitionClose t 0 m) s = .next u ∧ Replies s s u t 0 m .busy []) ∧
    (p < 8 → (∀ b < 8, s.holdsBasin p b = true → (s.basin b).state ≠ .draining ∧ s.busyBasin b = false) → s.switchOpen = false →
      ∃ u, exec (.partitionClose t 0 m) s = .next u ∧ (u.partition p).isOpen = true ∧ (u.partition p).closing = true ∧
        (u.mailbox 0 m).head = (s.mailbox 0 m).head + 1 ∧
        (u.mailbox 0 m).response ((s.mailbox 0 m).head.toNat % 256) = responseOf u (s.headTicket 0 m) .accepted [] ∧
        ⟨s.headTicket 0 m, .partitionClose p false⟩ ∈ u.opens ∧
        (∀ b < 8, s.holdsBasin p b = true → ∀ k < 16, (s.slot b k).isUsed = true → (u.slot b k).clearing = true) ∧
        ∀ b k, s.holdsBasin p b = false → (u.slot b k).clearing = (s.slot b k).clearing)) ∧
  ∀ (s : State) (t p : Nat) (o : OpenCmd) (failed : Bool), s.alive = true → s.shaped = true → p < 8 →
    s.findOpen (fun k => match k with | .partitionClose q _ => q == p | _ => false) = some o → o.kind = .partitionClose p failed →
    (∀ x ∈ s.flights, s.holdsBasin p x.basin = false) →
    (∀ b < 8, s.holdsBasin p b = true → ∀ y ∈ s.opens, s.openOn b y.kind = true → ∃ q g, y.kind = .partitionClose q g) →
    s.ticketOk o.ticket →
    ∃ u v, exec (.partitionCloseComplete t p) s = .next u ∧ Finishes s v u t o (if failed = true then .hardwareFault else .done) [] ∧
      v = { s with basins := v.basins, partitions := v.partitions, contexts := v.contexts, images := v.images, orphans := v.orphans
                   regions := v.regions, router := v.router, instances := v.instances, mem := v.mem, poison := v.poison
                   cxl := v.cxl, freeCount := v.freeCount } ∧
      v.partition p = {} ∧
      (∀ q, q ≠ p → v.partition q = { s.partition q with
        trees := (v.partition q).trees, cleanA := (v.partition q).cleanA, cleanB := (v.partition q).cleanB
        writtenPages := (v.partition q).writtenPages, touched := (v.partition q).touched }) ∧
      (∀ q, v.port q = { s.port q with
        bytes := (v.port q).bytes, poison := (v.port q).poison
        lastHolder := if (s.port q).lastHolder = some p then none else (s.port q).lastHolder }) ∧
      (∀ y ∈ v.contexts, ¬ ((s.partition p).peerBase ≤ y.index ∧ y.index < (s.partition p).peerBase + (s.partition p).peerCount)) ∧
      (∀ b < 8, s.holdsBasin p b = false → v.basin b = { s.basin b with cache := (v.basin b).cache }) ∧
      (∀ b < 8, s.holdsBasin p b = true →
        (v.basin b).state = (if (s.basin b).state = .active then .idle else (s.basin b).state) ∧
        (∀ k < 16, (v.slot b k).state = .empty ∧ (v.slot b k).clearing = false ∧ ∀ g, v.seg b k g = {}) ∧ (∀ j, v.cell b j = {}) ∧
        (v.basin b).tables = List.replicate 8 none ∧
        ∀ a, ¬ inRanges s.damagedUnits a → inRanges [(poolBase b, poolSize), (windowBase b, windowSize)] a → v.readByte a = 0) ∧
      KeepsBytesOutside ((s.basinsOf p).flatMap fun b => [(poolBase b, poolSize), (windowBase b, windowSize)]) s v

/-- R192 and Table 8.5. -/
def Obligations.SegmentsSet : Prop :=
  ∀ (s : State) (t f m : Nat) (buf : HostBuf), s.passes f m specSegmentSet → s.shaped = true →
    let c := s.headCommand f m
    let b := fieldB c 8 1
    let k := fieldB c 9 1
    let p := (s.partitionOf b).getD 8
    let run := exec (.segmentSet t f m buf) s
    (7 < b ∨ 15 < k ∨ (∀ a, bufferAt c 16 ≠ some (a, 64)) → ∃ u, run = .next u ∧ Replies s s u t f m .badArgument []) ∧
    ∀ a, b < 8 → k < 16 → bufferAt c 16 = some (a, 64) →
      (buf = none → ∃ u, run = .next u ∧ Replies s s u t f m .hardwareFault []) ∧
      ∀ bs : Bytes, buf = some bs → bs.length = 64 →
        let legal := ∀ i < 4, fieldB bs (16 * i + 6) 2 = 0 ∧ fieldB bs (16 * i + 14) 1 < 4 ∧ fieldB bs (16 * i + 15) 1 = 0 ∧
          LegalSegment s p (segRecAt bs (16 * i)) i
        (¬ legal → ∃ u, run = .next u ∧ Replies s s u t f m .badArgument []) ∧
        (legal → (s.slot b k).isUsed = true → ∃ u, run = .next u ∧ Replies s s u t f m .busy []) ∧
        (legal → (s.slot b k).isUsed = false → ∃ u v, run = .next u ∧ Replies s v u t f m .done [] ∧ v = { s with basins := v.basins } ∧
          (∀ e, e ≠ b → v.basin e = s.basin e) ∧ v.basin b = { s.basin b with slots := (v.basin b).slots } ∧
          (∀ j, j ≠ k → v.slot b j = s.slot b j) ∧
          v.slot b k = { s.slot b k with segs := (List.range 4).map fun i => {
            base := fieldB bs (16 * i) 6, size := fieldB bs (16 * i + 8) 6
            write := bit (fieldB bs (16 * i + 14) 1) 1, read := bit (fieldB bs (16 * i + 14) 1) 0 } })

/-- R191. A second change while one is open is BUSY. -/
def Obligations.PoolModeChanges : Prop :=
  (∀ (s : State) (t f m : Nat), s.passes f m specPoolModeSet →
    let c := s.headCommand f m
    let b := fieldB c 8 1
    let n := fieldB c 9 1
    let old := (s.basin b).cache.size
    let changing := ∃ o ∈ s.opens, ∃ q, o.kind = .poolMode b q
    let meets := ∃ p, s.partitionOf b = some p ∧ ∃ e < 8, s.holdsBasin p e = true ∧ ∃ x ∈ (s.basin e).slots,
      rangesMeet ((x.segs.getD 0 {}).base, (x.segs.getD 0 {}).size) (changedSections b old n) = true ∨
      rangesMeet ((x.segs.getD 3 {}).base, (x.segs.getD 3 {}).size) (changedSections b old n) = true
    let run := exec (.poolModeSet t f m) s
    (7 < b ∨ 4 < n → ∃ u, run = .next u ∧ Replies s s u t f m .badArgument []) ∧
    (b < 8 → n ≤ 4 → changing ∨ meets → ∃ u, run = .next u ∧ Replies s s u t f m .busy []) ∧
    (b < 8 → n ≤ 4 → ¬ changing → ¬ meets → n = old → ∃ u, run = .next u ∧ Replies s s u t f m .done (toLE 1 n)) ∧
    (b < 8 → n ≤ 4 → ¬ changing → ¬ meets → n ≠ old → s.switchOpen = false →
      ∃ u v, run = .next u ∧ Accepts s v u t f m (.poolMode b n) ∧ WritesMemory s v ∧ KeepsBytes s v ∧
        (∀ e, e ≠ b → v.basin e = s.basin e) ∧ (v.basin b).cache = { size := old })) ∧
  ∀ (s : State) (t b n : Nat) (o : OpenCmd), s.alive = true → s.shaped = true → b < 8 →
    s.findOpen (fun k => match k with | .poolMode q _ => q == b | _ => false) = some o → o.kind = .poolMode b n → s.ticketOk o.ticket →
    let old := (s.basin b).cache.size
    let first := poolBase b + (8 - max old n) * 0x01000000
    let size := (max old n - min old n) * 0x01000000
    ∃ u v, exec (.poolModeChangeComplete t b) s = .next u ∧ Finishes s v u t o .done (toLE 1 n) ∧
      v = { s with basins := v.basins, mem := v.mem, poison := v.poison } ∧ (∀ e, e ≠ b → v.basin e = s.basin e) ∧
      v.basin b = { s.basin b with cache := { size := n } } ∧
      (∀ a, first ≤ a → a < first + size → v.readByte a = 0) ∧ KeepsBytesOutside [(first, size)] s v ∧
      ∀ a, a ∈ v.poison ↔ a ∈ s.poison ∧ ¬ (first ≤ a ∧ a < first + size)

/-- R212, with R210 for the keys. That ATTACH is refused while a segment meets the range, and when the hot resets happen, is
log entry 49. -/
def Obligations.CxlPortsAttach : Prop :=
  (∀ (s : State) (t m : Nat), s.answers = true → s.nextCommand = some (0, m) → allZero (sliceB (s.headCommand 0 m) 4 4) = true →
    let c := s.headCommand 0 m
    let q := fieldB c 8 1
    (fieldB c 0 2 = 0x0303 → q < 8 → (s.port q).state ≠ .present ∨ s.portSegmented q = true →
      ∃ u, exec (.cxlPortAttach t 0 m) s = .next u ∧ Replies s s u t 0 m .stateRefused []) ∧
    (fieldB c 0 2 = 0x0304 → q < 8 → (s.port q).state ≠ .online →
      ∃ u, exec (.cxlPortDetach t 0 m) s = .next u ∧ Replies s s u t 0 m .stateRefused [])) ∧
  (∀ (s : State) (t m : Nat), s.passes 0 m specCxlPortAttach → s.shaped = true →
    let c := s.headCommand 0 m
    let q := fieldB c 8 1
    let run := exec (.cxlPortAttach t 0 m) s
    (7 < q → ∃ u, run = .next u ∧ Replies s s u t 0 m .badArgument []) ∧
    (q < 8 →
      ∃ u v, run = .next u ∧ Replies s v u t 0 m .done (toLE 8 (s.port q).mapped) ∧
        v = { s with cxl := v.cxl, randomCount := s.randomCount + 2 } ∧ (∀ e, e ≠ q → v.port e = s.port e) ∧
        (∃ k1 < 2 ^ 128, ∃ k2 < 2 ^ 128, (v.port q).keys = some (k1, k2)) ∧
        v.port q = { s.port q with state := .online, plain := bit (fieldB c 9 1) 0, epoch := (s.port q).epoch + 1
                                   keys := (v.port q).keys, linkUp := true, downSince := none
                                   resetUntil := max s.time t + 100000000 })) ∧
  (∀ (s : State) (t m : Nat), s.passes 0 m specCxlPortDetach → s.shaped = true →
    let q := fieldB (s.headCommand 0 m) 8 1
    let run := exec (.cxlPortDetach t 0 m) s
    (7 < q → ∃ u, run = .next u ∧ Replies s s u t 0 m .badArgument []) ∧
    (q < 8 → s.portSegmented q = true ∨ s.holderOf q ≠ none →
      ∃ u, run = .next u ∧ Replies s s u t 0 m .busy []) ∧
    (q < 8 → s.portSegmented q = false → s.holderOf q = none → s.switchOpen = false →
      ∃ u v w, run = .next u ∧ Accepts s v u t 0 m (.cxlDetach q) ∧ WritesMemory s w ∧ KeepsBytes s w ∧ v = { w with cxl := v.cxl } ∧
        (∀ e, e ≠ q → v.port e = s.port e ∧ v.basin e = s.basin e) ∧ v.port q = { w.port q with state := .detaching } ∧
        v.basin q = { s.basin q with cache := { (s.basin q).cache with lines := (v.basin q).cache.lines } } ∧
        ∀ l, l ∈ (v.basin q).cache.lines ↔
          l ∈ (s.basin q).cache.lines ∧ ¬ (cxlBase q ≤ 256 * l.2.line ∧ 256 * l.2.line < cxlBase (q + 1)))) ∧
  ∀ (s : State) (t q : Nat) (o : OpenCmd), s.alive = true → s.shaped = true → q < 8 →
    s.findOpen (fun k => k == .cxlDetach q) = some o → (s.port q).state = .detaching → (s.port q).linkUp = true →
    (∀ x ∈ s.flights, ∀ r ∈ x.writes, rangesMeet r (cxlBase q, 0x20000000000) = false) → s.ticketOk o.ticket →
    ∃ u v, exec (.cxlDetachComplete t q) s = .next u ∧ Finishes s v u t o .done [] ∧ v = { s with cxl := v.cxl } ∧
      (∀ e, e ≠ q → v.port e = s.port e) ∧
      v.port q = { s.port q with state := .present, plain := false, epoch := (s.port q).epoch + 1, bytes := [], keys := none
                                 media := (v.port q).media, resetUntil := max s.time t + 100000000 }

/-- R343, R344. When the stream is written, and a slot started meanwhile: log entry 44. -/
def Obligations.LoadsInstall : Prop :=
  (∀ (s : State) (t f m : Nat) (buf : HostBuf), s.passes f m specProgramLoad →
    let c := s.headCommand f m
    let b := fieldB c 8 1
    let k := fieldB c 9 1
    let off := fieldB c 16 6
    let run := exec (.programLoad t f m buf) s
    (7 < b ∨ 15 < k ∨ bufferAt c 24 = none → ∃ u, run = .next u ∧ Replies s s u t f m .badArgument []) ∧
    ∀ a n, b < 8 → k < 16 → bufferAt c 24 = some (a, n) →
      (s.streamFits b k off n = false → ∃ u, run = .next u ∧ Replies s s u t f m .badArgument []) ∧
      (s.streamFits b k off n = true → buf = none → ∃ u, run = .next u ∧ Replies s s u t f m .hardwareFault []) ∧
      ∀ bs : Bytes, buf = some bs → bs.length = n → s.streamFits b k off n = true →
        ((s.slot b k).isUsed = true → ∃ u, run = .next u ∧ Replies s s u t f m .busy []) ∧
        ((s.slot b k).isUsed = false → s.switchOpen = false →
          ∃ u, run = .next u ∧ Accepts s s u t f m (.programLoad b k off ((s.seg b k 1).base + off) bs))) ∧
  (∀ (s : State) (t b k off a : Nat) (bs : Bytes) (o : OpenCmd), s.alive = true → s.shaped = true → s.memoryOk = true → b < 8 → k < 16 →
    s.findOpen (fun y => match y with | .programLoad c j _ _ _ => c == b && j == k | _ => false) = some o →
    o.kind = .programLoad b k off a bs → windowBase 0 ≤ a → a + bs.length ≤ windowBase 8 → s.ticketOk o.ticket → s.capturing = false →
    ∃ u v w, exec (.programLoadComplete t b k) s = .next u ∧ Finishes s v u t o .done (sm3 bs ++ toLE 4 bs.length) ∧
      WritesMemory s w ∧ v = { w with basins := v.basins } ∧ (∀ e, v.basin e = { w.basin e with slots := (v.basin e).slots }) ∧
      v.read a bs.length = bs ∧ KeepsBytesOutside [(a, bs.length)] s v ∧
      (∀ e j, (e, j) ≠ (b, k) → v.slot e j = s.slot e j) ∧
      v.slot b k = { s.slot b k with
        streamOff := off, length := bs.length, digest := sm3 bs
        state := if (s.slot b k).isUsed = true then (s.slot b k).state else .loaded
        position := if (s.slot b k).isUsed = true then (s.slot b k).position else 0 }) ∧
  (∀ (s : State) (t f m : Nat) (buf : HostBuf), s.passes f m specTableLoad →
    let c := s.headCommand f m
    let bs := fieldB c 8 1
    let n := fieldB c 9 1
    let run := exec (.tableLoad t f m buf) s
    (bs = 0 ∨ 7 < n ∨ (∀ a, bufferAt c 16 ≠ some (a, 24640)) → ∃ u, run = .next u ∧ Replies s s u t f m .badArgument []) ∧
    ∀ a, bs ≠ 0 → n < 8 → bufferAt c 16 = some (a, 24640) →
      (buf = none → ∃ u, run = .next u ∧ Replies s s u t f m .hardwareFault []) ∧
      ∀ r : Bytes, buf = some r → r.length = 24640 →
        (tableLegal r = false → ∃ u, run = .next u ∧ Replies s s u t f m .badArgument []) ∧
        (tableLegal r = true → s.switchOpen = false → ∃ u, run = .next u ∧ Accepts s s u t f m (.tableLoad bs n r false))) ∧
  ∀ (s : State) (t n bs : Nat) (r : Bytes) (failed : Bool) (o : OpenCmd), s.alive = true → s.shaped = true → n < 8 →
    o.kind = .tableLoad bs n r failed → bs ≠ 0 →
    (∃ xs ys, s.opens = xs ++ o :: ys ∧ ∀ x ∈ xs, ∀ cs r' f', x.kind = .tableLoad cs n r' f' →
      bs &&& cs = 0 ∧ ∃ y ∈ s.flights, y.table = some n ∧ bit cs y.basin = true) →
    (∀ x ∈ s.flights, x.table = some n → bit bs x.basin = false) → s.ticketOk o.ticket →
    ∃ u v, exec (.tableLoadComplete t n) s = .next u ∧ Finishes s v u t o (if failed = true then .hardwareFault else .done) (sm3 r) ∧
      v = { s with basins := v.basins } ∧ (∀ b, v.basin b = { s.basin b with tables := (v.basin b).tables }) ∧
      ∀ b < 8, ∀ j < 8, (v.basin b).tables.getD j none =
        if j = n ∧ bit bs b = true ∧ (s.basin b).state = .active then some r else (s.basin b).tables.getD j none

/-- R297, R298, R347. -/
def Obligations.StillPlansSet : Prop :=
  (∀ (s : State) (t f m : Nat), s.passes f m specStillPlan → s.shaped = true →
    let c := s.headCommand f m
    let p := fieldB c 8 1
    let period := fieldB c 12 4 * 1000
    let first := fieldB c 16 8
    let y := s.partition p
    let now := max s.time t
    let opened := (s.now t).windowOpen p y.ruling = true
    let run := exec (.stillPlan t f m) s
    let ok := p < 8 ∧ (period = 0 ∧ first = 0 ∨ 100000 ≤ period ∧ period ≤ 600000000000 ∧ now < first ∧
        (opened → y.ruling.next + y.ruling.window < first) ∧
        (s.pulsesCount p y.plan = true → 1000 ≤ y.plan.window ∧ y.plan.window ≤ 1000000 ∧ 10 * y.plan.window ≤ period))
    (¬ ok → ∃ u, run = .next u ∧ Replies s s u t f m .badArgument []) ∧
    (ok → ∃ u v, run = .next u ∧ Replies s v u t f m .done [] ∧ v = { s with partitions := v.partitions } ∧
      (∀ q, q ≠ p → v.partition q = s.partition q) ∧ v.partition p = { y with
        plan := { y.plan with period := period, next := first }, windowPlan := (v.partition p).windowPlan, stillQueued := false } ∧
      (opened → (v.partition p).windowPlan = some y.ruling) ∧ (¬ opened → (v.partition p).windowPlan = y.windowPlan))) ∧
  ∀ (s : State) (t f m : Nat), s.passes f m (specStillWindowSet) → s.shaped = true →
    let c := s.headCommand f m
    let p := fieldB c 8 1
    let source := fieldB c 9 1
    let tree := fieldB c 10 1
    let echo := fieldB c 11 1
    let w := fieldB c 12 2 * 1000
    let y := s.partition p
    let opened := (s.now t).windowOpen p y.ruling = true
    let run := exec (.stillWindowSet t f m) s
    let ok := p < 8 ∧ (source < 2 ∧ tree = 0 ∨ source = 2 ∧ s.tree p tree ≠ none) ∧ (echo = 0xFF ∨ echo = 0x80 ∨ echo < 8) ∧
      1000 ≤ w ∧ w ≤ 1000000 ∧ (y.plan.period = 0 ∨ 10 * w ≤ y.plan.period)
    (¬ ok → ∃ u, run = .next u ∧ Replies s s u t f m .badArgument []) ∧
    (ok → ∃ u v, run = .next u ∧ Replies s v u t f m .done [] ∧
      v = { s with partitions := v.partitions, echo := if echo = 0xFF then s.echo else if echo = 0x80 then none else some echo } ∧
      (∀ q, q ≠ p → v.partition q = s.partition q) ∧ v.partition p = { y with
        plan := { y.plan with source := if source = 0 then .off else if source = 1 then .pin else .tree tree, window := w }
        windowPlan := (v.partition p).windowPlan } ∧
      (opened → (v.partition p).windowPlan = some y.ruling) ∧ (¬ opened → (v.partition p).windowPlan = y.windowPlan))

/-- R240, R244, R349. Queued messages count as unacknowledged: log entry 45. -/
def Obligations.RouteAndPeerTables : Prop :=
  (∀ (s : State) (t m a : Nat) (buf : HostBuf), s.passes 0 m specRouteTableLoad → bufferAt (s.headCommand 0 m) 16 = some (a, 5136) →
    let run := exec (.routeTableLoad t 0 m buf) s
    (buf = none → ∃ u, run = .next u ∧ Replies s s u t 0 m .hardwareFault []) ∧
    ∀ bs : Bytes, buf = some bs → bs.length = 5136 →
      let entry (i : Nat) : Bytes := sliceB bs (16 + 16 * i) 16
      let legal := fieldB bs 0 2 ≤ 16383 ∧ allZero (sliceB bs 2 14) = true ∧ ∀ i < 320,
        (∀ j < 48, bit (fieldB (entry i) 0 6) j = true ∨ bit (fieldB (entry i) 6 6) j = true → s.subExists j = true) ∧
        fieldB (entry i) 12 1 % 128 = 0 ∧ allZero (sliceB (entry i) 13 3) = true
      (¬ legal → ∃ u, run = .next u ∧ Replies s s u t 0 m .badArgument []) ∧
      (legal → ∃ u v, run = .next u ∧ Replies s v u t 0 m .done [] ∧
        MovesMessages { s with deviceId := fieldB bs 0 2 } v ∧
        (∀ i < 256, v.router.groupTable.getD i {} = ⟨BitVec.ofNat 48 (fieldB (entry i) 0 6), BitVec.ofNat 48 (fieldB (entry i) 6 6),
          bit (fieldB (entry i) 12 1) 7⟩) ∧
        ∀ i < 64, v.router.memberTable.getD i {} = ⟨BitVec.ofNat 48 (fieldB (entry (256 + i)) 0 6),
          BitVec.ofNat 48 (fieldB (entry (256 + i)) 6 6), bit (fieldB (entry (256 + i)) 12 1) 7⟩)) ∧
  ∀ (s : State) (t f m a : Nat) (bs : Bytes), s.passes f m (specPeerTableLoad s) → s.shaped = true →
    let c := s.headCommand f m
    let p := fieldB c 8 1
    let first := fieldB c 12 2
    let n := fieldB c 14 2
    let record (i : Nat) : Bytes := sliceB bs (32 * i) 32
    let run := exec (.peerTableLoad t f m (some bs)) s
    p < 8 → 0 < n → first + n ≤ 16384 → (∀ i < n, s.ownsContext p (first + i) = true) → bufferAt c 16 = some (a, 32 * n) →
    bs.length = 32 * n →
    let ids := ((s.contexts.filter fun y => s.ownsContext p y.index && !(first ≤ y.index && y.index < first + n)).map (·.peerId)) ++
      (((List.range n).map record).filter recValid).map fun r => fieldB r 0 2
    let legal := (∀ i < n, s.peerRecordLegal p (record i) = true) ∧ ids.Nodup
    let busy := ∃ y ∈ s.contexts, first ≤ y.index ∧ y.index < first + n ∧ s.ctxBusy p y = true
    (¬ legal → ∃ u, run = .next u ∧ Replies s s u t f m .badArgument []) ∧
    (legal → busy → ∃ u, run = .next u ∧ Replies s s u t f m .busy []) ∧
    (legal → ¬ busy → ∃ u v, run = .next u ∧ Replies s v u t f m .done [] ∧
      v = { s with contexts := v.contexts, partitions := v.partitions, basins := v.basins, router := v.router, counters := v.counters } ∧
      (∀ i < n, ∀ y ∈ v.contexts, y.index = first + i → recValid (record i) = true ∧ y.peerId = fieldB (record i) 0 2 ∧
        y.encrypt = bit (fieldB (record i) 2 1) 6 ∧ y.keyRef = fieldB (record i) 12 4 ∧ y.record = record i ∧ y.lost = false) ∧
      (∀ i < n, recValid (record i) = true → ∃ y ∈ v.contexts, y.index = first + i) ∧
      ∀ y ∈ v.contexts, y.index < first ∨ first + n ≤ y.index →
        ∃ x ∈ s.contexts, x.index = y.index ∧ x.record = y.record ∧ x.peerId = y.peerId)

/-- R258, R292, R350, R173. The checks beyond R350's list are log entry 45. -/
def Obligations.GroupsAndTrees : Prop :=
  (∀ (s : State) (t f m a : Nat) (bs : Bytes), s.passes f m specGroupDefine → s.shaped = true →
    let c := s.headCommand f m
    let p := fieldB c 8 1
    let g := groupOf bs
    let run := exec (.groupDefine t f m (some bs)) s
    p < 8 → bufferAt c 16 = some (a, bs.length) → 64 ≤ bs.length → bs.length ≤ 196672 →
    (s.groupLegal p bs = true → bs.length = (64 + 2 * g.members.length + 63) / 64 * 64 + (if g.hasMap = true then 65536 else 0) ∧
      g.gid = fieldB bs 0 1 ∧ 1 ≤ g.minJoin ∧ g.minJoin ≤ g.members.length ∧ g.weir ≤ 1000000 ∧
      ∀ d ∈ g.members, d = s.deviceId ∨ s.ctxFor p d ≠ none) ∧
    (s.groupLegal p bs = false → ∃ u, run = .next u ∧ Replies s s u t f m .badArgument []) ∧
    (s.groupLegal p bs = true → s.groupBusy p g.gid = true → ∃ u, run = .next u ∧ Replies s s u t f m .busy []) ∧
    (s.groupLegal p bs = true → s.groupBusy p g.gid = false → ∃ u v, run = .next u ∧ Replies s v u t f m .done [] ∧
      v = { s with partitions := v.partitions } ∧ (∀ q, q ≠ p → v.partition q = s.partition q) ∧
      v.partition p = { s.partition p with groups := (v.partition p).groups } ∧
      ∀ h, h ∈ (v.partition p).groups ↔ h = g ∨ h ∈ (s.partition p).groups ∧ h.gid ≠ g.gid)) ∧
  (∀ (s : State) (t f m : Nat), s.passes f m specWeirSet → s.shaped = true →
    let c := s.headCommand f m
    let p := fieldB c 8 1
    let gid := fieldB c 9 1
    let weir := fieldB c 12 4
    let minJoin := fieldB c 16 2
    let run := exec (.weirSet t f m) s
    p < 8 →
    ((∀ g ∈ (s.partition p).groups, g.gid ≠ gid) → ∃ u, run = .next u ∧ Replies s s u t f m .badArgument []) ∧
    ∀ g, (s.partition p).groups.find? (fun h => h.gid == gid) = some g →
      (1000000 < weir ∨ minJoin < 1 ∨ g.members.length < minJoin → ∃ u, run = .next u ∧ Replies s s u t f m .badArgument []) ∧
      (weir ≤ 1000000 → 1 ≤ minJoin → minJoin ≤ g.members.length → ∃ u v, run = .next u ∧ Replies s v u t f m .done [] ∧
        v = { s with partitions := v.partitions } ∧ (∀ q, q ≠ p → v.partition q = s.partition q) ∧
        v.partition p = { s.partition p with groups := (v.partition p).groups } ∧
        ∀ i, (v.partition p).groups[i]? = ((s.partition p).groups[i]?).map fun (h : GroupRec) =>
          if h.gid = gid then { h with weir := weir, weirFromStill := bit (fieldB c 10 1) 0, minJoin := minJoin
                                       record := ((v.partition p).groups.getD i h).record } else h)) ∧
  (∀ (s : State) (t f m : Nat), s.passes f m specSyncTreeDefine → s.shaped = true →
    let c := s.headCommand f m
    let p := fieldB c 8 1
    let r := sliceB c 16 40
    let n := fieldB r 0 1
    let busy := (∃ y ∈ (s.partition p).trees, y.treeId = n ∧ y.outstanding ≠ none) ∨
      ∃ g ∈ (s.partition p).groups, g.tree = n ∧ s.groupBusy p g.gid = true
    let run := exec (.syncTreeDefine t f m) s
    p < 8 →
    (s.treeLegal p r = false → ∃ u, run = .next u ∧ Replies s s u t f m .badArgument []) ∧
    (s.treeLegal p r = true → busy → ∃ u, run = .next u ∧ Replies s s u t f m .busy []) ∧
    (s.treeLegal p r = true → ¬ busy → ∃ u v, run = .next u ∧ Replies s v u t f m .done [] ∧
      v = { s with partitions := v.partitions } ∧ (∀ q, q ≠ p → v.partition q = s.partition q) ∧
      v.partition p = { s.partition p with trees := (v.partition p).trees } ∧
      ∀ h, h ∈ (v.partition p).trees ↔ h = treeOf r ∨ h ∈ (s.partition p).trees ∧ h.treeId ≠ n)) ∧
  ∀ (s : State) (t f m : Nat), s.passes f m specGenerationCancel → s.shaped = true →
    let c := s.headCommand f m
    let p := fieldB c 8 1
    let g := fieldB c 12 2
    let all := bit (fieldB c 10 1) 0
    let run := exec (.generationCancel t f m) s
    p < 8 →
    (fieldB c 9 1 = 0 → ∃ u, run = .next u ∧ Replies s s u t f m .badArgument []) ∧
    (fieldB c 9 1 ≠ 0 → (∀ b < 8, bit (fieldB c 9 1) b = true → s.holdsBasin p b = true) →
      ∃ u v, run = .next u ∧ Replies s v u t f m .done [] ∧ v = { s with basins := v.basins } ∧
        (∀ b, v.basin b = { s.basin b with generations := (v.basin b).generations }) ∧
        ∀ b h, h ∈ (v.basin b).generations.outstanding ↔ h ∈ (s.basin b).generations.outstanding ∧
          ¬ (b < 8 ∧ bit (fieldB c 9 1) b = true ∧ (h = g ∨ all = true ∧ (g + 65536 - h % 65536) % 65536 < 4096)))

/-- R257, R255, R256. The order of the answers is log entry 45, the restart after training log entry 28. -/
def Obligations.PortCommands : Prop :=
  (∀ (s : State) (t m : Nat), s.passes 0 m specPortModeSet → s.shaped = true →
    let p := fieldB (s.headCommand 0 m) 8 1
    let mode := fieldB (s.headCommand 0 m) 9 1
    let others := ∃ i < 48, i / 4 ≠ p ∧ ((s.sub i).state = .training ∨ (s.sub i).state = .retraining)
    let run := exec (.portModeSet t 0 m) s
    (11 < p ∨ 2 < mode → ∃ u, run = .next u ∧ Replies s s u t 0 m .badArgument []) ∧
    (p < 12 → mode < 3 →
      (others → ∃ u, run = .next u ∧ Replies s s u t 0 m .busy []) ∧
      (¬ others → mode = s.portModes.getD p 0 → ∃ u, run = .next u ∧ Replies s s u t 0 m .done []) ∧
      (¬ others → mode ≠ s.portModes.getD p 0 → s.portFailed.getD p false = true →
        ∃ u, run = .next u ∧ Replies s s u t 0 m .hardwareFault []) ∧
      (¬ others → mode ≠ s.portModes.getD p 0 → s.portFailed.getD p false = false → s.switchOpen = false → s.portModes.length = 12 →
        (∀ j < 4, s.soundInput (4 * p + j)) →
        ∃ u v, run = .next u ∧ Accepts s v u t 0 m (.portMode p) ∧
          MovesMessages { s with portModes := v.portModes } v ∧
          (∀ e, v.portModes.getD e 0 = if e = p then mode else s.portModes.getD e 0) ∧
          (∀ j < 4, (v.sub (4 * p + j)).state = if j < 2 ^ mode then .training else .off) ∧
          ∀ i, i / 4 ≠ p → (v.sub i).state = (s.sub i).state))) ∧
  (∀ (s : State) (t m : Nat), s.passes 0 m specPortRetrain → s.shaped = true →
    let i := fieldB (s.headCommand 0 m) 8 1
    let others := ∃ j < 48, j ≠ i ∧ ((s.sub j).state = .training ∨ (s.sub j).state = .retraining)
    let run := exec (.portRetrain t 0 m) s
    (47 < i ∨ 2 ^ s.portModes.getD (i / 4) 0 ≤ i % 4 → ∃ u, run = .next u ∧ Replies s s u t 0 m .badArgument []) ∧
    (i < 48 → i % 4 < 2 ^ s.portModes.getD (i / 4) 0 →
      (others → ∃ u, run = .next u ∧ Replies s s u t 0 m .busy []) ∧
      (¬ others → s.portFailed.getD (i / 4) false = true → ∃ u, run = .next u ∧ Replies s s u t 0 m .hardwareFault []) ∧
      (¬ others → s.portFailed.getD (i / 4) false = false → s.switchOpen = false → s.soundInput i →
        ∃ u v, run = .next u ∧ Accepts s v u t 0 m (.portRetrain i) ∧ MovesMessages s v ∧
          (v.sub i).state = (if (s.sub i).state = .up then .retraining else .training) ∧ (v.sub i).attempts = 0 ∧
          ∀ j, j ≠ i → (v.sub j).state = (s.sub j).state))) ∧
  (∀ (s : State) (t i : Nat) (bad : List Nat), s.alive = true → s.shaped = true → s.subExists i = true →
    (s.sub i).state = .training ∨ (s.sub i).state = .retraining → (∀ o ∈ s.opens, s.trainedBy o.kind = []) →
    let w := 8 / 2 ^ s.portModes.getD (i / 4) 0
    (bad = [] → ∃ u, exec (.trainingComplete t i bad) s = .next u ∧
      MovesMessages (s.now t) u ∧
      (u.sub i).state = .up ∧ (u.sub i).lanes = w ∧ (u.sub i).attempts = 0 ∧ (u.sub i).rxNext = 0 ∧ (u.sub i).txSeq = 0 ∧
      ∀ j, j ≠ i → (u.sub j).state = (s.sub j).state) ∧
    (∃ u, exec (.trainingAttemptFailed t i) s = .next u ∧
      u = { s with time := max s.time t, subPorts := u.subPorts, funcs := u.funcs, msix := u.msix, ibis := u.ibis, alertTotals := u.alertTotals } ∧
      (∀ j, j ≠ i → u.sub j = s.sub j) ∧
      u.sub i = (if (s.sub i).attempts < 2 then { s.sub i with attempts := (s.sub i).attempts + 1 }
        else { s.sub i with state := .failed, attempts := 0 }) ∧
      (2 ≤ (s.sub i).attempts → (u.alert 0 12).flag = true ∧ (u.alert 0 12).detail = BitVec.ofNat 8 i))) ∧
  (∀ (s : State) (t i : Nat) (o : OpenCmd), s.alive = true → s.shaped = true → s.subExists i = true →
    (s.sub i).state = .training ∨ (s.sub i).state = .retraining →
    s.opens.filter (fun x => !(s.trainedBy x.kind).isEmpty) = [o] → o.kind = .portRetrain i → s.ticketOk o.ticket →
    ∃ u v, exec (.trainingComplete t i []) s = .next u ∧ Finishes s v u t o .done [] ∧
      MovesMessages s v ∧ (v.sub i).state = .up) ∧
  ∀ (s : State) (t i : Nat), s.alive = true → s.shaped = true → (s.sub i).state = .up → s.soundInput i →
    ∃ u, exec (.lossOfLock t i) s = .next u ∧ MovesMessages (s.now t) u ∧
      (u.sub i).state = .retraining ∧ (u.sub i).attempts = 0 ∧ ∀ j, j ≠ i → (u.sub j).state = (s.sub j).state

/-- R352, R380. The question that goes to the partner has the layout of log entry 37. -/
def Obligations.ReflectPairing : Prop :=
  (∀ (s : State) (t f m : Nat), s.passes f m specReflectPair →
    let c := s.headCommand f m
    let p := fieldB c 8 1
    p < 8 → bit (fieldB c 9 1) 1 = true → bit (fieldB c 9 1) 0 = false → (∀ i, 10 ≤ i → i < 64 → fieldB c i 1 = 0) →
    (s.partition p).capture = none → (∀ o ∈ s.opens, pairingOf p o.kind = false) →
    ∃ u v, exec (.reflectPair t f m) s = .next u ∧ Replies s v u t f m .done [] ∧ v = { s with partitions := v.partitions } ∧
      ∀ q, v.partition q =
        if q = p then { s.partition p with partner := none, flushPending := false } else s.partition q) ∧
  (∀ (s : State) (t f m : Nat) (x : PeerCtx), s.passes f m specReflectPair →
    let c := s.headCommand f m
    let p := fieldB c 8 1
    let part := fieldB c 12 1
    let off := fieldB c 16 6
    let size := fieldB c 24 8
    let coFed := bit (fieldB c 9 1) 0
    p < 8 → bit (fieldB c 9 1) 1 = false → s.reaches p (fieldB c 10 2) 0 x → part < 8 → size % 4096 = 0 → size ≤ 480 * 2 ^ 30 →
    (s.partition p).capture = none → s.switchOpen = false → (∀ o ∈ s.opens, pairingOf p o.kind = false) →
    ∃ u v, exec (.reflectPair t f m) s = .next u ∧ Takes s v u t f m ∧
      Handed { s with opens := s.opens ++ [⟨s.headTicket f m, .reflectAsk p (fieldB c 10 2) part off size coFed⟩] } v (max s.time t) x
        (feedQuestion p part off size coFed) .none) ∧
  (∀ (s : State) (t f m : Nat) (x : PeerCtx), s.passes f m specReflectPair →
    let c := s.headCommand f m
    let p := fieldB c 8 1
    p < 8 → bit (fieldB c 9 1) 1 = false → s.ctxFor p (fieldB c 10 2) = some x → x.lost = true →
    fieldB c 12 1 < 8 → fieldB c 24 8 % 4096 = 0 → fieldB c 24 8 ≤ 480 * 2 ^ 30 →
    (s.partition p).capture = none → s.switchOpen = false → (∀ o ∈ s.opens, pairingOf p o.kind = false) →
    ∃ u v, exec (.reflectPair t f m) s = .next u ∧ Replies s v u t f m .hardwareFault [] ∧ v = { s with partitions := v.partitions } ∧
      ∀ q, v.partition q = if q = p then { s.partition p with partner := none } else s.partition q) ∧
  ∀ (s : State) (t p dev part off size feed : Nat) (coFed ok : Bool) (o : OpenCmd), s.alive = true → p < s.partitions.length →
    s.findOpen (fun k => match k with | .reflectPair q .. => q == p | _ => false) = some o →
    o.kind = .reflectPair p dev part off size coFed feed → s.ticketOk o.ticket →
    ∃ u v, exec (.partnerConfirm t p ok) s = .next u ∧ v = { s with partitions := v.partitions } ∧
      (∀ q, q ≠ p → v.partition q = s.partition q) ∧
      if ok then
        Finishes s v u t o .done (toLE 1 feed ++ toLE 1 coFed.toNat) ∧
          v.partition p = { s.partition p with
            cleanA := [], cleanB := []
            partner := some { id := dev, part := part, regionOff := off, regionSize := size, coFed := coFed } }
      else Finishes s v u t o .hardwareFault [] ∧ v.partition p = { s.partition p with partner := none }

/-- R353, R375, R263. The result before a reflection has been measured is free (log entries 13, 46). FAILURE_NOTICE is stated
where no instance is in flight; with one, the instances go on as JoinsAndStarts and CollectiveMessages say. -/
def Obligations.FleetHealthCommands : Prop :=
  (∀ (s : State) (t f m : Nat), s.passes f m specReflectIntervalSet →
    let c := s.headCommand f m
    let p := fieldB c 8 1
    (7 < p → ∃ u, exec (.reflectIntervalSet t f m) s = .next u ∧ Replies s s u t f m .badArgument []) ∧
    (p < 8 → ∃ u v r, exec (.reflectIntervalSet t f m) s = .next u ∧ Replies s v u t f m .done (toLE 4 r) ∧
      v = { s with partitions := v.partitions, freeCount := v.freeCount } ∧
      (∀ q, v.partition q = if q = p then
        { s.partition p with mtbf := fieldB c 12 4, mtbfSince := max s.time t, mtbfNotices := 0 } else s.partition q) ∧
      ∀ q, (s.partition p).partner = some q → q.measured.isSome = true →
        r = q.interval / 1000000000 ∧ v.freeCount = s.freeCount)) ∧
  (∀ (s : State) (t m : Nat), s.passes 0 m specSoundingThresholdSet →
    let v := fieldB (s.headCommand 0 m) 8 1
    (v = 0 → ∃ u, exec (.soundingThresholdSet t 0 m) s = .next u ∧ Replies s s u t 0 m .badArgument []) ∧
    (v ≠ 0 → ∃ u, exec (.soundingThresholdSet t 0 m) s = .next u ∧ Replies s { s with thresholdSet := v } u t 0 m .done [])) ∧
  ∀ (s : State) (t m : Nat), s.passes 0 m specFailureNotice → s.instances = [] → s.shaped = true →
    let dev := fieldB (s.headCommand 0 m) 8 2
    let last := s.notices.filter fun n => max s.time t < n.1 + 60000000000
    (16383 < dev → ∃ u, exec (.failureNotice t 0 m) s = .next u ∧ Replies s s u t 0 m .badArgument []) ∧
    (dev < 16384 → ∃ u v, exec (.failureNotice t 0 m) s = .next u ∧ Replies s v u t 0 m .done [] ∧
      v = { s with notices := last ++ [(max s.time t, dev)], partitions := v.partitions } ∧
      ∀ p < 8, v.partition p = { s.partition p with
          groups := (v.partition p).groups, mtbfNotices := (v.partition p).mtbfNotices, partner := (v.partition p).partner } ∧
        (v.partition p).groups = (s.partition p).groups.map (fun g =>
          if dev ∈ g.members ∧ dev ∉ g.lost then { g with lost := g.lost ++ [dev] } else g) ∧
        (v.partition p).mtbfNotices = (s.partition p).mtbfNotices + if ∃ n ∈ last, n.2 = dev then 0 else 1)

/-- R354, R388, R389. What the holder answers is the command's operand (log entries 5 and 39). -/
def Obligations.RestoreAndReplay : Prop :=
  (∀ (s : State) (t f m : Nat) (x : PeerCtx) (found : Option RestoreAnswer), s.passes f m (specRestoreBegin s) →
    let c := s.headCommand f m
    let p := fieldB c 8 1
    let source := fieldB c 9 1
    let dev := fieldB c 10 2
    let ask := tc0 0x35 (fieldB c 12 1) 0 (toLE 1 source ++ toLE 1 p ++ toLE 8 (fieldB c 16 8))
    p < 8 → source < 2 → fieldB c 12 1 < 8 → s.anyRunning p = false → (s.partition p).restore = none → s.reaches p dev 0 x →
    (found = none → ∃ u v, exec (.restoreBegin t f m found) s = .next u ∧ Handed s v (max s.time t) x ask .none ∧
      Replies s v u t f m .badArgument []) ∧
    ∀ a, found = some a → s.answerFits p (fieldB c 16 8) a = true → s.switchOpen = false →
      (s.partition p).capture = none → (s.partition p).checkpoint = none →
      ∃ u v w, exec (.restoreBegin t f m found) s = .next u ∧ Handed s v (max s.time t) x ask .none ∧
        Accepts s w u t f m (.restore p dev (sliceB a.record 0 64) (sliceB a.deviceArea 0 131072)) ∧
        w = { v with partitions := w.partitions } ∧
        ∀ q, w.partition q = if q = p then { s.partition p with cleanA := [], cleanB := [], restore := some {} } else s.partition q) ∧
  ∀ (s : State) (t f m : Nat), s.passes f m specReplayVerify →
    let c := s.headCommand f m
    let p := fieldB c 8 1
    let b := fieldB c 9 1
    let k := fieldB c 10 1
    let off := fieldB c 16 6
    p < 8 → b < 8 → k < 16 → s.holdsBasin p b = true → off + 4 ≤ (s.seg b k 0).size →
    ((s.slot b k).state ≠ .finished → ∃ u, exec (.replayVerify t f m) s = .next u ∧ Replies s s u t f m .busy []) ∧
    ((s.slot b k).state = .finished →
      let r := leNat (s.read (s.segAddr b k 0 off) 4)
      let old := fieldB c 24 4
      ∃ u d, exec (.replayVerify t f m) s = .next u ∧ Replies s s u t f m .done (toLE 1 d ++ zeros 3 ++ toLE 4 r) ∧
        d = (if lossMatches (bit (fieldB c 11 1) 0) r old (fieldB c 28 4) = true then 0 else 1) ∧
        (bit (fieldB c 11 1) 0 = true → (d = 0 ↔ r = old ∧ (f32 r).isNaN = false)) ∧
        ((f32 r).isNaN = true ∨ (f32 old).isNaN = true → d = 1))
/-- R396, R398. The signature's random draw is free (log entry 10); when digests are kept is log entry 47. -/
def Obligations.AttestationReports : Prop :=
  (∀ (s : State) (t f m : Nat), s.passes f m specAttestReport →
    let c := s.headCommand f m
    let p := fieldB c 8 1
    let part := if p = 255 then none else some p
    let body := s.reportBody part (sliceB c 32 32)
    let total := body.length + 64 + s.chain.length
    (7 < p → p ≠ 255 → ∃ u, exec (.attestReport t f m) s = .next u ∧ Replies s s u t f m .badArgument []) ∧
    (p < 8 ∨ p = 255 →
      (bufferAt c 16 = none → ∃ u, exec (.attestReport t f m) s = .next u ∧ Replies s s u t f m .badArgument []) ∧
      ∀ a n, bufferAt c 16 = some (a, n) →
        (n < total → ∃ u, exec (.attestReport t f m) s = .next u ∧ Replies s s u t f m .badArgument (toLE 4 total)) ∧
        (total ≤ n → s.switchOpen = false → ∃ u v k, exec (.attestReport t f m) s = .next u ∧
          Accepts s v u t f m (.attest part a (body ++ sm2Sign identityKey k body ++ s.chain)) ∧
          v = { s with randomCount := s.randomCount + 1 } ∧ 0 < k ∧ k < sm2n))) ∧
  (∀ (s : State) (part : Option Nat) (nonce : Bytes), nonce.length = 32 →
    let body := s.reportBody part nonce
    fieldB body 0 2 = 1 ∧ (fieldB body 2 1 = 1 ↔ part.isSome = true) ∧ (bit (fieldB body 3 1) 0 = s.debugUnlocked) ∧
      sliceB body 16 32 = nonce ∧ fieldB body 48 8 = s.serial % 2 ^ 64 ∧ fieldB body 56 4 = s.bootCount % 2 ^ 32) ∧
  ∀ (s : State) (t a : Nat) (ok : Bool) (part : Option Nat) (report : Bytes) (o : OpenCmd), s.answers = true → s.shaped = true →
    s.findOpen (fun k => match k with | .attest .. => true | _ => false) = some o → o.kind = .attest part a report →
    s.ticketOk o.ticket →
    (ok = false → ∃ u, exec (.attestReportComplete t ok) s = .next u ∧ Finishes s s u t o .hardwareFault []) ∧
    (ok = true → ∃ u v, exec (.attestReportComplete t ok) s = .next u ∧ Finishes s v u t o .done (toLE 4 report.length) ∧
      v = { s with hostWrites := s.hostWrites ++ [(a, report)], partitions := v.partitions } ∧
      ∀ q < 8, let x := s.partition q
        v.partition q =
          if part = some q ∧ x.isOpen = true ∧ pointBytes x.ephemeralPub = sliceB report 200 64 then
            { x with reportDigests :=
                (x.reportDigests ++ [sm3 (report.take (fieldB report 4 4))]).drop (x.reportDigests.length + 1 - 4) }
          else x)

/-- R400, R401, R411. SM2 and SM3 are log entry 20; the orders of the checks log entries 8 and 47. -/
def Obligations.KeysAndUnlock : Prop :=
  (∀ (s : State) (t f m : Nat) (buf : Option Bytes), s.passes f m specKeyAccept →
    let c := s.headCommand f m
    let p := fieldB c 8 1
    let kind := fieldB c 9 1
    let ref := fieldB c 12 4
    let answers (st : Status) := ∃ u, exec (.keyAccept t f m buf) s = .next u ∧ Replies s s u t f m st []
    (7 < p ∨ 1 < kind ∨ ref = 0 ∨ 255 < ref ∨ (∀ a, bufferAt c 16 ≠ some (a, 161)) → answers .badArgument) ∧
    ∀ a, p < 8 → kind < 2 → 0 < ref → ref < 256 → bufferAt c 16 = some (a, 161) →
      (buf = none → answers .hardwareFault) ∧
      ∀ bs, buf = some bs → let w := sliceB bs 0 161
        (s.unwrap p kind w = none ∨ s.debugUnlocked = true → answers .authFailed) ∧
        ∀ key, s.unwrap p kind w = some key →
          (fieldB key 16 1 = kind ∧ sliceB key 32 32 ∈ (s.partition p).reportDigests) ∧
          (s.keyInUse p ref = true → answers .busy) ∧
          (s.keyInUse p ref = false → ∃ u v, exec (.keyAccept t f m buf) s = .next u ∧ Replies s v u t f m .done [] ∧
            v = { s with partitions := v.partitions } ∧ (∀ q, q ≠ p → v.partition q = s.partition q) ∧
            v.partition p = { s.partition p with keys := (v.partition p).keys } ∧
            v.keyAt p ref kind = some (sliceB key 0 16) ∧
            ∀ r k, r ≠ ref → v.keyAt p r k = s.keyAt p r k)) ∧
  (∀ (s : State) (t m : Nat) (buf : Option Bytes), s.passes 0 m specDebugUnlock →
    let c := s.headCommand 0 m
    ∀ a bs, bufferAt c 16 = some (a, 96) → buf = some bs → let w := sliceB bs 0 96
      (s.unlockVerifies w = false → ∃ u, exec (.debugUnlock t 0 m buf) s = .next u ∧ Replies s s u t 0 m .authFailed []) ∧
      (s.unlockVerifies w = true → ∃ u, exec (.debugUnlock t 0 m buf) s = .next u ∧
        Replies s { s with debugUnlocked := s.debugUnlocked || bit (fieldB w 2 1) 0 } u t 0 m .done [])) ∧
  ∀ (s : State) (w : Bytes), fieldB w 8 8 ≠ s.serial ∨ fieldB w 4 4 ≠ s.bootCount → s.unlockVerifies w = false

/-- R404, R405, R406. The order of the checks is log entry 47. -/
def Obligations.WeightImports : Prop :=
  (∀ (s : State) (t f m : Nat), s.passes f m specWeightsImport →
    let c := s.headCommand f m
    let p := fieldB c 8 1
    let b := fieldB c 9 1
    let k := fieldB c 10 1
    let g := fieldB c 11 1
    let ref := fieldB c 12 4
    let off := fieldB c 16 6
    let n := fieldB c 24 8
    let src := fieldB c 32 2
    let answers (st : Status) := ∃ u, exec (.weightsImport t f m) s = .next u ∧ Replies s s u t f m st []
    let named := (s.partition p).imports.any (fun i => i.keyRef == ref)
    (n = 0 ∨ n % 64 ≠ 0 ∨ 2 < g ∨ 15 < k → answers .badArgument) ∧
    (p < 8 → b < 8 → k < 16 → g < 3 → n ≠ 0 → n % 64 = 0 → s.holdsBasin p b = true →
      s.accessCause b k { field := 16, seg := g, off := off, len := n, write := true, reach := .any } = none →
      (s.meetsPlain (s.segAddr b k g off, n) = true → answers .notPermitted) ∧
      (s.meetsPlain (s.segAddr b k g off, n) = false →
        (s.keyAt p ref 0 = none ∨ named = true → answers .authFailed) ∧
        ((s.keyAt p ref 0).isSome = true → named = false → s.importOf p src = none → ∀ x, s.ctxFor p src = some x →
          (x.lost = true → answers .hardwareFault) ∧
          (x.lost = false → s.switchOpen = false → ∃ u v, exec (.weightsImport t f m) s = .next u ∧
            Accepts s v u t f m (.weights p src) ∧ v = { s with partitions := v.partitions } ∧
            ∀ q, v.partition q = if q = p then { s.partition p with imports := (s.partition p).imports ++
              [{ basin := b, slot := k, seg := g, keyRef := ref, dstOff := off, length := n, source := src }] } else s.partition q))))) ∧
  ∀ (s : State) (t p i : Nat) (x : Nat × Nat × Msg) (y : Import), s.alive = true → s.shaped = true → s.capturing = false → p < 8 →
    s.inboxFind (fun m => m.cls == 2 && m.type == 0x38) = some x → x.1 = p → x.2.1 = i →
    s.importOf p x.2.2.src = some y →
    let o := x.2.2.place44
    let n := x.2.2.payload.length
    let a := s.segAddr y.basin y.slot y.seg (y.dstOff + o)
    (o % 4096 ≠ 0 ∨ y.length ≤ o ∨ n ≠ min 4096 (y.length - o) → ∃ u v, exec (.weightData t) s = .next u ∧ Taken s v x ∧
      u = { v with time := max s.time t, counters := u.counters } ∧
      u.counter 2 y.basin cRecvBound = StatCounter.bump 1 (s.counter 2 y.basin cRecvBound)) ∧
    (o % 4096 = 0 → o < y.length → n = min 4096 (y.length - o) → a + n ≤ 0x40000000 ∨ 0x80000000 ≤ a → a + n ≤ 0x100000000000 →
      ∃ u, exec (.weightData t) s = .next u ∧
        (∀ j < n, u.readByte (a + j) = x.2.2.payload.getD j 0) ∧ KeepsBytesOutside [(a, n)] s u ∧
        let units := (y.units.filter fun z => z.1 != o) ++ [(o, sm3 x.2.2.payload)]
        (units.length ≠ (y.length + 4095) / 4096 → u.opens = s.opens ∧
          u.importOf p y.source = some { y with units := units }) ∧
        (units.length = (y.length + 4095) / 4096 →
          u.importOf p y.source = none ∧ (∀ k, u.keyAt p y.keyRef k = none) ∧
          (u.partition p).importCount = (s.partition p).importCount + 1 ∧
          ∀ op, s.findOpen (fun k => k == .weights p y.source) = some op → s.ticketOk op.ticket →
            op ∉ u.opens ∧ (u.mailbox op.ticket.fn op.ticket.mb).response (op.ticket.index.toNat % 256) =
              responseOf u op.ticket .done (importDigest { y with units := units })))
/-- R30, R50, R303, R357 to R359. Sensor readings that no event fixes and counters whose advance is open are free values (log entry 13). -/
def Obligations.TelemetryAndCounters : Prop :=
  (∀ (s : State) (t f m : Nat) (ok : Bool), s.passes f m (specTelemetryRead s) →
    let c := s.headCommand f m
    let item := fieldB c 8 2
    let i := fieldB c 10 2
    let run := exec (.telemetryRead t f m ok) s
    (itemCount item ≤ i → ∃ u, run = .next u ∧ Replies s s u t f m .badArgument []) ∧
    (i < itemCount item → item ≠ 2 → ∀ a n, bufferAt c 16 = some (a, n) →
      let out := s.itemBytes f item i
      (n < out.length → ∃ u, run = .next u ∧ Replies s s u t f m .badArgument (toLE 4 out.length)) ∧
      (out.length ≤ n → ok = false → ∃ u, run = .next u ∧ Replies s s u t f m .hardwareFault []) ∧
      (out.length ≤ n → ok = true → ∃ u, run = .next u ∧
        Replies s { s with hostWrites := s.hostWrites ++ [(a, out)] } u t f m .done (toLE 4 out.length))) ∧
    (item = 2 → i = 0 → s.junction.length = 8 → ok = true → ∀ a n, bufferAt c 16 = some (a, n) → 32 ≤ n →
      ∃ u v out, run = .next u ∧ Replies s v u t f m .done (toLE 4 32) ∧ out.length = 32 ∧
        v = { s with hostWrites := s.hostWrites ++ [(a, out)], outlet := v.outlet, inputCurrent := v.inputCurrent
                     inputPower := v.inputPower, powerRecord := v.powerRecord, freeCount := v.freeCount } ∧
        v.inputPower ≤ max (ratedPower s.point) (ratedPower ((s.ramp.map (·.target)).getD s.point)) ∧
        (s.ramp = none → s.datapathCut = false → s.powerRecord.point = s.point →
          97 * v.powerRecord.mean ≤ 100 * v.inputPower ∧ 100 * v.inputPower ≤ 103 * v.powerRecord.mean) ∧
        fieldB out 24 1 = s.point % 256 ∧
        if f = 0 then (∀ b < 8, fieldB out b 1 = s.junction.getD b 0 % 256) ∧ fieldB out 8 2 = s.inlet % 65536 ∧
          fieldB out 10 2 = v.outlet ∧ fieldB out 12 2 = s.inputVoltage % 65536 ∧ fieldB out 16 4 = v.inputCurrent ∧
          fieldB out 20 4 = v.inputPower
        else (∀ j < 20, fieldB out j 1 = 0) ∧ fieldB out 20 4 = v.powerRecord.mean / 10 * 10)) ∧
  (∀ (s : State) (f i : Nat),
    (i < 48 → (s.itemBytes f 4 i).length = 8 ∧ fieldB (s.itemBytes f 4 i) 0 1 = (s.sub i).state.code) ∧
    (s.itemBytes f 5 i).length = 8 ∧
    (s.itemBytes f 6 i).length = 16 ∧ fieldB (s.itemBytes f 6 i) 0 1 = (s.port i).state.code ∧
      fieldB (s.itemBytes f 6 i) 8 8 = (s.port i).mapped % 2 ^ 64) ∧
  (∀ (s : State) (t f m : Nat), s.passes f m (specCounterRead s) →
    let c := s.headCommand f m
    let scope := fieldB c 8 1
    let set := fieldB c 9 1
    let i := fieldB c 10 2
    let run := exec (.counterRead t f m true) s
    (scopeCount scope ≤ i ∨ 2 < set ∨ (set = 1 ∧ (scope = 0 ∨ scope = 5)) ∨ (set = 2 ∧ scope ≠ 2) →
      ∃ u, run = .next u ∧ Replies s s u t f m .badArgument []) ∧
    (i < scopeCount scope → fieldB c 12 1 = 0 → ∀ a n, bufferAt c 16 = some (a, n) → 8 * scopeSize scope ≤ n →
      (set = 0 → scope ≠ 2 → scope ≠ 5 → ∃ u v out, run = .next u ∧
        Replies s v u t f m .done (toLE 4 (8 * scopeSize scope) ++ zeros 4 ++ toLE 8 0) ∧
        v = { s with hostWrites := s.hostWrites ++ [(a, out)], counters := v.counters } ∧ out.length = 8 * scopeSize scope ∧
        ∀ pos < scopeSize scope, v.counter scope i pos = (s.counter scope i pos).poll ∧
          fieldB out (8 * pos) 8 = ((s.counter scope i pos).high * 2 ^ 48 + (s.counter scope i pos).raw +
            if (s.counter scope i pos).carry then 2 ^ 48 else 0) % 2 ^ 64) ∧
      (set = 1 → scope ≠ 0 → scope ≠ 5 → ∀ p, s.scopePartition scope i = some p → ∃ u out, run = .next u ∧
        Replies s { s with hostWrites := s.hostWrites ++ [(a, out)] } u t f m .done
          (toLE 4 (8 * scopeSize scope) ++ zeros 4 ++ toLE 8 (
            if scope = 2 then (s.partition p).basinSnapSteps.getD i 0
            else if scope = 3 then (s.partition p).basinSnapSteps.getD (i / 16) 0
            else if scope = 4 then (s.partition p).basinSnapSteps.getD (i / 3) 0
            else (s.partition p).snapshotStep)) ∧ out.length = 8 * scopeSize scope ∧
        (f = 0 → ∀ pos < scopeSize scope, ∀ y, (s.partition p).snapshot.find? (fun y => y.1 == scope && y.2.1 == i && y.2.2.1 == pos) = some y →
          fieldB out (8 * pos) 8 = y.2.2.2 % 2 ^ 64))) ∧
    (set = 2 → scope = 2 → i < 8 → fieldB c 12 1 < 16 → ∀ a n, bufferAt c 16 = some (a, n) → 49168 ≤ n →
      let y := (s.basin i).expertSnaps.getD (fieldB c 12 1) {}
      ∃ u out, run = .next u ∧ Replies s { s with hostWrites := s.hostWrites ++ [(a, out)] } u t f m .done
          (toLE 4 49168 ++ zeros 4 ++ toLE 8 y.step) ∧ out.length = 49168 ∧
        fieldB out 0 8 = y.step % 2 ^ 64 ∧ fieldB out 8 1 = y.set.saturated.toNat)) ∧
  ∀ (s : State) (t scope i pos : Nat), s.answers = true →
    ∃ u, exec (.counterPoll t scope i pos) s = .next u ∧ u = { s with time := max s.time t, counters := u.counters } ∧
      ∀ a b c, u.counter a b c = if (a, b, c) = (scope, i, pos) then
        (let x := s.counter a b c
         let h := if x.carry then x.high + 1 else x.high
         { x with carry := false, high := h, ext := (h * 2 ^ 48 + x.raw) % 2 ^ 64 }) else s.counter a b c

/-- R421 and Table 18.5; R360. The orders of the answers are log entry 8, the drain's steps log entry 42. -/
def Obligations.BasinDrains : Prop :=
  (∀ (s : State) (t m : Nat), s.passes 0 m specBasinDrain → s.shaped = true →
    let b := fieldB (s.headCommand 0 m) 8 1
    let run := exec (.basinDrain t 0 m) s
    (7 < b → ∃ u, run = .next u ∧ Replies s s u t 0 m .badArgument []) ∧
    (b < 8 → s.busyBasin b = true → ∃ u, run = .next u ∧ Replies s s u t 0 m .busy []) ∧
    (b < 8 → s.busyBasin b = false → s.switchOpen = false → (s.basin b).mere.staged = none →
      (∀ p < 8, ∀ i ∈ (s.partition p).imports, i.basin ≠ b) →
      ∃ u, run = .next u ∧ u.opens = s.opens ++ [⟨s.headTicket 0 m, .drain b (max s.time t)⟩] ∧
        (u.mailbox 0 m).head = (s.mailbox 0 m).head + 1 ∧
        (u.mailbox 0 m).response ((s.mailbox 0 m).head.toNat % 256) = responseOf u (s.headTicket 0 m) .accepted [] ∧
        (u.basin b).state = .draining ∧ (u.basin b).cache = (s.basin b).cache ∧
        (∀ k < 16, u.slot b k = if (s.slot b k).isUsed = true ∧ (s.slot b k).clearing = false then
          { s.slot b k with
            state := if (s.slot b k).state = .running then .loaded else (s.slot b k).state
            clearing := true, stoppedAt := (s.slot b k).position } else s.slot b k) ∧
        (∀ e k, e ≠ b → u.slot e k = s.slot e k) ∧ KeepsBytes s u ∧ u.flights = s.flights)) ∧
  (∀ (s : State) (t b : Nat) (o : OpenCmd), s.alive = true → s.shaped = true → b < 8 → s.drainOf b = some o →
    s.basinInUse b = false → s.ticketOk o.ticket →
    ∃ u v w, exec (.drainComplete t b) s = .next u ∧ Finishes s v u t o .done [] ∧
      v = { s with basins := v.basins, partitions := v.partitions, contexts := v.contexts, mem := v.mem, poison := v.poison
                   cxl := v.cxl, freeCount := v.freeCount } ∧
      Emptied s w b ∧ KeepsBytes w v ∧ (∀ e, e ≠ b → v.basin e = s.basin e) ∧ (v.basin b).tables = (w.basin b).tables ∧
      (v.basin b).experts = (w.basin b).experts ∧ (v.basin b).cache = (w.basin b).cache ∧
      (v.basin b).state = .service ∧ (v.basin b).needsCalibration = false ∧ (v.basin b).inlets = List.replicate 64 {} ∧
      (∀ k < 16, v.slot b k = if (s.slot b k).clearing then { s.slot b k with state := .loaded, clearing := false } else s.slot b k) ∧
      ∀ j < 256, v.cell b j = if (s.cell b j).owned then {} else s.cell b j) ∧
  ∀ (s : State) (t b a : Nat) (o : OpenCmd), s.alive = true → s.drainOf b = some o → o.kind = .drain b a →
    (max s.time t < a + 100000000 → exec (.drainCollectiveTimeout t b) s = .next (s.now t)) ∧
    (a + 100000000 ≤ max s.time t → ∀ f i m, (s.flights.filter fun f => f.unit == .collective && f.basin == b) = [f] →
      s.instances.find? (fun i => i.member.any fun m => m.flight == f.id) = some i → i.member = some m →
      ∃ u, exec (.drainCollectiveTimeout t b) s = .next u ∧ f ∉ u.flights ∧
        (∀ x ∈ u.instances, x.part = i.part → x.gid = i.gid → x.seq = i.seq → x.step = i.step → x.member = none) ∧
        u.counter 2 m.basin cCollBroken = StatCounter.bump 1 (s.counter 2 m.basin cCollBroken))

/-- R360, R423, R424. Training values are a free byte string (log entry 12); the states of a basin are log entry 42. -/
def Obligations.BasinService : Prop :=
  (∀ (s : State) (t m : Nat), s.passes 0 m specBasinService → s.shaped = true →
    let b := fieldB (s.headCommand 0 m) 8 1
    (b < 8 → s.busyBasin b = true → ∃ u, exec (.basinService t 0 m) s = .next u ∧ Replies s s u t 0 m .busy []) ∧
    (b < 8 → s.busyBasin b = false → ∃ u v w, exec (.basinService t 0 m) s = .next u ∧ Replies s v u t 0 m .done [] ∧
      Emptied s w b ∧ v = { w with basins := v.basins } ∧ (∀ e, e ≠ b → v.basin e = s.basin e) ∧
      v.basin b = { w.basin b with state := .service, needsCalibration := (s.basin b).state == .retired })) ∧
  (∀ (s : State) (t m : Nat), s.passes 0 m specBasinReturn → s.shaped = true →
    let b := fieldB (s.headCommand 0 m) 8 1
    let x := s.basin b
    (b < 8 → x.needsCalibration = true → ∃ u, exec (.basinReturn t 0 m) s = .next u ∧ Replies s s u t 0 m .notPermitted []) ∧
    (b < 8 → x.needsCalibration = false → s.busyBasin b = false →
      ∃ u v, exec (.basinReturn t 0 m) s = .next u ∧ Replies s v u t 0 m .done [] ∧
        v = { s with basins := v.basins, store := v.store } ∧ (∀ e, e ≠ b → v.basin e = s.basin e) ∧
        v.basin b = { x with state := (v.basin b).state, slots := (v.basin b).slots } ∧
        (v.basin b).state = (if (s.partitionOf b).isSome then .active else .idle) ∧
        (∀ k < 16, v.slot b k = if (s.slot b k).isUsed then { s.slot b k with state := .loaded, clearing := false } else s.slot b k) ∧
        (s.mapRetired b = true → v.mapRetired b = false) ∧ (s.mapRetired b = false → v.store = s.store))) ∧
  (∀ (s : State) (t m : Nat), s.passes 0 m specBasinRetire → s.shaped = true →
    let b := fieldB (s.headCommand 0 m) 8 1
    let last := ∀ e < 8, e ≠ b → (s.basin e).state = .retired
    b < 8 → s.busyBasin b = false →
    (¬ last → ∃ u v w, exec (.basinRetire t 0 m) s = .next u ∧ Replies s v u t 0 m .done [] ∧
      Emptied s w b ∧ v = { w with basins := v.basins, store := v.store } ∧
      (∀ e, v.basin e = if e = b then { w.basin b with state := .retired, needsCalibration := false } else s.basin e) ∧
      ∀ e < 8, v.mapRetired e = decide ((v.basin e).state = .retired)) ∧
    (last → ∃ u, exec (.basinRetire t 0 m) s = .next u ∧ (u.basin b).state = .retired ∧ u.devState = .fault ∧
      u.faultCause = some 9 ∧ u.mapRetired b = true)) ∧
  (∀ (s : State) (t m : Nat), s.passes 0 m specCalibrate →
    let b := fieldB (s.headCommand 0 m) 8 1
    let items := fieldB (s.headCommand 0 m) 9 1
    (items = 0 → ∃ u, exec (.calibrate t 0 m) s = .next u ∧ Replies s s u t 0 m .badArgument []) ∧
    (b < 8 → items ≠ 0 → s.switchOpen = false →
      ∃ u, exec (.calibrate t 0 m) s = .next u ∧ Accepts s s u t 0 m (.calibrate b (bit items 0) (bit items 1)))) ∧
  ∀ (s : State) (t b : Nat) (failed : List Nat) (hbm micro : Bool) (o : OpenCmd), s.alive = true → s.shaped = true → b < 8 →
    s.findOpen (fun k => match k with | .calibrate c _ _ => c == b | _ => false) = some o → o.kind = .calibrate b hbm micro →
    s.ticketOk o.ticket → (s.basin b).state ≠ .retired →
    (hbm = true → (∃ i ∈ failed, i / 3 = b) →
      ∃ u, exec (.calibrationComplete t b failed) s = .next u ∧ (u.basin b).state = .retired) ∧
    (hbm = false ∨ (∀ i ∈ failed, i / 3 ≠ b) →
      ∃ u v, exec (.calibrationComplete t b failed) s = .next u ∧ Finishes s v u t o .done [] ∧
        v = { s with basins := v.basins, store := v.store, freeCount := v.freeCount, mem := v.mem, poison := v.poison } ∧
        (∀ e, e ≠ b → v.basin e = s.basin e) ∧
        let wiped : Bool := hbm && (s.partitionOf b).isNone
        v.basin b = { s.basin b with
          needsCalibration := (s.basin b).needsCalibration && !hbm, wiping := (s.basin b).wiping || wiped
          wipeStart := if wiped = true then max s.time t else (s.basin b).wipeStart
          microcode := if micro then s.firmware else (s.basin b).microcode } ∧
        (∀ a, v.readByte a = if wiped = true ∧ windowBase b ≤ a ∧ a < windowBase b + windowSize then 0 else s.readByte a) ∧
        (hbm = true → ∃ x, v.stored 6 = some x ∧ x.length = 24) ∧ (hbm = false → v.store = s.store))

/-- R361, R392, R394, R425 to R430. Images and the minor version are log entries 48 and 13. -/
def Obligations.FirmwareChanges : Prop :=
  (∀ (s : State) (t m a n : Nat) (bs : Bytes), s.passes 0 m specFirmwareStage →
    bufferAt (s.headCommand 0 m) 16 = some (a, n) → 256 ≤ n →
    let x := sliceB bs 0 n
    let run := exec (.firmwareStage t 0 m (some bs)) s
    (fieldB x 12 4 ≠ n → ∃ u, run = .next u ∧ Replies s s u t 0 m .badArgument []) ∧
    (fieldB x 12 4 = n → s.firmwareBusy = true → ∃ u, run = .next u ∧ Replies s s u t 0 m .busy []) ∧
    (fieldB x 12 4 = n → s.firmwareBusy = false → s.imageVerifies x = false →
      ∃ u, run = .next u ∧ Replies s s u t 0 m .authFailed []) ∧
    (fieldB x 12 4 = n → s.firmwareBusy = false → s.imageVerifies x = true →
      ∃ u v, run = .next u ∧ Accepts s v u t 0 m (.firmwareStage s.otherSlot x) ∧
        v = { s with imageA := v.imageA, imageB := v.imageB, staged := some (imageOf x), store := v.store } ∧
        (v.imageA, v.imageB) = (if s.imageSlot = 0 then (s.imageA, imageOf x) else (imageOf x, s.imageB)) ∧
        v.stored (16 + s.otherSlot) = some x)) ∧
  (∀ (s : State) (x : Bytes), s.imageVerifies x = true →
    sm3 (sliceB x 16 64) = s.vendorDigest ∧ (imageOf x).floor ≤ (imageOf x).version ∧ s.versionFloor ≤ (imageOf x).version) ∧
  (∀ (s : State) (t slot : Nat) (x : Bytes) (o : OpenCmd), s.alive = true →
    s.findOpen (fun k => match k with | .firmwareStage .. => true | _ => false) = some o → o.kind = .firmwareStage slot x →
    s.ticketOk o.ticket →
    ∃ u, exec (.firmwareStageComplete t) s = .next u ∧ Finishes s s u t o .done (toLE 4 (fieldB x 0 4) ++ toLE 1 slot)) ∧
  (∀ (s : State) (t m : Nat), s.passes 0 m specFirmwareSwitch →
    let back := bit (fieldB (s.headCommand 0 m) 8 1) 0
    let may := if back then s.otherImage.present = true ∧ s.versionFloor ≤ s.otherImage.version else s.staged ≠ none
    let run := exec (.firmwareSwitch t 0 m) s
    (¬ may → ∃ u, run = .next u ∧ Replies s s u t 0 m .notPermitted []) ∧
    (may → s.opens ≠ [] ∨ s.pulseOnly = true → ∃ u, run = .next u ∧ Replies s s u t 0 m .busy []) ∧
    (may → s.opens = [] → s.pulseOnly = false →
      ∃ u, run = .next u ∧ Accepts s s u t 0 m (.firmwareSwitch back (max s.time t) false))) ∧
  ∀ (s : State) (t a : Nat) (back late : Bool) (o : OpenCmd), s.alive = true → s.shaped = true → s.switchOf = some o →
    o.kind = .firmwareSwitch back a late → s.ticketOk o.ticket →
    ((s.now t).handoverMay late = true →
      (∃ u, exec (.handoverStart t) s = .next u ∧ u.opens = s.opens.filter (fun x => x != o) ∧
        u.imageSlot = (if s.imageSlot = 0 then 1 else 0) ∧ u.firmware = s.otherImage.version ∧ u.staged = none ∧
        u.versionFloor = max s.versionFloor s.otherImage.floor ∧ u.stored 4 = some (toLE 1 u.imageSlot) ∧
        (u.alert 0 15).flag = true ∧ (u.alert 0 15).detail.toNat = u.imageSlot ∧
        (u.mailbox o.ticket.fn o.ticket.mb).response (o.ticket.index.toNat % 256) =
          responseOf u o.ticket .done (toLE 4 u.firmware ++ toLE 1 u.imageSlot) ∧
        u.basins = s.basins ∧ u.partitions = s.partitions ∧ u.mem = s.mem ∧ u.contexts = s.contexts ∧ u.flights = s.flights) ∧
      ∃ u, exec (.handoverTimeout t) s = .next u ∧ Finishes s s u t o .hardwareFault []) ∧
    ((s.now t).handoverMay late = false → exec (.handoverStart t) s = .next (s.now t)) ∧
    ∃ u, exec (.handoverDeadline t) s = .next u ∧ u = { s with time := max s.time t, opens := u.opens } ∧
      u.opens = s.opens.map (fun (x : OpenCmd) => match x.kind with
        | .firmwareSwitch r d l => { x with kind := .firmwareSwitch r d (l || decide (d + 100000000 ≤ max s.time t)) }
        | _ => x)
/-- R329, R330, Table 14.14. The MCTP formats and widths are log entry 40; free readings log entries 12 and 13. -/
def Obligations.ManagementReads : Prop :=
  ∀ (s : State) (t : Nat), s.power ≠ .off →
    let vendor : Bytes := toLE 1 (Config.vendorId / 256) ++ toLE 1 Config.vendorId
    (∀ q : Bytes, (∀ n, 1 ≤ n → n ≤ 5 → fieldB q 0 1 ≠ n) → ∀ x ∈ [Instr.stateRead t q, .sensorRead t q, .alertRead t q, .stopArm t q, .stop t q],
      exec x s = .next { s.now t with i3cReply := vendor ++ [1] }) ∧
    (∀ q : Bytes, q.length ≠ 1 → ∀ n x, (n, x) ∈ [(1, Instr.stateRead t q), (2, .sensorRead t q), (3, .alertRead t q), (4, .stopArm t q), (5, .stop t q)] →
      fieldB q 0 1 = n → exec x s = .next { s.now t with i3cReply := vendor ++ [2] }) ∧
    (∃ r, exec (.stateRead t [1]) s = .next { s.now t with i3cReply := vendor ++ 0 :: r } ∧ r.length = 16 ∧
      fieldB r 0 8 = fieldB (s.barRead 0 0x3000 8) 0 8 ∧
      ∀ a < 17, bit (fieldB r 8 8) a = (s.alert 0 a).flag) ∧
    (s.junction.length = 8 → ∃ (v : State) (r : Bytes), exec (.sensorRead t [2]) s = .next { v with i3cReply := vendor ++ 0 :: r } ∧
      v = { s with time := max s.time t, outlet := v.outlet, inputCurrent := v.inputCurrent, inputPower := v.inputPower
                   powerRecord := v.powerRecord, freeCount := v.freeCount } ∧
      v.inputPower ≤ max (ratedPower s.point) (ratedPower ((s.ramp.map (·.target)).getD s.point)) ∧
      (∀ b < 8, fieldB r b 1 = s.junction.getD b 0 % 256) ∧ fieldB r 8 2 = s.inlet % 65536 ∧ fieldB r 10 2 = v.outlet ∧
      fieldB r 12 2 = s.inputVoltage % 65536 ∧ fieldB r 14 4 = v.inputCurrent ∧ fieldB r 18 4 = v.inputPower ∧
      fieldB r 22 1 = s.point % 256) ∧
    (∃ r, exec (.alertRead t [3]) s = .next { s.now t with i3cReply := vendor ++ 0 :: r } ∧ r.length = 68 ∧
      ∀ a < 17, fieldB r (4 * a) 4 = fieldB (s.barRead 0 (0x2000 + 4 * a) 4) 0 4) ∧
    (∀ eid, eid < 256 →
      (eid = 0 ∨ eid = 255 → exec (.setEndpointId t eid) s = .next { s.now t with i3cReply := toLE 1 2 }) ∧
      (eid ≠ 0 → eid ≠ 255 → ∃ r, exec (.setEndpointId t eid) s = .next { s.now t with endpointId := eid, i3cReply := r } ∧
        fieldB r 0 1 = 0 ∧ fieldB r 2 1 = eid ∧
        ∃ q, exec (.getEndpointId t) { s.now t with endpointId := eid } = .next { s.now t with endpointId := eid, i3cReply := q } ∧
          fieldB q 0 1 = 0 ∧ fieldB q 1 1 = eid)) ∧
    (∃ r, exec (.getMctpVersionSupport t) s = .next { s.now t with i3cReply := r, freeCount := s.freeCount + 1 } ∧
      r.length = 6 ∧ fieldB r 0 1 = 0 ∧ fieldB r 1 1 = 1) ∧
    (exec (.getMessageTypeSupport t) s = .next { s.now t with i3cReply := [0, 1, 0x7E] }) ∧
    ∀ a, a < 128 → exec (.setdasa t a) s = .next { s.now t with dynAddr := some a } ∧
      exec (.entdaa t a) s = .next { s.now t with dynAddr := some a }

/-- R331. Order and reply codes are log entry 41. -/
def Obligations.EmergencyStop : Prop :=
  ∀ (s : State) (t : Nat), s.power ≠ .off →
    let vendor : Bytes := toLE 1 (Config.vendorId / 256) ++ toLE 1 Config.vendorId
    (exec (.stopArm t [4]) s = .next { s.now t with stopArmed := some (max s.time t), i3cReply := vendor ++ [0] }) ∧
    (∀ a, s.stopArmed = some a → exec (.stopArmExpiry t) s =
      .next { s.now t with stopArmed := if a + 1000000000 ≤ max s.time t then none else some a }) ∧
    (s.stopArmed = none ∨ (∃ a, s.stopArmed = some a ∧ a + 1000000000 < max s.time t) →
      exec (.stop t [5]) s = .next { s.now t with i3cReply := vendor ++ [3] }) ∧
    ∀ a, s.stopArmed = some a → max s.time t ≤ a + 1000000000 → s.shaped = true →
      ∃ u, exec (.stop t [5]) s = .next u ∧ u.i3cReply = vendor ++ [0] ∧ u.datapathCut = true ∧ u.faultCause = some 0x0A ∧ u.stopArmed = none ∧
        u.devState = .fault ∧ (∀ i < 48, (u.sub i).state = .off) ∧ (∀ q < 8, (u.port q).linkUp = false) ∧
        (u.alert 0 16).flag = true ∧ (u.alert 0 4).flag = true ∧ (u.alert 0 4).detail = 0x0A ∧
        (s.answers = true → u.opens = []) ∧ u.basins = s.basins ∧ u.partitions = s.partitions ∧ u.mem = s.mem ∧
        u.contexts = s.contexts ∧ u.flights = s.flights ∧ u.store = s.store

/-- R443. What an unlocked port shifts out is free: log entry 56. -/
def Obligations.DebugPortClock : Prop :=
  (∀ (s : State) (t : Nat) (tms tdi : Bool), s.power = .off → exec (.testAccessPortClock t tms tdi) s = .next (s.now t)) ∧
  (∀ (s : State) (t : Nat) (tms tdi : Bool), s.power ≠ .off →
    ∃ u, exec (.testAccessPortClock t tms tdi) s = .next u ∧ u.tap = s.tap.next tms ∧
      u = { s with time := max s.time t, tap := u.tap, tapBypass := u.tapBypass, tapOut := u.tapOut, freeCount := u.freeCount } ∧
      (s.debugUnlocked = false → u.freeCount = s.freeCount ∧ (u.tapOut.isSome = true ↔ u.tap = .shiftDr) ∧
        (u.tap = .shiftDr → u.tapOut = some u.tapBypass) ∧ (s.tap = .captureDr → u.tapBypass = false) ∧
        (s.tap = .shiftDr → u.tapBypass = tdi) ∧
        (s.tap ≠ .captureDr → s.tap ≠ .shiftDr → u.tapBypass = s.tapBypass))) ∧
  ∀ (s : State) (x : Bool), s.power ≠ .off →
    ∃ a b c d e, exec (.testAccessPortClock 0 true x) s = .next a ∧ exec (.testAccessPortClock 0 true x) a = .next b ∧
      exec (.testAccessPortClock 0 true x) b = .next c ∧ exec (.testAccessPortClock 0 true x) c = .next d ∧
      exec (.testAccessPortClock 0 true x) d = .next e ∧ e.tap = .testLogicReset
/-- R27, R78, R194, R113, R345, R346. Offsets of illegal fields: log entry 24; records: log entry 18. -/
def Obligations.DescriptorHeads : Prop :=
  (∀ (s : State) (t b k : Nat), s.shaped = true → s.slotIssues b k = true → (s.slot b k).mailboxOk → s.head b k = .illegal →
    ∃ u, exec (.unknownClassDescriptor t b k) s = .next u ∧ HaltsWith s u t b k .illegalDescriptor 0 0 0 0) ∧
  (∀ (s : State) (t b k : Nat) (d : Bytes) (lanesFree : Bool) (errs : List CheckErr) (off : Nat), s.shaped = true → s.slotIssues b k = true →
    (s.slot b k).mailboxOk → s.head b k = .desc d → (s.slot b k).skips d = false → dOp d = 1 →
    let halts (c : Instr) := ∃ u, exec c s = .next u ∧ HaltsWith s u t b k .illegalDescriptor off 0 0 0
    (dClass d = 3 → vectorIllegal d = some off → halts (.add t b k errs)) ∧
      (dClass d = 4 → tableIllegal d = some off → halts (.fn t b k errs)) ∧
      (dClass d = 5 → s.capturing = false → moveIllegal d = some off → halts (.copy t b k [] [])) ∧
      (dClass d = 6 → syncIllegal d = some off → halts (.syncSetCell t b k)) ∧
      (dClass d = 1 → s.spmmNext b k = none → passIllegal b d = some off → halts (.merePassStage t b k lanesFree []))) ∧
  (∀ (s : State) (t b k : Nat) (d : Bytes) (errs : List CheckErr) (x : Access) (c : SegCause), s.shaped = true → s.headIs b k d →
    (s.slot b k).mailboxOk → dClass d = 3 → dOp d = 1 → vectorIllegal d = none →
    s.firstFault b k (vectorAccesses b d) = some (x, c) →
    ∃ u, exec (.add t b k errs) s = .next u ∧ HaltsWith s u t b k .segmentFault (x.seg + 16 * c.code) 0 x.off x.len) ∧
  (∀ (s : State) (t b k : Nat) (d : Bytes), s.shaped = true → s.slotIssues b k = true → s.head b k = .desc d →
    (s.slot b k).skips d = true →
    ∃ u, exec (.skippedDescriptor t b k) s = .next u ∧
      u = { s with time := max s.time t, basins := u.basins, counters := u.counters } ∧
      (∀ c j, u.slot c j = if c = b ∧ j = k then { s.slot b k with position := (s.slot b k).position + d.length } else s.slot c j) ∧
      ∀ c j, u.cell c j = if c = b ∧ dSetCell d = some j then (s.cell c j).plus 1 else s.cell c j) ∧
  ∀ (s : State) (t b k : Nat), s.alive = true → s.shaped = true → b < 8 → k < 16 →
    let x := s.slot b k
    x.state = .running → x.clearing = false →
    (s.head b k = .atEnd → x.repeatCount = 0 ∨ x.runsDone < x.repeatCount →
      ∃ u, exec (.taskRunEnd t b k) s = .next u ∧ u = { s with time := max s.time t, basins := u.basins } ∧
        (∀ c j, u.slot c j = if c = b ∧ j = k then
          { x with runsDone := x.runsDone + 1, regionPart := 3, regionFrozen := false
                   position := if x.repeatCount = 0 ∨ x.runsDone + 1 < x.repeatCount then 0 else x.position }
          else s.slot c j) ∧ ∀ c j, u.cell c j = s.cell c j) ∧
    (x.mailboxOk → x.repeatCount ≠ 0 → x.runsDone = x.repeatCount → x.length ≤ x.position → s.slotFlights b k = [] →
      ∃ u, exec (.taskFinish t b k) s = .next u ∧
        u = { s with time := max s.time t, funcs := u.funcs, msix := u.msix, basins := u.basins } ∧
        (∀ c j, u.slot c j = if c = b ∧ j = k then { x with state := .finished } else s.slot c j) ∧
        (∀ c j, u.cell c j = s.cell c j) ∧
        Posts s u x.fn x.mailbox
          ⟨.slot b k, recordBytes 2 0 b k (s.stepOf b) ((s.now t).timeFor x.fn) x.position 0 0 0 0⟩)

/-- R73, R74, R75: each row's result, with the frame. That a result is written when the descriptor issues is log entry 6. -/
def Obligations.VectorOperations : Prop :=
  ∀ (s : State) (t b k : Nat) (d : Bytes), s.shaped = true → s.headIs b k d → s.segsAligned b k → dClass d = 3 →
    vectorIllegal d = none → s.mayAccess b k (vectorAccesses b d) →
    let w := s.writeRanges b k (vectorAccesses b d)
    s.countsAllow w = true →
    let turn := s.hasTurn t b .vector k fun u => u.vectorIssue b []
    let n := fieldB d 4 4
    let ctl := fieldB d 2 2
    let fa := fmtD (fieldB d 14 1)
    let fb := fmtD (fieldB d 22 1)
    let fd := fmtD (ctlFormat ctl)
    let a := s.segAddr b k (fieldB d 15 1) (fieldB d 8 6)
    let ab := s.segAddr b k (fieldB d 23 1) (fieldB d 16 6)
    let ad := s.segAddr b k (fieldB d 30 1) (fieldB d 24 6)
    let va := s.valuesAt fa a (scaleAddr fa a n) n
    let vb := s.valuesAt fb ab (scaleAddr fb ab n) n
    let vd := s.valuesAt fd ad (scaleAddr fd ad n) n
    let sc := s.vectorScalar b k d
    let runs (c : Instr) (out : List (Nat × Bytes)) := (¬ turn → exec c s = .next (s.now t)) ∧
      (turn → ∃ u, exec c s = .next u ∧ IssuedOn s u b k d .vector w ∧
      u = { s with time := max s.time t, mem := u.mem, poison := u.poison, counters := u.counters, flights := u.flights
                   nextFlight := u.nextFlight, basins := u.basins } ∧
      (∀ c, u.basin c = { s.basin c with slots := (u.basin c).slots, lastGrant := s.grantsAfter b .vector k c }) ∧
      KeepsBytesOutside w s u ∧ ∀ r ∈ out, u.read r.1 r.2.length = r.2)
    let elementwise (op : Nat) (c : Instr) (f : Val → Val → Val → Val) := dOp d = op → runs c
      (storeTensor fd ctl (s.slot b k).seed.toNat (s.stepOf b) (fieldB d 30 1) (fieldB d 24 6) ad
        ((List.range n).map fun i => rn32 (f (va.getD i .zero) (vb.getD i .zero) (vd.getD i .zero))) []).ranges
    let reduction (op : Nat) (c : Instr) (bs : Bytes) := dOp d = op → runs c [(ad, bs)]
    elementwise 1 (.add t b k []) (fun x y _ => Val.add x y) ∧
    elementwise 2 (.mul t b k []) (fun x y _ => Val.mul x y) ∧
    elementwise 3 (.fma t b k []) (fun x y z => Val.add (Val.mul x y) z) ∧
    elementwise 4 (.axpy t b k []) (fun x y _ => Val.add (Val.mul sc x) y) ∧
    elementwise 5 (.scale t b k []) (fun x _ _ => Val.mul sc x) ∧
    (fa ≠ fd → elementwise 6 (.convert t b k []) (fun x _ _ => x)) ∧
    (fa = fd → dOp d = 6 → runs (.convert t b k []) [(ad, s.read a (fa.bytesFor n))]) ∧
    elementwise 7 (.max2 t b k []) (fun x y _ => max2 x y) ∧
    elementwise 8 (.min2 t b k []) (fun x y _ => min2 x y) ∧
    elementwise 9 (.div t b k []) (fun x y _ => divVal x y) ∧
    elementwise 0x0A (.sqrt t b k []) (fun x _ _ => sqrtVal x) ∧
    elementwise 0x0B (.rsqrt t b k []) (fun x _ _ => rsqrtVal x) ∧
    reduction 0x10 (.sum t b k []) (toLE 4 (toF32 (Val.sum va))) ∧
    reduction 0x11 (.sumsq t b k []) (toLE 4 (toF32 (Val.sum (va.map fun x => Val.mul x x)))) ∧
    reduction 0x12 (.max t b k []) (toLE 4 (toF32 (va.tail.foldl max2 (va.headD .zero)))) ∧
    reduction 0x13 (.min t b k []) (toLE 4 (toF32 (va.tail.foldl min2 (va.headD .zero)))) ∧
    reduction 0x14 (.argmax t b k []) (toLE 4 (argmaxOf va).1 ++ toLE 4 (toF32 (argmaxOf va).2)) ∧
    reduction 0x15 (.meanVar t b k []) (meanVarOf va) ∧
    reduction 0x16 (.meanVarMerge t b k [])
      ((List.range n).flatMap fun i => meanVarMerge (s.read (a + 16 * i) 16) (s.read (ab + 16 * i) 16))

/-- R116, R118, R119. Effects fall at issue: log entry 6; operand details: log entry 23. -/
def Obligations.TableOperations : Prop :=
  ∀ (s : State) (t b k : Nat) (d : Bytes), s.shaped = true → s.headIs b k d → s.segsAligned b k → dClass d = 4 →
    tableIllegal d = none → s.tableReady b d = true → s.mayAccess b k (tableAccesses b d) →
    let w := s.writeRanges b k (tableAccesses b d)
    s.countsAllow w = true → w.Pairwise (fun r q => rangesMeet r q = false) →
    let turn := s.hasTurn t b .table k fun u => u.tableIssue b []
    let n := fieldB d 4 4
    let ctl := fieldB d 2 2
    let fa := fmtD (fieldB d 14 1)
    let fb := fmtD (fieldB d 22 1)
    let fd := fmtD (ctlFormat ctl)
    let a := s.segAddr b k (fieldB d 15 1) (fieldB d 8 6)
    let ab := s.segAddr b k (fieldB d 23 1) (fieldB d 16 6)
    let va := s.valuesAt fa a (scaleAddr fa a n) n
    let vb := s.valuesAt fb ab (scaleAddr fb ab n) n
    let table := ((s.basin b).tables.getD (bits (fieldB d 31 1) 5 3) none).getD []
    let s0 := f32 (fieldB d 44 4)
    let s1 := f32 (fieldB d 48 4)
    let seed := (s.slot b k).seed.toNat
    let drawn (i : Nat) : Bool := fieldB d 42 2 ≤ dropoutWord (randomKey seed (s.stepOf b)) (fieldB d 52 4) i
    let tensor (f : Fmt) (ctl seg off : Nat) (g : Nat → Val) : List (Nat × Bytes) :=
      (storeTensor f ctl seed (s.stepOf b) seg off (s.segAddr b k seg off) ((List.range n).map g) []).ranges
    let saved (f : Fmt) (g : Nat → Val) := tensor f 0x400 (fieldB d 38 1) (fieldB d 32 6) g
    let row (op : Nat) (c : Instr) (f : Nat → Val → Val → Val) (more : List (Nat × Bytes)) := dOp d = op →
      (¬ turn → exec c s = .next (s.now t)) ∧ (turn → ∃ u, exec c s = .next u ∧ IssuedOn s u b k d .table w ∧
        u = { s with time := max s.time t, mem := u.mem, poison := u.poison, counters := u.counters, flights := u.flights
                     nextFlight := u.nextFlight, basins := u.basins } ∧
        (∀ c, u.basin c = { s.basin c with slots := (u.basin c).slots, lastGrant := s.grantsAfter b .table k c }) ∧
        (s.nextFlight ∉ s.flights.map (·.id) → ∀ f ∈ u.flights, f.id = s.nextFlight →
          f.table = if op ≤ 4 then some (bits (fieldB d 31 1) 5 3) else none) ∧
        KeepsBytesOutside w s u ∧
        ∀ r ∈ tensor fd ctl (fieldB d 30 1) (fieldB d 24 6) (fun i => f i (va.getD i .zero) (vb.getD i .zero)) ++ more,
          u.read r.1 r.2.length = r.2)
    row 1 (.fn t b k []) (fun _ x _ => tableEval table false x) [] ∧
    row 2 (.fnSave t b k []) (fun _ x _ => tableEval table false x)
      (if bit (fieldB d 31 1) 0 then saved .mask1 (fun i => if Val.lt .zero (va.getD i .zero) then Val.one else .zero)
        else saved .bf16 (fun i => rnBF16 (va.getD i .zero))) ∧
    row 3 (.deriv t b k []) (fun _ x _ => tableEval table true x) [] ∧
    row 4 (.grad t b k []) (fun _ x y => rn32 (Val.mul y (tableEval table true x))) [] ∧
    row 5 (.gradMask t b k []) (fun _ x y => rn32 (Val.mul y (if x.isZero then s0 else s1))) [] ∧
    row 6 (.dropout t b k []) (fun i x _ => if drawn i then rn32 (Val.mul x s1) else .zero)
      (saved .mask1 (fun i => if drawn i then Val.one else .zero)) ∧
    row 7 (.maxsel t b k []) (fun _ x y => max2 x y)
      (saved .mask1 (fun i => if Val.lt (va.getD i .zero) (vb.getD i .zero) then Val.one else .zero)) ∧
    row 8 (.maxselGrad t b k []) (fun _ x y => if x.isZero then y else .zero)
      (tensor fd ctl (fieldB d 30 1) (tableEOff d) (fun i => if (va.getD i .zero).isZero then .zero else vb.getD i .zero))

/-- R187, R219, R286. Effects fall at issue: log entry 6; which operation of a unit completes is an operand: log entry 5. -/
def Obligations.MovesAndCompletions : Prop :=
  (∀ (s : State) (t b k : Nat) (d : Bytes), s.shaped = true → s.headIs b k d → dClass d = 5 → moveIllegal d = none →
    s.unitBusy b .move = false → s.capturing = false →
    let m := moveOf d
    let w := s.writeRanges b k m.accesses
    let src (i : Nat) := s.segAddr b k m.segSrc (m.src + i * m.srcStride)
    let dst (i : Nat) := s.segAddr b k m.segDst (m.dst + i * m.dstStride)
    s.mayAccess b k m.accesses → s.moveOverlaps b k m = false → s.moveUnaligned b k m = false → s.accessesWait b k m.accesses = false → s.countsAllow w = true →
    (∀ f ∈ s.flights, f.unit = .mere → ∀ q ∈ f.writes, ∀ r ∈ w, granulesMeet r q = false) →
    (m.rows = 1 ∨ m.len ≤ m.dstStride) → (∀ i < m.rows, s.rowStands (dst i) m.len) →
    (m.copy = true → ∀ i < m.rows, s.rowStands (src i) m.len) →
    let turn := s.hasTurn t b .move k fun u => u.moveAt b []
    let runs (c : Instr) (row : Nat → Bytes) := (¬ turn → exec c s = .next (s.now t)) ∧
      (turn → ∃ u, exec c s = .next u ∧ IssuedOn s u b k d .move w ∧
      u = { s with time := max s.time t, mem := u.mem, poison := u.poison, cxl := u.cxl, counters := u.counters, flights := u.flights
                   nextFlight := u.nextFlight, basins := u.basins, partitions := u.partitions, freeCount := u.freeCount } ∧
      NotesPages s u ∧ (∀ q, u.port q = { s.port q with bytes := (u.port q).bytes, poison := (u.port q).poison }) ∧
      (∀ c, u.basin c = { s.basin c with
        slots := (u.basin c).slots, lastGrant := s.grantsAfter b .move k c, cache := (u.basin c).cache }) ∧
      KeepsBytesOutside w s u ∧ ∀ i < m.rows, u.read (dst i) m.len = row i)
    (dOp d = 1 → runs (.copy t b k [] []) (fun i => s.read (src i) m.len)) ∧
      (dOp d = 2 → runs (.zero t b k [] []) (fun _ => zeros m.len))) ∧
  (∀ (s : State) (t b n : Nat) (f : Flight), s.alive = true → s.shaped = true → f.lateFault = none → b < 8 →
    (∀ j, f.setCell = some j → j < 256) →
    let at_ (unit : UnitKind) (n : Nat) := (s.flights.filter fun g => g.basin == b && g.unit == unit)[n]? = some f
    let ends (c : Instr) := ∃ u, exec c s = .next u ∧ CompletesFlight s u t f
    (at_ .move 0 → ends (.moveComplete t b)) ∧ (at_ .vector n → ends (.vectorOperationComplete t b n)) ∧
      (at_ .table n → ends (.tableOperationComplete t b n)) ∧
      (at_ .tarn 0 → s.spmmDone b f.id = false → exec (.tarnOperationComplete t b) s = .next (s.now t)) ∧
      (at_ .tarn 0 → s.spmmDone b f.id = true → ∃ u v, exec (.tarnOperationComplete t b) s = .next u ∧ CompletesFlight s v t f ∧
        u = { v with basins := u.basins } ∧ (∀ c, c ≠ b → u.basin c = v.basin c) ∧
        u.basin b = { v.basin b with spmm := none, inlets := (s.basin b).inlets.map fun i => { i with entries := [] } })) ∧
  ∀ (s : State) (t b : Nat) (f : Flight), s.alive = true → s.shaped = true → f.lateFault = none → f.basin < 8 →
    (∀ j, f.setCell = some j → j < 256) → (s.passesOn b).head? = some f → (∀ m ∈ f.basins, ((s.passesOn m).head?.map (·.id)) = some f.id) →
    ∃ u, exec (.merePassComplete t b) s = .next u ∧ CompletesFlight s u t f
/-- R61, R80, R83, R89, R90, R185. That results are written at issue, and which granules are visible by then, is log entry 6. -/
def Obligations.MerePasses : Prop :=
  (∀ (s : State) (t b k : Nat) (lanesFree : Bool) (d : Bytes) (item : Option SpmmItem), s.shaped = true → s.alive = true →
    s.nextPass b k = some (d, item) →
    let p := passOf d
    let ms := p.members b
    ((s.now t).stageGranted b lanesFree k = false → exec (.merePassStage t b k lanesFree []) s = .next (s.now t)) ∧
    ((s.now t).stageGranted b lanesFree k = true →
      (item = none → s.gangMissing b (ms.map (·.1)) = 0 ∧ s.mayAccess b k (p.accesses b) ∧ s.passNotNear b k p = none ∧
        s.accessesWait b k (ms.flatMap fun x => p.loads b x.1 x.2) = false) →
      ∃ u, exec (.merePassStage t b k lanesFree []) s = .next u ∧
        u = { s with time := max s.time t, mem := u.mem, poison := u.poison, cxl := u.cxl, basins := u.basins
                     partitions := u.partitions, freeCount := u.freeCount } ∧
        KeepsBytes s u ∧ NotesPages s u ∧ (∀ q, u.port q = { s.port q with bytes := (u.port q).bytes, poison := (u.port q).poison }) ∧
        (∀ c, u.basin c = { s.basin c with
          mere := (u.basin c).mere, cache := (u.basin c).cache, lastGrant := s.grantsAfter b .mere k c, spmm := (u.basin c).spmm }) ∧
        (∀ c, (u.basin c).spmm = if c = b ∧ item ≠ none then (s.basin c).spmm.map fun w => { w with items := w.items.tail }
          else (s.basin c).spmm) ∧
        (∀ c, (∀ x ∈ ms, x.1 ≠ c) → (u.basin c).mere = (s.basin c).mere) ∧
        ∀ x ∈ ms, let m := (s.basin x.1).mere
          let sets := (u.basin x.1).mere.sets
          let kept (j : Nat) : Prop := (m.sets.getD j {}).tag = some (p.tag b k)
          let keeps : Prop := p.keep = true ∧ if p.fmtA = .fp32 then kept 0 ∧ kept 1 else kept m.lastSet
          let i := if x.2 = 0 then m.lastSet else if p.fmtA = .fp32 then 0 else if keeps then m.lastSet else 1 - m.lastSet
          (u.basin x.1).mere = { m with staged := some ⟨b, k, d, i, item⟩, sets := sets } ∧
            (x.2 = 0 ∨ keeps → sets = m.sets) ∧
            (x.2 ≠ 0 → ¬ keeps → ∃ new : StatSet, new.tag = some (p.tag b k) ∧
              (let half (f : Nat × Nat → Nat) : StatSet := { new with columns := new.columns.map fun c => c.map fun e => f (halvesOf e) }
               sets = if p.fmtA = .fp32 then [half (·.1), half (·.2)] else m.sets.set i new) ∧
              (p.gang = 1 → new = s.loadSet b k [] p x.1 x.2) ∧
              (p.transB = false → p.nm = 0 → s.damagedUnits = [] → ∀ c < x.2, ∀ r < p.kUse, (new.columns.getD c []).getD r 0 =
                (s.codesAt p.fmtB (s.segAddr b k p.segB (p.srcB + p.shiftB b x.1 + r * p.strideB)) x.2).getD c 0)))) ∧
  (∀ (s : State) (t b : Nat) (st : StagedPass), s.shaped = true → s.alive = true → b < 8 → (s.basin b).mere.staged = some st →
    st.lead = b →
    let k := st.slot
    let p := passOf st.desc
    let w := s.passRanges b k p [40]
    (st.item = none → s.slotIssues b k = true) → s.passResident b k p (s.spmmFlight b st) = true → s.countsAllow w = true →
    (∀ r ∈ w, r.1 + r.2 ≤ 0x40000000) →
    ∃ u, exec (.merePassIssue t b true [] []) s = .next u ∧
      u = { s with time := max s.time t, mem := u.mem, poison := u.poison, counters := u.counters, flights := u.flights
                   nextFlight := u.nextFlight, basins := u.basins, funcs := u.funcs, msix := u.msix } ∧
      (p.tiledA = false → u.funcs = s.funcs ∧ u.msix = s.msix) ∧ KeepsBytesOutside w s u ∧
      (st.item = none → IssuedOn s u b k st.desc .mere w ∧ (u.basin b).spmm = (s.basin b).spmm) ∧
      (st.item ≠ none → u.nextFlight = s.nextFlight + 1 ∧ (∀ c, (u.basin c).slots = (s.basin c).slots) ∧
        (∃ f, u.flights = s.flights ++ [f] ∧ f.id = s.nextFlight ∧ f.unit = .mere ∧ f.basin = b ∧ f.setCell = none ∧ f.writes = w ∧
          f.parent = s.spmmFlight b st) ∧
        ∃ q, (u.basin b).spmm = (s.basin b).spmm.map fun y => { y with counted := q }) ∧
      (∀ c, u.basin c = { s.basin c with slots := (u.basin c).slots, mere := (u.basin c).mere, spmm := (u.basin c).spmm }) ∧
      (∀ c, (∀ x ∈ p.members b, x.1 ≠ c) → u.basin c = s.basin c) ∧
      (∀ x ∈ p.members b, let m := (s.basin x.1).mere
        (u.basin x.1).mere = { m with staged := none, lastSet := (m.staged.map (·.set)).getD 0, gangLast := x.1 != b
                                      fp32Last := p.fmtA == .fp32 }) ∧
      (p.gang = 1 → p.tiledA = false → p.transA = false → p.skipEn = false → p.fmtA.isMX = false → ctlRound p.ctl = 0 →
        (p.rows ≤ 1 ∨ p.fmtD.bytesFor (p.cols 0) ≤ p.stridePart) → ∀ i < p.rows,
        let cm := p.cols 0
        let sets := (s.basin b).mere.sets
        let a := laneOf p.fmtA (s.codesAt p.fmtA (s.segAddr b k 0 (p.srcA + i * p.strideA)) p.kUse) []
        let parts := if p.fromZero then List.replicate cm 0
          else chunksLE 4 cm (s.read (s.segAddr b k 0 (p.partIn + i * p.stridePart)) (4 * cm))
        u.read (s.segAddr b k 0 (p.partOut + i * p.stridePart)) (p.fmtD.bytesFor cm) =
          packCodes p.fmtD.width ((List.range cm).map fun c => storeElem p.fmtD .nearest (ctlNonsat p.ctl)
            (laneSum a (columnLane p.fmtB (sets.getD st.set {}) (sets.getD 1 {}) c) (parts.getD c 0))))) ∧
  ∀ (s : State) (t b : Nat) (lowered : List (Nat × Nat)) (errs : List CheckErr), s.alive = true →
    ∃ u, exec (.merePassIssue t b false lowered errs) s = .next u ∧ u = { s with time := max s.time t, flights := u.flights } ∧
      ∀ g, u.pendingCount g = (s.flights.filter fun f => f.willWrite g && !lowered.contains (f.id, g)).length

/-- R143, R148, R149, R152, R154. Effects fall at issue (log entry 6); the details of the operations are log entry 25. -/
def Obligations.TarnOperations : Prop :=
  ∀ (s : State) (t b k : Nat) (d : Bytes), s.shaped = true → s.headIs b k d → s.poolSegment b k → dClass d = 2 → tarnIllegal d = none →
    s.unitBusy b .tarn = false → s.mayAccess b k (tarnAccesses b d) →
    let n := tCount d
    let kt := tKTiles d
    let fa := fmtD (fieldB d 14 1)
    let fb := fmtD (fieldB d 22 1)
    let fd := fmtD (ctlFormat (fieldB d 2 2))
    let nu := fieldB d 42 2
    let at_ (o : Nat) := s.segAddr b k 0 o
    let index (i : Nat) := leNat (s.read (at_ (fieldB d 32 6 + 4 * i)) 4)
    let w := s.writeRanges b k (tarnAccesses b d)
    let turn := s.hasTurn t b .tarn k fun u => u.weaveIssue b []
    let runs (c : Instr) (w : List Range) (post : State → Prop) := s.countsAllow w = true →
      (¬ turn → exec c s = .next (s.now t)) ∧ (turn →
      ∃ u, exec c s = .next u ∧ IssuedOn s u b k d .tarn w ∧
        u = { s with time := max s.time t, mem := u.mem, poison := u.poison, cxl := u.cxl, counters := u.counters
                     flights := u.flights, nextFlight := u.nextFlight, basins := u.basins, partitions := u.partitions
                     freeCount := u.freeCount } ∧
        (∀ f ∈ u.flights, f ∉ s.flights → f.lateFault = none) ∧ KeepsBytesOutside w s u ∧ NotesPages s u ∧
        (∀ q, u.port q = { s.port q with bytes := (u.port q).bytes, poison := (u.port q).poison }) ∧
        (∀ c, c ≠ b → u.basin c = { s.basin c with cache := (u.basin c).cache }) ∧
        u.basin b = { s.basin b with slots := (u.basin b).slots, lastGrant := s.grantsAfter b .tarn k b, cache := (u.basin b).cache
                                     inlets := (u.basin b).inlets, spmm := (u.basin b).spmm } ∧
        (dOp d ≠ 2 → u.cxl = s.cxl ∧ u.partitions = s.partitions ∧ u.freeCount = s.freeCount ∧
          ∀ c, (u.basin c).cache = (s.basin c).cache) ∧
        (dOp d ≠ 1 → (u.basin b).spmm = (s.basin b).spmm ∧ (u.basin b).inlets = List.replicate 64 ⟨false, []⟩) ∧
        (u.basin b).inlets.length = 64 ∧ (∀ x ∈ (u.basin b).inlets, x.zeroed = false ∧ x.entries.length ≤ 32) ∧ post u)
    let tile (r : Nat) := s.readTile [] [] fa r (at_ (fieldB d 8 6 + r * tileSize))
    (dOp d = 1 → tEngine d = 0 → (∀ r < n * kt, (tile r).headerBad = false ∧ (tile r).poisoned = false) → 4 * nu ≤ tStridePart d →
      let lines := (List.range (kt * fa.tileCols)).map fun l => s.codesAt fb (at_ (fieldB d 16 6 + l * tStride d)) nu
      runs (.spmm t b k []) w fun u => ∀ r < n, ∀ i < 64,
        let a := at_ (fieldB d 24 6 + (64 * r + i) * tStridePart d)
        let elems := (List.range kt).flatMap fun c =>
          let x := (tile (r * kt + c)).tile
          if tNnz x = 0 then [] else (((tileRows fa x).getD i []).filter fun z => z.2 != 0).map fun z => (c * fa.tileCols + z.1, z.2)
        u.read a (4 * nu) = packCodes 32
          (tarnRow fa fb fd lines elems (if tFromZero d then List.replicate nu 0 else s.codesAt fd a nu))) ∧
    (dOp d = 1 → tEngine d = 2 → (∀ r < n * kt, (tile r).headerBad = false ∧ (tile r).poisoned = false) →
      (∀ x ∈ tarnAccesses b d, x.field = 8 ∨ x.field = 24 → inNear (at_ x.off) x.len = true) →
      runs (.spmm t b k []) w fun u => ∃ y, (u.basin b).spmm = some y ∧ y.slot = k ∧ y.flight = s.nextFlight ∧
        y.items.map (·.ordinal) = (List.range (n * kt)).filter fun r => tNnz (tile r).tile != 0) ∧
    (dOp d = 2 → (∀ i < n, index i ≠ 0xFFFFFFFF →
        s.firstFault b k [⟨8, fieldB d 15 1, fieldB d 8 6 + index i * tStride d, tRowBytes d, false, .pools [b]⟩] = none ∧
        s.accessesWait b k [⟨8, fieldB d 15 1, fieldB d 8 6 + index i * tStride d, tRowBytes d, false, .pools [b]⟩] = false ∧
          ∀ q ∈ s.damagedUnits ++ (List.range i).map (fun j => (at_ (fieldB d 24 6 + j * tRowBytes d), tRowBytes d)),
            rangesMeet (s.segAddr b k (fieldB d 15 1) (fieldB d 8 6 + index i * tStride d), tRowBytes d) q = false) →
      runs (.gather t b k []) w fun u => ∀ i < n, u.read (at_ (fieldB d 24 6 + i * tRowBytes d)) (tRowBytes d) =
        if index i = 0xFFFFFFFF then zeros (tRowBytes d)
        else s.read (s.segAddr b k (fieldB d 15 1) (fieldB d 8 6 + index i * tStride d)) (tRowBytes d)) ∧
    (dOp d = 3 → let len := fd.bytesFor nu
      let row (i : Nat) := fieldB d 24 6 + index i * tStridePart d
      (∀ i < n, s.firstFault b k [⟨24, 0, row i, len, true, .pools [b]⟩, ⟨24, 0, row i, len, false, .pools [b]⟩] = none) →
      (∀ i < n, index i ≠ 0xFFFFFFFF) → s.poisoned (at_ (fieldB d 32 6)) (4 * n) = false →
      (tGenEn d = true → s.hasRetired b (fieldB d 56 2) = true →
        runs (.scatterAdd t b k []) [] fun u => KeepsBytes s u ∧
          u.counter 2 b cLateDiscard = StatCounter.bump n (s.counter 2 b cLateDiscard)) ∧
      (tGenEn d = false ∨ s.hasRetired b (fieldB d 56 2) = false → len ≤ tStridePart d → (∀ i < n, ∀ j < i, index j ≠ index i) →
        runs (.scatterAdd t b k []) ((List.range n).map fun i => (at_ (row i), len)) fun u => ∀ i < n,
          let v := if fieldB d 16 6 = 0 then Val.one else f32 (leNat (s.read (at_ (fieldB d 16 6 + 4 * i)) 4))
          u.read (at_ (row i)) len = packCodes fd.width (List.zipWith (accumulate fd fa v) (s.codesAt fd (at_ (row i)) nu)
            (s.codesAt fa (at_ (fieldB d 8 6 + i * tStride d)) nu)))) ∧
    (dOp d = 4 → tCombine d = false →
      let entry (i : Nat) := streamEntry (s.read (at_ (fieldB d 32 6 + 16 * i)) 16)
      let stream (i : Nat) : List (Nat × Nat) := (List.range (entry i).2.1).map fun j =>
        let r := s.read (at_ ((entry i).1 + 8 * j)) 8
        (fieldB r 0 4, fieldB r 4 4)
      let all := (List.range n).flatMap stream
      let dst := at_ (fieldB d 24 6)
      (∀ i < n, (entry i).2.2 = true ∧ (stream i).Pairwise (fun x y => x.1 ≤ y.1)) →
      s.mayAccess b k (⟨24, 0, fieldB d 24 6, 64 + 8 * all.length, true, .pools [b]⟩ ::
        ((List.range n).filter fun i => (entry i).2.1 != 0).map fun i => ⟨32, 0, (entry i).1, 8 * (entry i).2.1, false, .pools [b]⟩) →
      runs (.merge t b k []) [(dst, 64 + 8 * all.length)] fun u => ∃ out : List (Nat × Nat), out.Perm all ∧
        out.Pairwise (fun x y => x.1 ≤ y.1) ∧ u.read dst 8 = toLE 8 all.length ∧
        u.read (dst + 64) (8 * all.length) = out.flatMap fun r => toLE 4 r.1 ++ toLE 4 r.2) ∧
    (dOp d = 5 → fieldB d 32 6 = 0 → runs (.tilePack t b k []) w fun u => ∀ r < n * kt,
      let from_ (i : Nat) := at_ (fieldB d 8 6 + (64 * (r / kt) + i) * tStride d + 64 * (r % kt))
      u.read (at_ (fieldB d 24 6 + r * tileSize)) tileSize =
        buildTile fa r ((List.range 64).map fun i => chunksLE fa.tileBytes fa.tileCols (s.read (from_ i) 64))
          ((List.range 64).any fun i => s.poisoned (from_ i) 64)) ∧
    (dOp d = 6 → (∀ r < n * kt, (tile r).poisoned = false) → 64 * kt ≤ tStride d →
      runs (.tileUnpack t b k []) w fun u => ∀ r < n * kt, ∀ i < 64,
        u.read (at_ (fieldB d 24 6 + (64 * (r / kt) + i) * tStride d + 64 * (r % kt))) 64 =
          (denseRow fa.tileCols ((tileRows fa (tile r).tile).getD i [])).flatMap (toLE fa.tileBytes))

/-- R161 to R165, R171 to R173, R176 to R178. That results are written at issue is log entry 6. -/
def Obligations.RouteOperations : Prop :=
  ∀ (s : State) (t b k : Nat) (d : Bytes), s.shaped = true → s.headIs b k d → s.poolSegment b k → dClass d = 8 → routeIllegal d = none →
    s.unitBusy b .tarn = false →
    let n := fieldB d 4 4
    let wd := rWidth d
    let fa := fmtD (fieldB d 14 1)
    let fd := fmtD (ctlFormat (fieldB d 2 2))
    let at_ (o : Nat) := s.segAddr b k 0 o
    let quota := s.quotas (at_ (fieldB d 32 6))
    let xs := routeAccesses b (if dOp d = 2 then quota.sum else 0) d
    let w := s.writeRanges b k xs
    s.mayAccess b k xs → w.Pairwise (fun r q => rangesMeet r q = false) →
    let turn := s.hasTurn t b .tarn k fun u => u.weaveIssue b []
    let kept (u : State) : Prop := (∀ c, c ≠ b → u.basin c = s.basin c) ∧
      u.basin b = { s.basin b with slots := (u.basin b).slots, lastGrant := s.grantsAfter b .tarn k b
                                   inlets := List.replicate 64 ⟨false, []⟩, generations := (u.basin b).generations
                                   experts := (u.basin b).experts } ∧
      (dOp d ≠ 2 → (u.basin b).experts = (s.basin b).experts) ∧
      (dOp d ≠ 2 → dOp d ≠ 4 → (u.basin b).generations = (s.basin b).generations)
    let issues (c : Instr) (post : State → Prop) := s.countsAllow w = true →
      (¬ turn → exec c s = .next (s.now t)) ∧ (turn →
      ∃ u, exec c s = .next u ∧ IssuedOn s u b k d .tarn w ∧
        u = { s with time := max s.time t, mem := u.mem, poison := u.poison, counters := u.counters, flights := u.flights
                     nextFlight := u.nextFlight, basins := u.basins } ∧ KeepsBytesOutside w s u ∧ kept u ∧ post u)
    (dOp d = 1 → issues (.rank t b k []) fun u => ∀ x < n,
      let codes := s.codesAt fa (at_ (fieldB d 8 6 + x * rStride d)) wd
      let score (e : Nat) := decodeElem fa (codes.getD e 0)
      let before (e g : Nat) := if e < g then rankBefore (score e) (score g) = true else rankBefore (score g) (score e) = false
      ∃ es : List Nat, u.read (at_ (fieldB d 24 6) + 128 * x) 128 = listRecord fa codes es ∧ es.length = rLen d ∧ es.Nodup ∧
        (∀ e ∈ es, e < wd) ∧ es.Pairwise before ∧ ∀ g < wd, g ∉ es → ∀ e ∈ es, before e g) ∧
    (dOp d = 2 → s.countsAllow w = true → s.generationFits b (fieldB d 38 2) = false →
      exec (.place t b k []) s = .next (s.now t)) ∧
    (dOp d = 2 → s.generationFits b (fieldB d 38 2) = true → issues (.place t b k []) fun u =>
      let choice (x r : Nat) := u.read (at_ (fieldB d 24 6 + 64 * x) + 8 * r) 8
      fieldB d 38 2 ∈ (u.basin b).generations.outstanding ∧
      (∀ e < 4096, fieldB (u.read (at_ (alignUp (fieldB d 52 6 + 8 * quota.sum) 4096)) 8192) (2 * e) 2 ≤ quota.getD e 0) ∧
      ∀ x < n, ∀ r < rK d, let e := fieldB (choice x r) 0 2
        e = 0xFFFF ∨ (e < 4096 ∧ fieldB (choice x r) 2 2 < quota.getD e 0 ∧ ∀ q < r, fieldB (choice x q) 0 2 ≠ e)) ∧
    (dOp d = 3 → rK d = 1 → (∀ x ∈ xs, x.write = false → x.field = 8 ∨ x.field = 16 → ∀ q ∈ w,
        rangesMeet (at_ x.off, x.len) q = false) →
      let map := s.read (at_ (fieldB d 32 6)) (ceilDiv n 8)
      let entry (x : Nat) := s.read (at_ (fieldB d 16 6 + 64 * x)) 8
      let placed (x : Nat) : Bool := fieldB (entry x) 0 2 != 0xFFFF
      issues (.combine t b k []) fun u =>
        (∀ x < n, let a := at_ (fieldB d 24 6 + x * rStride d)
          u.read a (fd.bytesFor wd) = packCodes fd.width
            (if placed x && bitmapBit map x then
              List.zipWith (accumulate fd fa (f32 (fieldB (entry x) 4 4))) (s.codesAt fd a wd)
                (s.codesAt fa (at_ (fieldB d 8 6 + x * stageBytes wd fa)) wd)
             else s.codesAt fd a wd)) ∧
        (∀ x < n, bitmapBit (u.read (at_ (fieldB d 32 6)) (ceilDiv n 8)) x = (bitmapBit map x && !placed x)) ∧
        u.counter 2 b cRouteAbsent =
          (let m := ((List.range n).filter fun x => placed x && !bitmapBit map x).length
           if m = 0 then s.counter 2 b cRouteAbsent else StatCounter.bump m (s.counter 2 b cRouteAbsent))) ∧
    (dOp d = 4 → (¬ turn → exec (.retire t b k []) s = .next (s.now t)) ∧ (turn →
      ∃ u, exec (.retire t b k []) s = .next u ∧ IssuedOn s u b k d .tarn [] ∧
      u = { s with time := max s.time t, flights := u.flights, nextFlight := u.nextFlight, basins := u.basins } ∧ kept u ∧
      let x := (s.basin b).generations
      let ends (h : Nat) : Prop := h = fieldB d 38 2 ∨ (bit (fieldB d 31 1) 6 = true ∧ serialDiff 16 (fieldB d 38 2) h < 4096)
      ∀ h, (h ∈ (u.basin b).generations.outstanding ↔ h ∈ x.outstanding ∧ ¬ ends h) ∧
        (h ∈ (u.basin b).generations.retired ↔ h ∈ x.retired ∨ (h ∈ x.outstanding ∧ ends h)))) ∧
    (dOp d = 5 → let seqs := (List.range n).map fun i =>
        let r := s.read (at_ (fieldB d 8 6 + 8 * i)) 8
        (fieldB r 0 4, fieldB r 4 4)
      let total := fieldB d 60 4
      (∀ i, sequenceBad total 0 0 seqs = some i → (s.slot b k).mailboxOk →
        ∃ u, exec (.maskBuild t b k []) s = .next u ∧ HaltsWith s u t b k .sequenceTable i 0 0 0) ∧
      (sequenceBad total 0 0 seqs = none → issues (.maskBuild t b k []) fun u => ∀ q < total,
        let r := u.read (at_ (fieldB d 32 6) + 8 * q) 8
        (fieldB r 0 4, fieldB r 4 4) = match seqs.find? (fun x => x.1 ≤ q && q < x.1 + x.2) with
          | some x => (x.1, if bit (fieldB d 31 1) 7 then q + 1 else x.1 + x.2)
          | none => (0, 0))) ∧
    (dOp d = 6 → issues (.maskApply t b k []) fun u => ∀ i < n, ∀ c < wd,
      let r := s.read (at_ (fieldB d 32 6 + 8 * i)) 8
      let key := fieldB d 60 4 + c
      let a := at_ (fieldB d 24 6 + i * rStride d) + 4 * c
      u.read a 4 = if fieldB r 0 4 ≤ key ∧ key < fieldB r 4 4 then s.read a 4 else toLE 4 0xFF800000)
/-- R286, R288, R289, R291, R293, R294, R112. -/
def Obligations.SyncOperations : Prop :=
  ∀ (s : State) (t b k : Nat) (d : Bytes), s.shaped = true → s.headIs b k d → dClass d = 6 → syncIllegal d = none →
    let p := (s.partitionOf b).getD 8
    let dev := fieldB d 4 2
    let cell := fieldB d 2 1
    let v := fieldB d 6 2
    let part := bits (fieldB d 3 1) 5 3
    let x := s.slot b k
    let y : Slot := { x with position := x.position + 16 }
    let idle (c : Instr) := exec c s = .next (s.now t)
    let local_ (c : Instr) (z : Slot) (g : SyncCell → SyncCell) := ∃ u, exec c s = .next u ∧
      u = { s with time := max s.time t, basins := u.basins, counters := u.counters } ∧ SlotBecomes s u b k z ∧
      (∀ e j, u.cell e j = if e = b ∧ j = cell then g (s.cell e j) else s.cell e j) ∧
      u.counters = if dOp d = 1 ∧ 0xFFFF < (s.cell b cell).count.toNat + v then (s.bumpBasin b cSyncSaturated).counters else s.counters
    let halts (c : Instr) (code : FaultCode) (d0 : Nat) := (s.slot b k).mailboxOk → ∃ u, exec c s = .next u ∧ HaltsWith s u t b k code d0 0 0 0
    (dOp d = 1 → local_ (.syncSetCell t b k) y (fun c => c.plus v)) ∧
    (dOp d = 3 → local_ (.arm t b k) y (fun c => { c with count := 0, target := BitVec.ofNat 16 v })) ∧
    (dOp d = 4 → if (s.cell b cell).isSet = true then local_ (.wait t b k) y id else idle (.wait t b k)) ∧
    (dOp d = 7 → if fieldB d 8 8 ≤ s.stepOf b then local_ (.waitStep t b k) y id else idle (.waitStep t b k)) ∧
    (dOp d = 0x40 → local_ (.layerMark t b k)
      { y with regionPart := bits (fieldB d 4 1) 2 1, regionFrozen := bit (fieldB d 4 1) 0 } id) ∧
    (dOp d = 2 → (s.ctxFor p dev = none → halts (.setRemote t b k) .noPeer dev) ∧
      ∀ c, s.reaches p dev 0 c → (∀ f ∈ s.flights, f.unit ≠ .remoteSet) →
        ∃ u w, exec (.setRemote t b k) s = .next u ∧
          Handed s w (max s.time t) c (tc0 0x10 part 0 (toLE 1 (fieldB d 3 1 % 8) ++ toLE 1 cell ++ toLE 2 v)) (.flight s.nextFlight) ∧
          u = { w with time := max s.time t, basins := u.basins, nextFlight := s.nextFlight + 1
                       flights := s.flights ++ [{ id := s.nextFlight, unit := .remoteSet, basin := b, slot := k, setCell := none, writes := []
                                                  basins := [b], step := s.stepOf b, isPlace := false, lateFault := none }] } ∧
          SlotBecomes s u b k y ∧ ∀ e j, u.cell e j = s.cell e j) ∧
    (dOp d = 6 → (s.ctxFor p dev = none → halts (.pair t b k) .noPeer dev) ∧
      (∀ c, s.ctxFor p dev = some c → c.lost = true → ∃ u, exec (.pair t b k) s = .next u ∧
        u = { s with time := max s.time t, basins := u.basins, counters := u.counters } ∧ SlotBecomes s u b k y ∧ CellGains s u b cell 1 ∧
        u.counter 2 b cBarrierLost = StatCounter.bump 1 (s.counter 2 b cBarrierLost)) ∧
      ∀ c, s.reaches p dev 0 c → ∃ u w e, exec (.pair t b k) s = .next u ∧
        Handed s w (max s.time t) c (tc0 0x13 part 0 (barrierRest 0 c.pairNumber)) .none ∧ w.ctx c.index = some e ∧
        u = { w with time := max s.time t, basins := u.basins, counters := u.counters, contexts := u.contexts } ∧
        (∀ i, i ≠ c.index → u.ctx i = s.ctx i) ∧ SlotBecomes s u b k y ∧
        if c.pairNumber ∈ c.pairIn then
          u.ctx c.index = some { e with pairNumber := (c.pairNumber + 1) % 2 ^ 32, pairIn := c.pairIn.erase c.pairNumber } ∧ CellGains s u b cell 1
        else
          u.ctx c.index = some { e with
            pairNumber := (c.pairNumber + 1) % 2 ^ 32, pairOut := c.pairOut ++ [(b, k, some cell, c.pairNumber)] } ∧
          ∀ g j, u.cell g j = s.cell g j) ∧
    (dOp d = 5 → (s.tree p v = none → halts (.barrier t b k) .treeUndefined v) ∧
      ∀ r, s.tree p v = some r → (r.outstanding ≠ none → idle (.barrier t b k)) ∧ (r.outstanding = none →
        let open_ : TreeRec := { r with outstanding := some (b, k, some cell) }
        let arrived := ∀ c ∈ r.children, (c, r.number) ∈ r.arrivals ∨ s.peerLive p c = false
        let treeIs (u : State) (z : TreeRec) := (∀ q, u.partition q = { s.partition q with trees := (u.partition q).trees }) ∧
          (∀ q j, u.tree q j = if q = p ∧ j = v then some z else s.tree q j)
        (¬ arrived → ∃ u, exec (.barrier t b k) s = .next u ∧
          u = { s with time := max s.time t, basins := u.basins, partitions := u.partitions } ∧ SlotBecomes s u b k y ∧
          (∀ e j, u.cell e j = s.cell e j) ∧ treeIs u open_) ∧
        (arrived → (∀ e, r.parent = some e → s.peerLive p e = false) → ∃ u, exec (.barrier t b k) s = .next u ∧
          u = { s with time := max s.time t, basins := u.basins, counters := u.counters, partitions := u.partitions
                       contexts := u.contexts, router := u.router } ∧ SlotBecomes s u b k y ∧ CellGains s u b cell 1 ∧
          treeIs u { r with number := (r.number + 1) % 2 ^ 32, outstanding := none, arriveSent := false
                            arrivals := r.arrivals.filter fun a => a.2 != r.number }) ∧
        (arrived → r.arriveSent = false → ∀ e c, r.parent = some e → s.reaches p e 0 c → ∃ u w, exec (.barrier t b k) s = .next u ∧
          Handed s w (max s.time t) c (tc0 0x11 r.parentPart 0 (barrierRest v r.number)) .none ∧
          u = { w with time := max s.time t, basins := u.basins, partitions := u.partitions } ∧ SlotBecomes s u b k y ∧
          (∀ g j, u.cell g j = s.cell g j) ∧ treeIs u { open_ with arriveSent := true })))

/-- R289, R293. -/
def Obligations.SyncMessages : Prop :=
  ∀ (s : State) (t : Nat), s.alive = true → s.shaped = true →
    let inbox (type : Nat) := s.inboxFind fun m => m.cls == 0 && m.type == type
    let idle (c : Instr) := exec c s = .next (s.now t)
    let sets (u : State) (b : Nat) (c : Option Nat) : Prop := match c with
      | some j => CellGains s u b j 1
      | none => ∀ e j, u.cell e j = s.cell e j
    let released (r : TreeRec) : TreeRec := { r with
      number := (r.number + 1) % 2 ^ 32, outstanding := none, arriveSent := false, arrivals := r.arrivals.filter fun a => a.2 != r.number }
    (inbox 0x10 = none → idle (.syncSet t)) ∧ (inbox 0x11 = none → idle (.arrive t)) ∧
    (inbox 0x12 = none → idle (.release t)) ∧ (inbox 0x13 = none → idle (.pairArrive t)) ∧
    (∀ x, inbox 0x10 = some x →
      let b := fieldB x.2.2.payload 6 1 % 8
      ∃ u v, exec (.syncSet t) s = .next u ∧ Taken s v x ∧
        u = { v with time := max s.time t, basins := u.basins, counters := u.counters } ∧
        if s.holdsBasin x.1 b = true then
          CellsOnly s u ∧ CellGains s u b (fieldB x.2.2.payload 7 1) (fieldB x.2.2.payload 8 2)
        else u.basins = s.basins ∧ u.counters = (s.bumpBasin b cSyncReject).counters) ∧
    (∀ x, inbox 0x11 = some x →
      let p := x.1
      let i := fieldB x.2.2.payload 6 1 % 32
      let n := fieldB x.2.2.payload 8 4
      (s.tree p i = none → ∃ u v, exec (.arrive t) s = .next u ∧ Taken s v x ∧ u = v.now t) ∧
      ∀ r, s.tree p i = some r →
        let r' : TreeRec := { r with arrivals := r.arrivals ++ [(x.2.2.src, n)] }
        (x.2.2.src ∉ r.children → ∃ u v, exec (.arrive t) s = .next u ∧ Taken s v x ∧ u = v.now t) ∧
        (x.2.2.src ∈ r.children → r.outstanding = none → ∃ u v, exec (.arrive t) s = .next u ∧ Taken s v x ∧
          u = { v with time := max s.time t, partitions := u.partitions } ∧ u.tree p i = some r') ∧
        ∀ b k c, x.2.2.src ∈ r.children → r.outstanding = some (b, k, c) → b < 8 → (∀ j, c = some j → j < 256) → r.parent = none →
          (∀ e ∈ r.children, (e, r.number) ∈ r'.arrivals) → ∃ u v, exec (.arrive t) s = .next u ∧ Taken s v x ∧
            u = { v with time := max s.time t, partitions := u.partitions, contexts := u.contexts, router := u.router
                         basins := u.basins, counters := u.counters } ∧
            CellsOnly s u ∧ sets u b c ∧ u.tree p i = some (released r')) ∧
    (∀ x r, inbox 0x12 = some x → s.tree x.1 (fieldB x.2.2.payload 6 1 % 32) = some r →
      let i := fieldB x.2.2.payload 6 1 % 32
      let n := fieldB x.2.2.payload 8 4
      (r.parent ≠ some x.2.2.src ∨ r.outstanding = none ∨ r.number ≠ n →
        ∃ u v, exec (.release t) s = .next u ∧ Taken s v x ∧ u = v.now t) ∧
      ∀ b k c, r.parent = some x.2.2.src → r.outstanding = some (b, k, c) → r.number = n → b < 8 → (∀ j, c = some j → j < 256) →
        ∃ u v, exec (.release t) s = .next u ∧ Taken s v x ∧
          u = { v with time := max s.time t, partitions := u.partitions, contexts := u.contexts, router := u.router
                       basins := u.basins, counters := u.counters } ∧
          CellsOnly s u ∧ sets u b c ∧ u.tree x.1 i = some (released r)) ∧
    ∀ x c, inbox 0x13 = some x → s.ctx x.2.1 = some c →
      let n := fieldB x.2.2.payload 8 4
      (c.pairOut.find? (fun y => y.2.2.2 == n) = none → ∃ u v e, exec (.pairArrive t) s = .next u ∧ Taken s v x ∧
        v.ctx x.2.1 = some e ∧ u = { v with time := max s.time t, contexts := u.contexts } ∧
        u.ctx x.2.1 = some { e with pairIn := c.pairIn ++ [n] }) ∧
      ∀ b k cell, c.pairOut.find? (fun y => y.2.2.2 == n) = some (b, k, cell, n) → b < 8 → (∀ j, cell = some j → j < 256) →
        ∃ u v e, exec (.pairArrive t) s = .next u ∧ Taken s v x ∧ v.ctx x.2.1 = some e ∧
          u = { v with time := max s.time t, contexts := u.contexts, basins := u.basins, counters := u.counters } ∧
          u.ctx x.2.1 = some { e with pairOut := c.pairOut.filter fun y => y.2.2.2 != n } ∧ CellsOnly s u ∧ sets u b cell

/-- R259, R260, R262, R284, R112. JOIN's bytes beyond the Place field are log entry 33. -/
def Obligations.CollectivesIssue : Prop :=
  ∀ (s : State) (t b k : Nat) (d : Bytes), s.shaped = true → s.headIs b k d → s.capturing = false → dClass d = 7 →
    let p := (s.partitionOf b).getD 8
    let gid := cGid d
    let seq := cSeq d
    let step := s.stepOf b
    let mine := s.instances.filter fun (i : Inst) => i.member.isSome
    let busy := 64 ≤ mine.length ∨ ∃ i ∈ mine, i.gid = gid ∧ i.seq = seq
    let rows (f : Instr → Prop) := (dOp d = 1 → f (.reduceScatter t b k [])) ∧ (dOp d = 2 → f (.allGather t b k [])) ∧
      (dOp d = 3 → f (.norm t b k [])) ∧ (dOp d = 4 → f (.reshard t b k [])) ∧ (dOp d = 5 → f (.dispatch t b k [])) ∧
      (dOp d = 6 → f (.collReturn t b k []))
    let halts (code : FaultCode) (d0 : Nat) (c : Instr) := (s.slot b k).mailboxOk → ∃ u, exec c s = .next u ∧ HaltsWith s u t b k code d0 0 0 0
    ((s.slot b k).regionPart = 2 → rows (halts .illegalDescriptor 0)) ∧
    ((s.slot b k).regionPart ≠ 2 → collIllegal d = none →
      (busy → rows fun c => exec c s = .next (s.now t)) ∧
      (¬ busy → (s.group p gid = none → rows (halts .groupUndefined gid)) ∧
        ∀ g tr, s.group p gid = some g → collGroupIllegal g d = none → s.tree p g.tree = some tr →
          let held := dOp d == 1 && (s.partition p).lates.any fun l => l.gid == gid && l.seq == seq && l.heldFrom.isSome
          let xs := s.collAccesses b k g held d
          let w := s.writeRanges b k xs
          s.mayAccess b k xs → s.accessesWait b k xs = false → s.countsAllow w = true →
          rows fun c => ∃ u, exec c s = .next u ∧ IssuedOn s u b k d .collective w ∧
            u = { s with time := max s.time t, funcs := u.funcs, msix := u.msix, alertTotals := u.alertTotals, ibis := u.ibis, mem := u.mem
                         poison := u.poison, cxl := u.cxl, partitions := u.partitions, basins := u.basins, counters := u.counters
                         freeCount := u.freeCount, contexts := u.contexts, router := u.router, flights := u.flights, nextFlight := u.nextFlight
                         instances := u.instances } ∧
            (∀ e, u.basin e = { s.basin e with slots := (u.basin e).slots, cache := (u.basin e).cache }) ∧
            KeepsBytesOutside w s u ∧ (dOp d ≠ 5 → KeepsBytes s u) ∧ NotesPages s u ∧
            (∀ q, u.port q = { s.port q with bytes := (u.port q).bytes, poison := (u.port q).poison }) ∧
            (∃ i ∈ u.instances, i.part = p ∧ i.gid = gid ∧ i.seq = seq ∧ i.step = step ∧
              i.member = some { basin := b, slot := k, flight := s.nextFlight, desc := d, lateHeld := held }) ∧
            (∀ i, i.part ≠ p ∨ i.gid ≠ gid ∨ i.seq ≠ seq ∨ i.step ≠ step → (i ∈ u.instances ↔ i ∈ s.instances)) ∧
            let join (part : Nat) := tc0 0x20 part (collPlace gid seq 0) (joinRest g.ownRank held step)
            (tr.parent = none → u.contexts = s.contexts ∧ u.router = { s.router with
              inbox := s.router.inbox ++ [(p, selfCtx, { join p with src := s.deviceId, dst := s.deviceId })] }) ∧
            ∀ e x, tr.parent = some e → s.reaches p e 0 x → ∃ v, Handed s v (max s.time t) x (join tr.parentPart) .none ∧
              u.contexts = v.contexts ∧ u.router = v.router))

/-- R262, R263, R264, R277. Message layouts are log entry 33; how many joined, and the adopter, are log entry 34. -/
def Obligations.JoinsAndStarts : Prop :=
  ∀ (s : State) (t : Nat), s.alive = true → s.shaped = true → s.capturing = false →
    let inbox (type : Nat) := s.inboxFind fun m => m.cls == 0 && m.type == type
    let climbs (u : State) (f : Nat → List (Nat × Nat × Nat) → List (Nat × Nat × Nat)) : Prop :=
      ∀ q, u.partition q = { s.partition q with climbed := f q (s.partition q).climbed }
    let settled (u : State) (x : Nat × Nat × Msg) : Prop := climbs u fun q l =>
      if q = x.1 then l.filter fun c => !(c.1 == x.2.2.gid && c.2.1 == x.2.2.seqNo) else l
    let idle (c : Instr) := exec c s = .next (s.now t)
    let onlyTaken (c : Instr) (x : Nat × Nat × Msg) := ∃ u v, exec c s = .next u ∧ Taken s v x ∧ u = v.now t
    (inbox 0x20 = none → idle (.join t)) ∧ (∀ joined late adopter, inbox 0x22 = none → idle (.excluded t joined late adopter)) ∧
    (∀ x, inbox 0x20 = some x →
      let p := x.1
      let m := x.2.2
      let rank := fieldB m.payload 6 2
      let held := bit (fieldB m.payload 8 1) 0
      let step := fieldB m.payload 10 8
      let key : Inst := { part := p, gid := m.gid, seq := m.seqNo, step := step }
      let found := s.findInst p m.gid m.seqNo fun i => i.step == step
      (s.group p m.gid = none → m.src ≠ s.deviceId → ∃ u v, exec (.join t) s = .next u ∧ Taken s v x ∧
        ∀ c, v.reaches p m.src 0 c → ∃ w, Handed v w (max s.time t) c (tc0 0x25 p (collPlace m.gid m.seqNo 0) []) .none ∧ u = w.now t) ∧
      ∀ g tr, s.group p m.gid = some g → s.tree p g.tree = some tr →
        (∀ e, tr.parent = some e → ∃ u v, exec (.join t) s = .next u ∧ Taken s v x ∧ ∀ c, v.reaches p e 0 c →
          ∃ w, Handed v w (max s.time t) c (tc0 m.type tr.parentPart m.place44 (m.payload.drop 6)) .none ∧
            u = { w with time := max s.time t, partitions := u.partitions } ∧
            climbs u fun q l => if q = p then l ++ [(m.gid, m.seqNo, m.src)] else l) ∧
        (tr.parent = none → found = none → g.weir = 0 →
          (∃ r < g.n, r ≠ rank ∧ s.memberLost p g (g.members.getD r 0xFFFF) = false) → ∃ u v, exec (.join t) s = .next u ∧ Taken s v x ∧
            let r : RootPart :=
              { joins := [(rank, held)], firstJoin := max s.time t, weir := 0, weirFromStill := g.weirFromStill, minJoin := g.minJoin }
            u = { v with time := max s.time t, instances := s.instances ++ [{ key with root := some r }] }) ∧
        ∀ i r, tr.parent = none → found = some i → i.root = some r →
          (r.joins.any (fun j => j.1 == rank) = true → onlyTaken (.join t) x) ∧
          (r.joins.any (fun j => j.1 == rank) = false → r.started = true → ∃ u v, exec (.join t) s = .next u ∧ Taken s v x ∧
            u = { v with time := max s.time t, contexts := u.contexts, router := u.router }) ∧
          (r.joins.any (fun j => j.1 == rank) = false → r.started = false →
            (∀ y < g.n, y = rank ∨ r.joins.any (fun j => j.1 == y) = true) → ∃ u v, exec (.join t) s = .next u ∧ Taken s v x ∧
              u = { v with time := max s.time t, contexts := u.contexts, router := u.router, instances := u.instances } ∧
              let lost (y : Nat) := s.memberLost p g (g.members.getD y 0xFFFF) = true
              ((∀ y < g.n, ¬ lost y) →
                let r' : RootPart := { r with joins := r.joins ++ [(rank, held)], started := true, joined := List.range g.n }
                u.findInst p m.gid m.seqNo (fun i => i.step == step) = some { i with root := some r' }) ∧
              ((∃ y < g.n, lost y) → ∀ j ∈ u.instances, j.part = p → j.gid = m.gid → j.seq = m.seqNo → j.step = step → j.root = none))) ∧
    (∀ p gid seq, let ripe := s.findInst p gid seq fun i =>
        match i.root with | some r => !r.started && (s.now t).weirClosed i r | none => false
      (ripe = none → idle (.weirClose t p gid seq)) ∧
      ∀ i r g, ripe = some i → i.root = some r → s.group i.part i.gid = some g →
        let js := sortRanks g.n (r.joins.map (·.1))
        (js.length < r.minJoin → (∃ y < g.n, y ∉ js ∧ s.memberLost i.part g (g.members.getD y 0xFFFF) = false) →
          idle (.weirClose t p gid seq)) ∧
        (r.minJoin ≤ js.length → (∀ y ∈ js, s.memberLost i.part g (g.members.getD y 0xFFFF) = false) → ∃ u, exec (.weirClose t p gid seq) s = .next u ∧
          u = { s with time := max s.time t, contexts := u.contexts, router := u.router, instances := u.instances, counters := u.counters } ∧
          { i with root := some { r with started := true, joined := js } } ∈ u.instances ∧
          ∀ b, s.weirBasin i = some b → u.counter 2 b cWeirClosed =
            if js.length < g.n then StatCounter.bump 1 (s.counter 2 b cWeirClosed) else s.counter 2 b cWeirClosed)) ∧
    (∀ x, inbox 0x21 = some x → (s.instances = [] → onlyTaken (.collStart t) x) ∧
      ∀ i m g, s.instances = [i] → i.member = some m → m.started = false → m.excluded = false → i.part = x.1 → i.gid = x.2.2.gid →
        i.seq = x.2.2.seqNo → s.group x.1 x.2.2.gid = some g →
        let body := x.2.2.payload.drop 6
        let absent := m.absent ++ chunksLE 2 ((body.length - 4) / 2) (body.drop 4)
        let m' : MemberPart := { m with joinedCount := fieldB body 0 2, lateFolded := fieldB body 2 2, absent := absent, root := x.2.2.src
                                        startStep := (s.partition x.1).step, joined := [] }
        ∃ u v, exec (.collStart t) s = .next u ∧ Taken s v x ∧
          (fieldB body 0 2 + absent.length < g.n → settled u x ∧
            u = { v with time := max s.time t, instances := [{ i with member := some m' }], partitions := u.partitions }) ∧
          (g.n ≤ fieldB body 0 2 + absent.length → s.memberLost x.1 g x.2.2.src = false →
            (∀ y < g.n, y ∉ absent → s.memberLost x.1 g (g.members.getD y 0xFFFF) = false) → ∃ i' m'', u.instances = [i'] ∧ i'.member = some m'' ∧ m''.started = true ∧
            m''.joined = (List.range g.n).filter (fun r => !absent.contains r) ∧ m''.joinedCount = fieldB body 0 2 ∧ m''.desc = m.desc)) ∧
    ∀ x joined late adopter, inbox 0x22 = some x →
      let run := Instr.excluded t joined late adopter
      (s.group x.1 x.2.2.gid = none → onlyTaken run x) ∧
      ∀ g, s.group x.1 x.2.2.gid = some g → fieldB x.2.2.payload 6 2 = g.ownRank →
        let found := s.findInst x.1 x.2.2.gid x.2.2.seqNo fun i =>
          match i.member with | some m => !m.started && !m.excluded | none => false
        (found = none → ∃ u v, exec run s = .next u ∧ Taken s v x ∧ settled u x ∧
          u = { v with time := max s.time t, partitions := u.partitions }) ∧
        ∀ i m, found = some i → i.member = some m →
          let same (j : Inst) := j.part = i.part ∧ j.gid = i.gid ∧ j.seq = i.seq ∧ j.step = i.step
          let ends (u : State) : Prop := (∀ j ∈ u.instances, same j → j.member = none) ∧ u.flights = s.flights.filter fun f => f.id != m.flight
          let counted (u : State) (n : Nat) : Prop := u.counter 2 m.basin n = StatCounter.bump 1 (s.counter 2 m.basin n)
          let y := s.partition i.part
          (i.step ≠ y.step ∨ y.stillPhase ≠ .idle → ∃ u, exec run s = .next u ∧ ends u ∧ counted u cLateStale) ∧
          (i.step = y.step → y.stillPhase = .idle → g.lateAdd = false → ∃ u, exec run s = .next u ∧ counted u cLateDropped ∧
            (dOp m.desc ≠ 1 → ends u) ∧
            let gone := s.ctxLost i.part (g.members.getD adopter 0xFFFF)
            (dOp m.desc = 1 → gone = true → ends u) ∧
            let m' : MemberPart := { m with joinedCount := joined, lateFolded := late, excluded := true, adopter := some adopter }
            (dOp m.desc = 1 → gone = false → u.flights = s.flights ∧ { i with member := some m' } ∈ u.instances))

/-- R262, R265, R268, R269, R272, R275, R279, R280, R281, R282. -/
def Obligations.CollectiveMessages : Prop :=
  ∀ (s : State) (t : Nat), s.alive = true → s.shaped = true → s.capturing = false →
    let inbox (type : Nat) := s.inboxFind fun m => m.cls == 0 && m.type == type
    let onlyTaken (c : Instr) (x : Nat × Nat × Msg) := ∃ u v, exec c s = .next u ∧ Taken s v x ∧ u = v.now t
    let same (i j : Inst) := j.part = i.part ∧ j.gid = i.gid ∧ j.seq = i.seq ∧ j.step = i.step
    let memberEnds (u : State) (i : Inst) (m : MemberPart) := (∀ j ∈ u.instances, same i j → j.member = none) ∧
      u.flights = s.flights.filter fun f => f.id != m.flight
    let data (type : Nat) := s.router.inbox.find? fun x => x.2.2.cls != 0 && x.2.2.type == type && s.taker x.1 x.2.2 != some none
    (∀ x, inbox 0x23 = some x → (s.group x.1 x.2.2.gid = none → onlyTaken (.collDone t) x) ∧
      ∀ g tr, s.group x.1 x.2.2.gid = some g → s.tree x.1 g.tree = some tr →
        (∀ e, tr.parent = some e → ∃ u v, exec (.collDone t) s = .next u ∧ Taken s v x ∧ ∀ c, v.reaches x.1 e 0 c → ∃ w,
          Handed v w (max s.time t) c (tc0 x.2.2.type tr.parentPart x.2.2.place44 (x.2.2.payload.drop 6)) .none ∧ u = w.now t) ∧
        ∀ i r, tr.parent = none → s.findInst x.1 x.2.2.gid x.2.2.seqNo (fun i => i.rootRuns) = some i → i.root = some r →
          let dones := r.dones.erase (fieldB x.2.2.payload 6 2) ++ [fieldB x.2.2.payload 6 2]
          let r' : RootPart := { r with dones := dones, ended := r.ended || r.joined.all (fun y => dones.contains y) }
          ∃ u, exec (.collDone t) s = .next u ∧ { i with root := some r' } ∈ u.instances) ∧
    (∀ x, s.inboxNext (fun x => x.2.2.cls == 0 && x.2.2.type == 0x24 && !s.dataWaiting x.1 x.2.2.gid x.2.2.seqNo) = some x →
      let found := s.findInst x.1 x.2.2.gid x.2.2.seqNo fun i => match i.member with | some m => m.doneSent | none => false
      (found = none → onlyTaken (.collEnd t) x) ∧
      ∀ i m g, found = some i → i.member = some m → s.group x.1 x.2.2.gid = some g →
        ∃ u, exec (.collEnd t) s = .next u ∧ memberEnds u i m) ∧
    (∀ x, inbox 0x25 = some x → (s.group x.1 x.2.2.gid = none → onlyTaken (.collBreak t) x) ∧
      ∀ g tr, s.group x.1 x.2.2.gid = some g → s.tree x.1 g.tree = some tr →
        (∀ i, tr.parent = none → x.2.2.src ≠ s.deviceId → s.findInst x.1 x.2.2.gid x.2.2.seqNo Inst.rootOpen = some i →
          ∃ u, exec (.collBreak t) s = .next u ∧ ∀ j ∈ u.instances, same i j → j.root = none) ∧
        ∀ i m, x.2.2.src = s.deviceId ∨ (tr.parent ≠ none ∧ x.2.2.src ∉ tr.children) →
          s.findInst x.1 x.2.2.gid x.2.2.seqNo (fun i => i.member.isSome) = some i → i.member = some m →
          ∃ u, exec (.collBreak t) s = .next u ∧ memberEnds u i m ∧
            u.counter 2 m.basin cCollBroken = StatCounter.bump 1 (s.counter 2 m.basin cCollBroken)) ∧
    (∀ x, (data 0x28 = some x → s.taker x.1 x.2.2 = none → onlyTaken (.rsBlocks t) x) ∧
      (data 0x29 = some x → s.taker x.1 x.2.2 = none → onlyTaken (.scaleEcho t) x) ∧
      (data 0x2A = some x → s.findInst x.1 x.2.2.gid x.2.2.seqNo (fun i => i.member.isSome || i.rootRuns) = none → onlyTaken (.normValue t) x) ∧
      (data 0x2B = some x → s.taker x.1 x.2.2 = none → onlyTaken (.shardData t) x) ∧
      (s.router.inbox = [x] → x.2.2.cls = 2 → s.taker x.1 x.2.2 = none → (x.2.2.type = 0x2C → onlyTaken (.dispatchRow t) x) ∧
        (x.2.2.type = 0x2D → ∃ u v, exec (.returnRow t) s = .next u ∧ Taken s v x ∧
          let pay := x.2.2.payload
          let home := fieldB pay 5 1 % 8
          let late := (fieldB pay 4 1 < 8 && !x.2.2.unitPoisoned 0 && s.holdsBasin x.1 home && !s.outstanding home (fieldB pay 6 2)) = true
          u = { v with time := max s.time t, counters := u.counters } ∧
          (late → u.counters = (s.bumpBasin home cLateDiscard).counters) ∧ (¬ late → u.counters = s.counters)))) ∧
    ∀ x i m g, s.router.inbox = [x] → s.instances = [i] → i.member = some m → i.root = none → s.taker x.1 x.2.2 = some (some (i, m, g)) →
      let pay := x.2.2.payload
      let row := cRow m.desc
      (m.excluded = true → m.started = false → x.2.2.cls = 1 → (x.2.2.type = 0x28 → onlyTaken (.rsBlocks t) x) ∧
        (x.2.2.type = 0x29 → onlyTaken (.scaleEcho t) x) ∧
        (x.2.2.type = 0x2B → pay = [] → ∃ u, exec (.shardData t) s = .next u ∧ memberEnds u i m)) ∧
      (m.started = true → x.2.2.cls = 1 →
        let q := s.ringJob i m g
        let o := x.2.2.item
        let stays (u : State) (m' : MemberPart) := u.instances = [{ i with member := some m' }]
        (x.2.2.type = 0x28 → dOp m.desc = 1 → g.hier = false → o < q.total → pay.length = wireSize q.bf →
          let w := blockFrom q.bf (sliceB pay 0 (wireSize q.bf)) false
          let vs := (q.contribution s o).1
          let z := if q.bf = true then hopBf w vs else hop w vs 0 false false
          let vals := if q.bf = true then List.zipWith Val.add (w.values true) vs else z.values false
          let fd := cFmtDst m.desc
          let a := s.segAddr m.basin m.slot (cSegDst m.desc) (cDst m.desc) + fd.bytesFor (64 * (o % q.c))
          let bs := packCodes fd.width (plainCodes fd (cCtl m.desc) (List.replicate 64 .nearest) vals)
          (q.inner o ≠ q.x → ∃ u m', exec (.rsBlocks t) s = .next u ∧ KeepsBytes s u ∧ stays u m' ∧
            m' = { m with received := m.received + 1, doneSent := m'.doneSent } ∧
            ∀ c, s.reaches i.part (q.dev (g.nextOf q.js q.x (q.rev o))) 1 c → ∃ d y, u.ctx c.index = some d ∧
              y ∈ (d.cls 1).queue.map (·.1) ++ (d.cls 1).unacked.map (·.msg) ∧ y.type = 0x28 ∧ y.item = o ∧ y.payload = z.bytes q.bf) ∧
          (q.inner o = q.x → q.shard o = g.shardOf q.x → cMean m.desc = false → ctlRound (cCtl m.desc) ≠ 1 →
            a + bs.length ≤ 0x40000000 → ∃ u m', exec (.rsBlocks t) s = .next u ∧ KeepsBytesOutside [(a, bs.length)] s u ∧
              u.read a bs.length = bs ∧ stays u m' ∧ m'.received = m.received + 1 ∧ m'.finals = m.finals + 1)) ∧
        (x.2.2.type = 0x29 → dOp m.desc = 1 → cPre m.desc = false → ∃ u m', exec (.scaleEcho t) s = .next u ∧ KeepsBytes s u ∧ stays u m' ∧
          m' = { m with
            echoes := m.echoes ++ ((List.range pay.length).filter fun j => o + j < q.total).map fun j => (o + j, fieldB pay j 1)
            doneSent := m'.doneSent }) ∧
        (x.2.2.type = 0x2B → m.excluded = false → dOp m.desc = 2 →
          let n := pay.length / 64
          let a := s.segAddr m.basin m.slot (cSegDst m.desc) (cDst m.desc) + 64 * o
          o + n ≤ g.n * q.units → a + 64 * n ≤ 0x40000000 → ∃ u m', exec (.shardData t) s = .next u ∧
            KeepsBytesOutside [(a, 64 * n)] s u ∧ u.read a (64 * n) = pay.take (64 * n) ∧ stays u m' ∧
            m' = { m with received := m.received + n, poisonOut := m'.poisonOut, doneSent := m'.doneSent }) ∧
        (x.2.2.type = 0x2B → m.excluded = false → dOp m.desc = 4 →
          let body := pay.drop 8
          let y : Access := ⟨0, fieldB pay 6 1 % 4, fieldB pay 0 6, body.length, true, .any⟩
          let a := s.segAddr m.basin m.slot y.seg y.off
          ((s.accessCause m.basin m.slot y).isSome = true → ∃ u, exec (.shardData t) s = .next u ∧ KeepsBytes s u ∧
            u.counter 2 m.basin cRecvBound = StatCounter.bump 1 (s.counter 2 m.basin cRecvBound)) ∧
          (s.accessCause m.basin m.slot y = none → a + body.length ≤ 0x40000000 → ∃ u m', exec (.shardData t) s = .next u ∧
            KeepsBytesOutside [(a, body.length)] s u ∧ u.read a body.length = body ∧ stays u m' ∧
            m' = { m with received := m.received + body.length / 64, poisonOut := m'.poisonOut, doneSent := m'.doneSent }))) ∧
      (m.started = true → x.2.2.cls = 1 → x.2.2.type = 0x2A → dOp m.desc = 3 →
        let a := s.segAddr m.basin m.slot (cSegDst m.desc) (cDst m.desc)
        a + 16 ≤ 0x40000000 → ∃ u m', exec (.normValue t) s = .next u ∧ KeepsBytesOutside [(a, 16)] s u ∧
          u.read a 16 = normRecord m.desc (fieldB pay 0 4) m.joinedCount ∧ u.instances = [{ i with member := some m' }] ∧
          m' = { m with normValue := some (fieldB pay 0 4, x.2.2.anyPoison), poisonOut := m.poisonOut || x.2.2.anyPoison
                        doneSent := m'.doneSent }) ∧
      (m.started = true → x.2.2.cls = 2 → x.2.2.type = 0x2C → row ≤ 4088 → 8 ≤ pay.length → fieldB pay 4 1 < 8 →
        let out : Access := ⟨16, cSegDst m.desc, cDst m.desc + x.2.2.item * row, row, true, .any⟩
        let tag : Access := ⟨44, cSegAux3 m.desc, cAux3 m.desc + 8 * x.2.2.item, 8, true, .any⟩
        let a := s.segAddr m.basin m.slot out.seg out.off
        let at_ := s.segAddr m.basin m.slot tag.seg tag.off
        ∃ u, exec (.dispatchRow t) s = .next u ∧
          ((s.accessCause m.basin m.slot out).isSome = true → KeepsBytes s u ∧
            u.counter 2 m.basin cRecvBound = StatCounter.bump 1 (s.counter 2 m.basin cRecvBound)) ∧
          (s.accessCause m.basin m.slot out = none → s.accessCause m.basin m.slot tag = none → a + row ≤ 0x40000000 → at_ + 8 ≤ 0x40000000 →
            rangesMeet (a, row) (at_, 8) = false → KeepsBytesOutside [(a, row), (at_, 8)] s u ∧
            u.read a row = sliceB (pay.drop 8) 0 row ∧ u.read at_ 8 = wholeTag (pay.take 8))) ∧
      (m.started = true → x.2.2.cls = 2 → x.2.2.type = 0x2D → row ≤ 4088 → fieldB pay 4 1 < 8 → x.2.2.unitPoisoned 0 = false →
        s.holdsBasin x.1 (fieldB pay 5 1 % 8) = false → ∃ u, exec (.returnRow t) s = .next u ∧ KeepsBytes s u ∧
          u.counter 2 m.basin cLateDiscard = StatCounter.bump 1 (s.counter 2 m.basin cLateDiscard)) ∧
      (m.started = true → x.2.2.cls = 2 → x.2.2.type = 0x2D → row ≤ 4088 → x.2.2.unitPoisoned 0 = false → cDet m.desc = false →
        let home := fieldB pay 5 1 % 8
        let token := fieldB pay 0 4
        let rank := fieldB pay 4 1
        let fs := cFmtSrc m.desc
        let fd := cFmtDst m.desc
        let wd := cWidth m.desc
        let e := s.read (s.segAddr m.basin m.slot (cSegAux m.desc) (cAux m.desc + 64 * token + 8 * rank)) 8
        let a := s.segAddr m.basin m.slot (cSegDst m.desc) (cDst m.desc + token * cStride m.desc)
        rank < 8 → rank < cK m.desc → s.holdsBasin x.1 home = true → s.outstanding home (fieldB pay 6 2) = true → token < cCount m.desc →
        fieldB e 0 2 ≠ 0xFFFF → a + fd.bytesFor wd ≤ 0x40000000 → ∃ u, exec (.returnRow t) s = .next u ∧
          KeepsBytesOutside [(a, fd.bytesFor wd)] s u ∧ u.read a (fd.bytesFor wd) = packCodes fd.width
            (List.zipWith (accumulate fd fs (f32 (fieldB e 4 4))) (s.codesAt fd a wd) (unpackCodes fs.width wd (pay.drop 8))))

/-- R297, R298, R299, R166, R173, R442. -/
def Obligations.StillsStartAndRun : Prop :=
  ∀ (s : State) (t p : Nat), s.alive = true → s.shaped = true → p < 8 → (s.partition p).isOpen = true →
    let x := s.partition p
    let w := x.ruling
    let now := max s.time t
    let idle (c : Instr) := exec c s = .next (s.now t)
    let ended (u : State) :=
      let y := u.partition p
      y.step = x.step + 1 ∧ y.stillPhase = .idle ∧ y.snapshotStep = x.step ∧ y.lastStillEnd = some now ∧ y.writtenPages = [] ∧
        ∀ b < 8, if s.inStill p b = true then
            (∀ e ∈ (u.basin b).experts, e = {}) ∧ (u.basin b).expertSnaps = (s.basin b).experts.map (fun e => { step := x.step, set := e }) ∧
              let g := (s.basin b).generations
              let z := (u.basin b).generations
              z.outstanding = g.outstanding.filter (fun h => !g.atStill.contains h) ∧ z.atStill = [] ∧
                ∀ h, h ∈ z.retired ↔ h ∈ g.retired ∨ (h ∈ g.outstanding ∧ h ∈ g.atStill)
          else (u.basin b).experts = (s.basin b).experts ∧ (u.basin b).generations = (s.basin b).generations
    let starts (c : Instr) := ∃ u, exec c s = .next u ∧
      (x.stillPhase ≠ .idle → u.partition p = { x with stillQueued := true } ∧ u.basins = s.basins ∧ u.echoPulses = s.echoPulses) ∧
      (x.stillPhase = .idle → u.echoPulses = (if s.echo = some p then s.echoPulses ++ [now] else s.echoPulses) ∧
        (u.partition p).stillTime = some now ∧ (u.partition p).plan = (x.replan now).plan ∧ (u.partition p).windowPlan = none ∧
        (s.placesOpen p = true → u.basins = s.basins ∧
          u.partition p = { x.replan now with stillTime := some now, stillPhase := .waitingPlace }) ∧
        (s.placesOpen p = false → ended u))
    let due := w.period ≠ 0 ∧ w.next ≤ now
    let inTime := if w.period = 0 then ∀ l, x.stillTime = some l → l + 100000 < now else (s.now t).windowOpen p w = true
    let others (f : Nat → PulseSource → Bool) := ∀ q < 8, q ≠ p → (s.partition q).isOpen = false ∨ f q (s.partition q).ruling.source = false
    (s.pulsesCount p w = false → due → x.stillQueued = false → starts (.plannedStill t p)) ∧
    (s.pulsesCount p w = true ∨ ¬ due ∨ x.stillQueued = true → idle (.plannedStill t p)) ∧
    (s.pulsesCount p w = true → w.period ≠ 0 → w.next + w.window ≤ now → x.stillQueued = false → starts (.stillWindowEnd t p) ∧
      ∃ u, exec (.stillWindowEnd t p) s = .next u ∧ (u.counter 1 p 0).raw = ((s.counter 1 p 0).raw + 1) % 2 ^ 48) ∧
    (s.pulsesCount p w = false ∨ w.period = 0 ∨ now < w.next + w.window ∨ x.stillQueued = true → idle (.stillWindowEnd t p)) ∧
    ((∀ q < 8, (s.partition q).isOpen = true → (s.partition q).ruling.source ≠ .pin) → idle (.stillSyncInPulse t)) ∧
    (w.source = .pin → others (fun _ f => f == .pin) →
      (inTime → x.stillQueued = false → starts (.stillSyncInPulse t)) ∧
      (¬ inTime ∨ x.stillQueued = true → exec (.stillSyncInPulse t) s = .next { s.now t with counters := (s.bump 1 p 1).counters })) ∧
    (∀ m r, s.inboxFind (fun m => m.cls == 0 && m.type == 0x14) = some m → m.1 = p → s.tree p (fieldB m.2.2.payload 6 1 % 32) = some r →
      (r.parent = none → ∃ u v, exec (.still t) s = .next u ∧ Taken s v m ∧ u = v.now t) ∧
      (r.parent ≠ none → r.children = [] → w.source = .tree (fieldB m.2.2.payload 6 1 % 32) →
        (inTime → x.stillQueued = false → starts (.still t)) ∧
        (¬ inTime ∨ x.stillQueued = true → ∃ u v, exec (.still t) s = .next u ∧ Taken s v m ∧
          u = { v.now t with counters := (s.bump 1 p 1).counters }))) ∧
    (x.stillPhase = .idle ∨ s.placesOpen p = true → idle (.stillResume t p)) ∧
    (x.stillPhase = .waitingPlace → s.placesOpen p = false → x.stillQueued = false →
      ∃ u, exec (.stillResume t p) s = .next u ∧ ended u ∧ (u.partition p).stillTime = x.stillTime ∧ u.echoPulses = s.echoPulses)

/-- R231, R232, R234, R235, R238. Control payload: log entry 14; frame credit and the shared buffer: log entry 31; LINK_RETRY:
log entry 28; header failures: log entry 62. -/
def Obligations.FramesOfALink : Prop :=
  ∀ (s : State) (t i : Nat) (raw : Bytes) (fec : FecOutcome), s.alive = true → s.shaped = true → i < 48 →
    let x := s.sub i
    let h := fieldB raw 0 8
    let kind := bits h 39 38
    let seq := bits h 63 52
    let ack := bits h 51 40
    let now := max s.time t
    let idle (c : Instr) := exec c s = .next (s.now t)
    let rest (u : State) := ∀ j, j ≠ i → u.sub j = s.sub j
    let heard (y : SubPort) := y.credit = x.credit.modify (bits h 24 22) (· + bits h 21 16) ∧ y.hdrFailsRow = 0 ∧
      y.replay = x.replay.filter fun f => !serialLater 12 (if kind = 1 then ack else (ack + 1) % 4096) f.seq
    let links (u : State) := u = { s with time := now, subPorts := u.subPorts, counters := u.counters, linkEvents := u.linkEvents } ∧ rest u
    let plain (kind a b : Nat) (pay : Bytes) (y : SubPort) : SubPort :=
      let header := frameHeader x.lastSent ((x.rxNext + 4095) % 4096) kind 0 0 0x3FF a b
      { x with framesSent := x.framesSent + 1, creditOwed := y.creditOwed, sent := frameBytes header pay }
    let fecCounted (u : State) :=
      u.counter 5 (i / 4) 4 = (if 0 < fec.corrected then StatCounter.bump 1 (s.counter 5 (i / 4) 4) else s.counter 5 (i / 4) 4) ∧
      u.counter 5 (i / 4) 5 = (if fec.uncorrectable = true then StatCounter.bump 1 (s.counter 5 (i / 4) 5) else s.counter 5 (i / 4) 5)
    let recent := x.crcTimes.filter fun a => now < a + 1000000
    let refused (y : SubPort) := y.nakOwed = true ∧ y.rxNext = x.rxNext ∧ y.rx = x.rx
    (x.state ≠ .up → idle (.dataFrame t i raw fec) ∧ idle (.dataFrameNak t i raw fec) ∧ idle (.controlFrame t i raw fec) ∧
      idle (.idleFrame t i raw fec) ∧ idle (.frameSend t i) ∧ idle (.controlFrameSend t i)) ∧
    (x.state = .up → headerOk raw = true → kind = 0 →
      (crcOk raw = true → seq = x.rxNext → ∃ u, exec (.dataFrame t i raw fec) s = .next u ∧ links u ∧ heard (u.sub i) ∧
        (u.sub i).rxNext = (seq + 1) % 4096 ∧ (u.sub i).crcFails = 0 ∧ (u.sub i).hdrFails = 0 ∧
        (∀ j, j ≠ streamIx (bits h 37 36) (bits h 35 35) → (u.sub i).rx[j]? = x.rx[j]?) ∧
        fecCounted u) ∧
      (crcOk raw = true → seq ≠ x.rxNext → ∃ u, exec (.dataFrame t i raw fec) s = .next u ∧ links u ∧ heard (u.sub i) ∧ refused (u.sub i)) ∧
      (crcOk raw = false → recent.length < 64 →
        (seq ≠ x.rxNext ∨ x.crcFails < 3 → ∃ u, exec (.dataFrame t i raw fec) s = .next u ∧ links u ∧ heard (u.sub i) ∧ refused (u.sub i)) ∧
        (seq = x.rxNext → 3 ≤ x.crcFails → ∃ u, exec (.dataFrame t i raw fec) s = .next u ∧ rest u ∧ heard (u.sub i) ∧
          (u.sub i).rxNext = (seq + 1) % 4096 ∧ u.alert 0 8 = AlertReg.occur (0x10 + i / 4) (s.alert 0 8)))) ∧
    (x.state = .up → headerOk raw = false → x.hdrFails < 7 → x.hdrFailsRow < 15 → ∃ u, exec (.dataFrame t i raw fec) s = .next u ∧ links u ∧
      u.sub i = { x with hdrFails := x.hdrFails + 1, hdrFailsRow := x.hdrFailsRow + 1, nakOwed := true } ∧
      u.linkEvents = s.linkEvents ++ [now] ∧ u.counter 5 (i / 4) 7 = StatCounter.bump 1 (s.counter 5 (i / 4) 7)) ∧
    (x.state = .up → headerOk raw = true → kind = 1 → crcOk raw = true → seq = x.rxNext →
      ∃ u, exec (.dataFrameNak t i raw fec) s = .next u ∧ links u ∧ heard (u.sub i) ∧ fecCounted u ∧ (u.sub i).rxNext = (seq + 1) % 4096 ∧
        (u.sub i).resendFrom = (if (u.sub i).replay = [] then none else some ack) ∧
        u.counter 5 (i / 4) 6 = StatCounter.bump 1 (s.counter 5 (i / 4) 6)) ∧
    (x.state = .up → headerOk raw = true → kind = 2 → crcOk raw = true → ∃ u, exec (.controlFrame t i raw fec) s = .next u ∧ links u ∧
      fecCounted u ∧ heard (u.sub i) ∧ (u.sub i).rxNext = x.rxNext ∧ (u.sub i).rx = x.rx ∧
      (u.sub i).farTime = Config.controlField 0 (sliceB raw 8 630) ∧ (u.sub i).roundTrip = now - Config.controlField 1 (sliceB raw 8 630) ∧
      (u.sub i).farLanes = Config.controlField 2 (sliceB raw 8 630) ∧ (u.sub i).farMeter = Config.controlField 3 (sliceB raw 8 630)) ∧
    (x.state = .up → headerOk raw = true → crcOk raw = false → recent.length < 64 → ∀ c,
      (kind = 2 ∧ c = .controlFrame t i raw fec) ∨ (kind = 3 ∧ c = .idleFrame t i raw fec) →
      ∃ u, exec c s = .next u ∧ links u ∧ fecCounted u ∧ u.sub i = { x with crcTimes := recent ++ [now] }) ∧
    (x.state = .up → headerOk raw = true → kind = 3 → crcOk raw = true → ∃ u, exec (.idleFrame t i raw fec) s = .next u ∧ links u ∧ fecCounted u ∧
      heard (u.sub i) ∧ (u.sub i).rxNext = x.rxNext ∧ (u.sub i).rx = x.rx) ∧
    (x.framesSent % 256 = 255 → idle (.frameSend t i)) ∧ (x.framesSent % 256 ≠ 255 → idle (.controlFrameSend t i)) ∧
    (x.state = .up → x.framesSent % 256 = 255 → ∃ u a b pay, exec (.controlFrameSend t i) s = .next u ∧ links u ∧ pay.length = 630 ∧
      u.sub i = plain 2 a b pay (u.sub i)) ∧
    (x.state = .up → x.framesSent % 256 ≠ 255 →
      (∀ q f, x.resendFrom = some q → x.replay.find? (fun f => f.seq == q) = some f → ∃ u a k c n, exec (.frameSend t i) s = .next u ∧ links u ∧
        (u.sub i).sent = frameBytes (frameHeader q a k f.cls f.vc f.first c n) f.payload ∧ (u.sub i).txSeq = x.txSeq ∧
        (u.sub i).credit = x.credit ∧ (u.sub i).framesSent = x.framesSent + 1 ∧
        (u.sub i).replay = x.replay.map fun g => if g.seq = q then { f with sends := f.sends + 1 } else g) ∧
      (x.resendFrom = none → x.replay.length < 512 → ∀ cls vc, x.arbitrate = some (cls, vc) →
        ∃ u f a k c n, exec (.frameSend t i) s = .next u ∧
          u = { s with time := now, subPorts := u.subPorts } ∧
          (∀ j, j ≠ i → u.sub j = { s.sub j with rx := (u.sub j).rx, creditOwed := (u.sub j).creditOwed }) ∧ (u.sub i).txSeq = (x.txSeq + 1) % 4096 ∧ (u.sub i).framesSent = x.framesSent + 1 ∧ (u.sub i).replay = x.replay ++ [f] ∧
          f.seq = x.txSeq ∧ f.cls = cls ∧ f.vc = vc ∧ f.sends = 1 ∧ f.payload.length ≤ 630 ∧
          (u.sub i).credit = x.credit.modify (2 * cls + vc) (· - 3) ∧
          (u.sub i).sent = frameBytes (frameHeader x.txSeq a k cls vc f.first c n) f.payload ∧
          (x.ready 0 0 = true ∨ x.ready 0 1 = true → cls = 0) ∧ (cls = 3 → ∀ e < 3, ∀ v < 2, x.ready e v = false)) ∧
      (x.resendFrom = none → x.arbitrate = none → x.nakOwed = false → ∃ u a b, exec (.frameSend t i) s = .next u ∧ links u ∧
        u.sub i = plain 3 a b [] (u.sub i)))

/-- R237, R239, R241, R243, R245, R246, R250. -/
def Obligations.RoutingAndDelivery : Prop :=
  ∀ (s : State) (t : Nat), s.alive = true → s.shaped = true →
    let now := max s.time t
    let idle (c : Instr) := exec c s = .next (s.now t)
    let run := exec (.messageForward t .localPort) s
    (s.router.localQueue = [] → idle (.messageForward t .localPort)) ∧
    ((∃ m ∈ s.router.localQueue, m.cls < 4) → ∃ x, s.router.takeLocal = some x) ∧
    (∀ m r, s.router.takeLocal = some (m, r) →
      r = { s.router with localQueue := s.router.localQueue.erase m, served1 := r.served1, served2 := r.served2 } ∧
      s.router.localQueue.find? (fun y => y.cls == m.cls) = some m ∧ ((∃ y ∈ s.router.localQueue, y.cls = 0) → m.cls = 0) ∧
      let counted (pos : Nat) := run = .next { s.now t with router := r, counters := (s.bump 0 0 pos).counters }
      (m.dst ≠ s.deviceId ∨ 16384 ≤ m.dst →
        (s.routeFor m.dst = none → counted cNoRoute) ∧
        ∀ e, s.routeFor m.dst = some e →
          (s.candidates e 0 = [] → run = .next { s.now t with router := { r with waiting := s.router.waiting ++ [⟨m, 0, now, none⟩] } }) ∧
          ∀ j v more, m.cls = 0 → s.candidates e 0 = (j, v) :: more → ∃ u o, run = .next u ∧
            u = { s with time := now, router := r, subPorts := u.subPorts, counters := u.counters, portMeters := u.portMeters } ∧
            (∀ k, k ≠ j → u.sub k = s.sub k) ∧ (u.sub j).outgoing = (s.sub j).outgoing ++ [o] ∧
            o.msg = { m with hops := m.hops + 1 } ∧ o.vc = v ∧ o.lastSeq = none ∧ o.toSend = o.msg.bytes.length ∧ o.origin = none ∧
            (m.type ≠ 1 → 4 ≤ (((s.now t).meterOf (j / 4)).filter fun e => e.2 == m.src).length → o.excess = true ∧
              u.counter 5 (j / 4) 0 = StatCounter.bump 1 (s.counter 5 (j / 4) 0))) ∧
      (m.dst = s.deviceId → m.dst < 16384 → (s.ctxFor m.part m.src = none → counted cNoContext) ∧
        ∀ c, s.ctxFor m.part m.src = some c → s.ctx c.index = some c → (c.lost = true → counted cNoContext) ∧
          (c.lost = false → m.cls = 0 → m.type ≠ 1 → m.type ≠ 2 → c.classes.length = 4 →
            let k := c.cls 0
            (m.peerSeq = k.expected % 2 ^ 32 → 0 < k.window → k.accepted = [] → k.held = [] →
              ∃ u d, run = .next u ∧ u = { s with time := now, contexts := u.contexts, router := { r with
                inbox := s.router.inbox ++ [(m.part, c.index, m)] } } ∧ (∀ i, i ≠ c.index → u.ctx i = s.ctx i) ∧
                u.ctx c.index = some d ∧ d = { c with
                  needReturn := true, uncovered := true, classes := d.classes,
                  newestStamp := if c.uncovered = true ∧ serialLater 32 c.newestStamp m.stamp = true then c.newestStamp else m.stamp } ∧
                (∀ j, j ≠ 0 → d.cls j = c.cls j) ∧ d.cls 0 = { k with expected := k.expected + 1 }) ∧
            (serialDiff 32 m.peerSeq (k.expected % 2 ^ 32) ≥ max k.window (2 ^ 31) →
              ∃ u, run = .next u ∧ u = { s with time := now, contexts := u.contexts, router := r, counters := (s.bump 0 0 cDupDiscard).counters } ∧
                (∀ i, i ≠ c.index → u.ctx i = s.ctx i) ∧ u.ctx c.index = some { c with needReturn := true })))) ∧
    (∀ i cls vc, (s.sub i).state ≠ .up ∨ ((s.sub i).rx.getD (streamIx cls vc) {}).front = none → idle (.messageForward t (.port i cls vc))) ∧
    (∀ i cls vc m y n, i < 48 → (s.sub i).state = .up → ((s.sub i).rx.getD (streamIx cls vc) {}).front = some (some m, y, n, false) → m.hops = 15 →
      ∃ u, exec (.messageForward t (.port i cls vc)) s = .next u ∧
        u = { s with time := now, subPorts := u.subPorts, counters := (s.bump 0 0 cHopLimit).counters } ∧ (∀ k, k ≠ i → u.sub k = s.sub k) ∧
        u.sub i = { s.sub i with rx := (u.sub i).rx, creditOwed := (u.sub i).creditOwed }) ∧
    (s.router.waiting = [] → idle (.routeWaitExpiry t)) ∧
    (∀ w rest, s.router.waiting = w :: rest → (now < w.since + 1000000 → idle (.routeWaitExpiry t)) ∧
      (w.since + 1000000 ≤ now → exec (.routeWaitExpiry t) s = .next
        { s.now t with router := { s.router with waiting := rest }, counters := (s.bump 0 0 cNoRoute).counters
                       subPorts := (s.freeInput w.origin).subPorts })) ∧
    ((s.inboxFind fun m => !typeDefined m.cls m.type) = none → idle (.undefinedTypeMessage t)) ∧
    ∀ x, (s.inboxFind fun m => !typeDefined m.cls m.type) = some x →
      ∃ u v, exec (.undefinedTypeMessage t) s = .next u ∧ Taken s v x ∧ u = v.now t

/-- R247, R249, R251. The partition named by a return is log entry 30. The RETURN clause is stated where nothing waits for
acknowledgement beside the messages themselves; what goes on then is said of the commands that wait. -/
def Obligations.ReturnsAndProbes : Prop :=
  ∀ (s : State) (t : Nat), s.alive = true → s.shaped = true →
    let now := max s.time t
    let idle (c : Instr) := exec c s = .next (s.now t)
    let untaken (x : Nat × Nat × Msg) : Router := { s.router with inbox := s.router.inbox.erase x }
    let returned (u : State) (r : Router) (c : PeerCtx) (p : Nat) := ∃ d w, u = { s with time := now, contexts := u.contexts, router :=
        { r with localQueue := r.localQueue ++ [w] } } ∧ (∀ i, i ≠ c.index → u.ctx i = s.ctx i) ∧ u.ctx c.index = some d ∧
      d = { c with needReturn := false, uncovered := false, lastReturn := some now, classes := d.classes } ∧
      (∀ j < 4, d.cls j = { c.cls j with owed := (c.cls j).owed - min (c.cls j).owed 65535 }) ∧
      w.src = s.deviceId ∧ w.dst = c.peerId ∧ w.cls = 0 ∧ w.type = 1 ∧ w.part = p % 8 ∧ w.payload.length = 44 ∧
      (∀ j < 4, fieldB w.payload (8 + 8 * j) 4 = (c.cls j).expected % 2 ^ 32 ∧ fieldB w.payload (12 + 8 * j) 2 = min (c.cls j).owed 65535) ∧
      fieldB w.payload 40 4 = c.newestStamp % 2 ^ 32
    (s.inboxFind (fun m => m.cls == 0 && m.type == 1) = none → idle (.returnMessage t)) ∧
    (s.inboxFind (fun m => m.cls == 0 && m.type == 2) = none → idle (.probe t)) ∧
    (∀ x c, s.inboxFind (fun m => m.cls == 0 && m.type == 1) = some x → s.ctx x.2.1 = some c → c.classes.length = 4 →
      (∀ j < 4, (c.cls j).queue = []) → s.instances = [] → (∀ f ∈ s.flights, f.unit ≠ .remoteSet) →
      (∀ p < 8, (s.partition p).capture = none ∧ (s.partition p).checkpoint = none) →
      let pay := x.2.2.payload
      let answers := c.probes.any fun l => now < l + 100000
      let trip := serialDiff 32 (now % 2 ^ 32) (fieldB pay 40 4)
      ∃ u d, exec (.returnMessage t) s = .next u ∧
        u = { s with time := now, contexts := u.contexts, router := untaken x, counters := if trip < 2 ^ 31 then s.counters
                                                                                      else (s.bump 0 0 cStampStale).counters } ∧
        (∀ i, i ≠ x.2.1 → u.ctx i = s.ctx i) ∧ u.ctx x.2.1 = some d ∧
        d = { c with
          probes := if answers = true then [] else c.probes
          probesMissed := if answers = true then 0 else c.probesMissed
          roundTrip := if trip < 2 ^ 31 then trip else c.roundTrip
          classes := d.classes } ∧
        ∀ j < 4, let k := c.cls j
          d.cls j = { k with unacked := k.unacked.filter fun a => !serialLater 32 (fieldB pay (8 + 8 * j) 4) a.msg.peerSeq
                             credit := min k.window (k.credit + fieldB pay (12 + 8 * j) 2) }) ∧
    (∀ i c, s.ctx i = some c → c.needReturn = false ∨ c.lost = true ∨ (∃ l, c.lastReturn = some l ∧ now < l + 250) → idle (.returnSend t i)) ∧
    (∀ i c p, s.ctx i = some c → c.needReturn = true → c.lost = false → (∀ l, c.lastReturn = some l → l + 250 ≤ now) → c.peerPart = some p →
      c.classes.length = 4 → ∃ u, exec (.returnSend t i) s = .next u ∧ returned u s.router c p) ∧
    (∀ x c p, s.inboxFind (fun m => m.cls == 0 && m.type == 2) = some x → s.ctx x.2.1 = some c → c.lost = false → c.peerPart = some p →
      c.classes.length = 4 → ∃ u, exec (.probe t) s = .next u ∧ returned u (untaken x) c p) ∧
    (∀ i c k, s.ctx i = some c → c.classes.length = 4 → k < 4 →
      let wait := if k = 3 then 1000000000 else 100000
      let due := (c.cls k).unacked.filter fun a => a.lastSent + wait ≤ now
      (due = [] ∨ c.lost = true → idle (.resendTimeout t i k)) ∧
      ∀ p, due ≠ [] → c.lost = false → c.peerPart = some p → ∃ u d ws, exec (.resendTimeout t i k) s = .next u ∧
        (if c.lastProbe = some now then ws = [] else ∃ w : Msg, ws = [w] ∧ w.cls = 0 ∧ w.type = 2 ∧ w.dst = c.peerId ∧ w.part = p % 8) ∧
        u = { s with time := now, contexts := u.contexts, counters := u.counters, linkEvents := s.linkEvents ++ due.map (fun _ => now)
                     router := { s.router with localQueue := s.router.localQueue ++ due.map (·.msg) ++ ws } } ∧
        u.counter 0 0 cE2eResend = due.foldl (fun n _ => StatCounter.bump 1 n) (s.counter 0 0 cE2eResend) ∧
        (∀ j, j ≠ i → u.ctx j = s.ctx j) ∧ u.ctx i = some d ∧
        d = { c with
          probes := if c.lastProbe = some now then c.probes else c.probes ++ [now]
          lastProbe := some now, classes := d.classes } ∧ ∀ j < 4, d.cls j = if j = k then
          { c.cls k with unacked := (c.cls k).unacked.map fun a => if a.lastSent + wait ≤ now then { a with lastSent := now } else a }
          else c.cls j) ∧
    ∀ i c p, s.ctx i = some c → s.partOfCtx i = some p →
      (c.probes = [] ∨ c.lost = true → idle (.probeTimeout t i)) ∧
      ∀ l more, c.probes = l :: more → c.lost = false → (now < l + 100000 → idle (.probeTimeout t i)) ∧
        (l + 100000 ≤ now → c.probesMissed < 3 → ∃ u, exec (.probeTimeout t i) s = .next u ∧
          u = { s with time := now, contexts := u.contexts } ∧ (∀ j, j ≠ i → u.ctx j = s.ctx j) ∧
          u.ctx i = some { c with probes := more, probesMissed := c.probesMissed + 1 }) ∧
        (l + 100000 ≤ now → 3 ≤ c.probesMissed → ∃ u d, exec (.probeTimeout t i) s = .next u ∧ u.ctx i = some d ∧ d.lost = true ∧
          d.probes = [] ∧ (∀ k ∈ d.classes, k.unacked = [] ∧ k.queue = []) ∧ u.alert 0 13 = AlertReg.occur p (s.alert 0 13))

/-- R207, R208, R209, R212, R213, R221, R203, R204, R323, R407. That CXLp_PRSNT_L comes with the link event: log entry 68. -/
def Obligations.CxlPortsAndStacks : Prop :=
  (∀ (s : State) (t q : Nat), s.alive = true → s.shaped = true → q < 8 →
    let c := s.port q
    let now := max s.time t
    let idle (i : Instr) := exec i s = .next (s.now t)
    let rest (u : State) := ∀ r, r ≠ q → u.port r = s.port r
    let becomes (i : Instr) (z : CxlPort) := ∃ u, exec i s = .next u ∧ u = { s with time := now, cxl := u.cxl } ∧ u.port q = z ∧ rest u
    let serving := c.state = .online ∨ c.state = .detaching
    (∀ cap gts lanes prsnt,
      let fits := prsnt = false ∧ (s.now t).cxlPerst q = true ∧ 0x10000000 ≤ cap ∧ (gts = 64 ∨ gts = 32) ∧
        (lanes = 8 ∨ lanes = 4 ∨ lanes = 2)
      (c.state ≠ .absent ∨ c.failed = true ∨ ¬ fits → becomes (.cxlLinkUp t q cap gts lanes prsnt) { c with prsntHigh := prsnt }) ∧
      (c.state = .absent → c.failed = false → fits → ∃ u, exec (.cxlLinkUp t q cap gts lanes prsnt) s = .next u ∧ rest u ∧
        u = { s with time := now, cxl := u.cxl, funcs := u.funcs, msix := u.msix, alertTotals := u.alertTotals, ibis := u.ibis } ∧
        u.port q = { c.absent with
          state := .present, medium := c.epoch + 1, mapped := (u.port q).mapped, gts := gts, lanes := lanes, linkUp := true
          prsntHigh := false } ∧
        (u.port q).mapped % 0x10000000 = 0 ∧ (u.port q).mapped ≤ min cap 0x20000000000 ∧ min cap 0x20000000000 < (u.port q).mapped + 0x10000000 ∧
        u.alert 0 9 = AlertReg.occur q (s.alert 0 9))) ∧
    (serving → c.linkUp = true → becomes (.cxlLinkDown t q) { c with linkUp := false, downSince := some now }) ∧
    (c.state = .lost → c.acked = false → becomes (.cxlLinkDown t q) { c with linkUp := false }) ∧
    (c.state = .lost → c.acked = true → becomes (.cxlLinkDown t q) c.absent) ∧
    (c.state ≠ .lost → ¬ serving ∨ c.linkUp = false → idle (.cxlLinkDown t q)) ∧
    (∀ d, c.downSince = some d → serving → c.failed = false → now < d + 10000000 →
      becomes (.cxlLinkRetrainRecovery t q) { c with linkUp := true, downSince := none }) ∧
    (c.state = .lost → c.failed = false → becomes (.cxlLinkRetrainRecovery t q) { c with linkUp := true }) ∧
    (c.failed = true ∨ (c.state ≠ .lost ∧ (c.downSince = none ∨ ¬ serving)) → idle (.cxlLinkRetrainRecovery t q)) ∧
    (c.downSince = none ∨ ¬ serving → idle (.cxlLinkLoss t q)) ∧
    (∀ d, c.downSince = some d → (now < d + 10000000 → idle (.cxlLinkLoss t q)) ∧
      (serving → d + 10000000 ≤ now → ∃ u, exec (.cxlLinkLoss t q) s = .next u ∧ rest u ∧ (u.port q).state = .lost ∧ (u.port q).linkUp = false ∧
        (u.port q).downSince = none ∧ (u.port q).lastHolder = s.holderOf q ∧ (u.port q).acked = false ∧ (∀ p, u.holdsPort p q = false) ∧ u.mem = s.mem ∧ u.alert 0 10 = AlertReg.occur q (s.alert 0 10))) ∧
    (c.state = .present → becomes (.cxlUnplug t q) { c.absent with prsntHigh := true }) ∧
    (c.state ≠ .present → idle (.cxlUnplug t q)) ∧
    ∀ a o, placeOf a = .cxl q o → idle (.cxlReadCompletion t q a false) ∧
      (s.cached a = true → idle (.cxlReadCompletion t q a true)) ∧
      (serving → o < c.mapped → s.cached a = false → ∃ u, exec (.cxlReadCompletion t q a true) s = .next u ∧ rest u ∧ KeepsBytes s u ∧ u.poisoned a 1 = true ∧
        u.counter 6 q 0 = StatCounter.bump 1 (s.counter 6 q 0) ∧ u.alert 0 8 = AlertReg.occur (0x20 + q) (s.alert 0 8))) ∧
  (∀ (s : State) (t i symbols pos : Nat), s.alive = true → s.shaped = true → i < 24 →
    let x := s.hbm.getD i {}
    let b := s.basin (i / 3)
    let now := max s.time t
    let a := stackUnitAddr i x.patrol
    let worn := (s.now t).stackWornOut i
    let idle (c : Instr) := exec c s = .next (s.now t)
    (b.state = .service ∨ b.state = .retired ∨ b.wiping = true → idle (.patrolScrub t i symbols pos)) ∧
    (b.state ≠ .service → b.state ≠ .retired → b.wiping = false → x.patrol < stackUnits → ∃ u, exec (.patrolScrub t i symbols pos) s = .next u ∧
      (u.hbm.getD i {}).patrol = (x.patrol + 1) % stackUnits ∧
      (symbols = 0 ∨ s.storedPoison a 64 = true → worn = false → u = { s with time := now, hbm := u.hbm }) ∧
      (s.storedPoison a 64 = false → symbols = 1 → u.counter 4 i 0 = StatCounter.bump 1 (s.counter 4 i 0) ∧ u.ceEvents = s.ceEvents ++ [now]) ∧
      (s.storedPoison a 64 = false → symbols = 2 ∨ symbols = 3 → u.counter 4 i 1 = StatCounter.bump 1 (s.counter 4 i 1) ∧
        u.alert 0 6 = AlertReg.occur i (s.alert 0 6)) ∧
      (s.storedPoison a 64 = false → 4 ≤ symbols → worn = false → KeepsBytesOutside [(a, 64)] s u ∧ u.counters = s.counters)) ∧
    (b.state ≠ .active → b.state ≠ .draining → idle (.stackRecalibration t i true) ∧ idle (.stackRecalibration t i false)) ∧
    (now < x.lastRecal + 128000000 → idle (.stackRecalibration t i true) ∧ idle (.stackRecalibration t i false)) ∧
    (b.state = .active ∨ b.state = .draining → x.lastRecal + 128000000 ≤ now →
      (∃ u, exec (.stackRecalibration t i true) s = .next u ∧ u = { s with time := now, hbm := u.hbm } ∧
        ∀ j, u.hbm.getD j {} = if j = i then { x with lastRecal := now } else s.hbm.getD j {}) ∧
      ∃ u, exec (.stackRecalibration t i false) s = .next u ∧ (u.hbm.getD i {}).lastRecal = now ∧ (u.basin (i / 3)).state = .retired)) ∧
  (∀ (s : State) (t b : Nat), s.power = .held → s.faultCause = none → s.shaped = true → b < 8 → ∃ u, exec (.basinFault t b) s = .next u ∧
    (u.basin b).state = .retired) ∧
  ∀ (s : State) (t b : Nat), s.alive = true → s.shaped = true →
    (∃ u, exec (.stackWipeComplete t b) s = .next u ∧ u = { s with time := max s.time t, basins := u.basins } ∧
      ∀ c, u.basin c = if c = b ∧ b < 8 then { s.basin b with wiping := false } else s.basin c) ∧
    (8 ≤ b ∨ (s.basin b).state = .retired → exec (.basinFault t b) s = .next (s.now t)) ∧
    (b < 8 → (s.basin b).state ≠ .retired → ∃ u, exec (.basinFault t b) s = .next u ∧ (u.basin b).state = .retired ∧
      (u.basin b).wiping = false ∧ (u.basin b).tables = List.replicate 8 none ∧ u.alert 0 5 = AlertReg.occur b (s.alert 0 5) ∧
      (∀ k < 16, (s.slot b k).state = .running → (s.slot b k).clearing = false → (u.slot b k).state = .halted) ∧
      (∀ a, poolBase b ≤ a → a < poolBase (b + 1) → u.readByte a = 0) ∧
      (u.faultCause = none ∨ u.faultCause = some 9) ∧
      (u.faultCause = some 9 ↔ ∀ c < 8, c = b ∨ (s.basin c).state = .retired))

/-- R364, R368, R369, R380, R381, R388. What writes is stated where no capture has pages to read (R365). The layouts that the spec does not give are log entry 37. -/
def Obligations.ImagesFeedsAndRestores : Prop :=
  ∀ (s : State) (t : Nat), s.alive = true → s.shaped = true →
    let now := max s.time t
    let inbox (type : Nat) := s.inboxFind fun m => m.cls == 0 && m.type == type
    let pages (type : Nat) := s.inboxFind fun m => m.cls != 0 && m.type == type
    let calm := s.capturing = false
    let onlyTaken (c : Instr) (x : Nat × Nat × Msg) := ∃ u v, exec c s = .next u ∧ Taken s v x ∧ u = v.now t
    (∀ x, calm → inbox 0x30 = some x →
      let b := x.2.2.payload
      let ck := bit (fieldB b 7 1) 2
      let y : HeldImage :=
        { part := x.1, source := x.2.2.src, sourcePart := fieldB b 40 1 % 8, isCheckpoint := ck, slot := fieldB b 6 1, step := fieldB b 8 8
          regionOff := fieldB b 16 8, recordOff := x.2.2.place44, imageOff := fieldB b 24 8, imageSize := fieldB b 32 8, filling := true }
      let known := ck = true ∨ ∃ r, s.regionFor x.1 x.2.2.src y.sourcePart = some r ∧ r.off = y.regionOff ∧ y.imageOff + y.imageSize ≤ r.size
      let word := regionRanges (s.regionSpans x.1 y.regionOff) (y.recordOff + 64) 4
      (¬ known → onlyTaken (.imageBegin t) x) ∧
      (known → ∃ u, exec (.imageBegin t) s = .next u ∧ KeepsBytesOutside word s u ∧ (∀ r ∈ word, u.read r.1 r.2 = zeros r.2) ∧
        ∀ z, z ∈ u.images ↔ z = y ∨ z ∈ s.images ∧ ¬ (z.part = y.part ∧ z.source = y.source ∧ z.sourcePart = y.sourcePart ∧
          z.isCheckpoint = ck ∧ z.slot = y.slot))) ∧
    (∀ x, calm → pages 0x31 = some x →
      let o := x.2.2.place44
      let n := x.2.2.payload.length
      let b := ((List.range 8).find? fun b => s.holdsBasin x.1 b).getD 0
      let found := s.images.find? fun y =>
        y.part == x.1 && y.source == x.2.2.src && y.filling && y.imageOff ≤ o && o + n ≤ y.imageOff + y.imageSize
      (found = none → ∃ u v, exec (.imagePage t) s = .next u ∧ Taken s v x ∧ u = { v.now t with counters := (s.bumpBasin b cRecvBound).counters }) ∧
      ∀ y, found = some y →
        let spans := s.regionSpans x.1 y.regionOff
        let to_ := regionRanges spans o n
        (spanLength spans < o + n → ∃ u v, exec (.imagePage t) s = .next u ∧ Taken s v x ∧
          u = { v.now t with counters := (s.bumpBasin b cRecvBound).counters }) ∧
        (o + n ≤ spanLength spans → ∃ u, exec (.imagePage t) s = .next u ∧ KeepsBytesOutside to_ s u ∧ u.readOver to_ = x.2.2.payload ∧
          u.images = s.images)) ∧
    (∀ x, calm → inbox 0x32 = some x →
      let r := sliceB x.2.2.payload 6 24 ++ zeros 8 ++ sliceB x.2.2.payload 30 32
      let mine (y : HeldImage) : Bool := y.part == x.1 && y.source == x.2.2.src && y.sourcePart == fieldB r 9 1 % 8 &&
        y.isCheckpoint == bit (fieldB r 8 1) 2 && y.recordOff == x.2.2.place44 && y.filling
      (s.images.find? mine = none → onlyTaken (.imageCommit t) x) ∧
      ∀ y, s.images.find? mine = some y →
        let spans := s.regionSpans x.1 y.regionOff
        let record := regionRanges spans y.recordOff 64
        let word := regionRanges spans (y.recordOff + 64) 4
        ∃ u, exec (.imageCommit t) s = .next u ∧ KeepsBytesOutside (record ++ word) s u ∧
          u.images = s.images.map (fun z => if mine z = true then { z with filling := false } else z) ∧
          (y.recordOff + 68 ≤ spanLength spans → u.readOver record = r ∧ u.readOver word = toLE 4 0xC0DE)) ∧
    (∀ p ck, p < 8 → (s.captureOf p ck = none → exec (.captureCommit t p ck) s = .next (s.now t)) ∧
      ∀ c, s.captureOf p ck = some c →
        (c.begun = false ∨ s.owes (.capture p ck) = true → exec (.captureCommit t p ck) s = .next (s.now t)) ∧
        (∀ x, c.begun = true → s.owes (.capture p ck) = false → c.commitSent = false → s.reaches p c.holder 0 x →
          let r := c.record p s.deviceId
          ∃ u w, exec (.captureCommit t p ck) s = .next u ∧
            Handed s w now x (tc0 0x32 c.holderPart c.recordOff (sliceB r 0 24 ++ sliceB r 32 32)) (.capture p ck) ∧
            u = { w with time := now, partitions := u.partitions } ∧ u.captureOf p ck = some { c with commitSent := true } ∧
            ∀ q, q ≠ p → u.partition q = s.partition q) ∧
        (c.begun = true → s.owes (.capture p ck) = false → c.commitSent = true → c.flushNext = false →
          ∃ u, exec (.captureCommit t p ck) s = .next u ∧ u.captureOf p ck = none ∧
            (ck = false → ∀ q, (u.partition p).partner = some q → if c.slot = 0 then q.slotA = some c.step else q.slotB = some c.step) ∧
            ∀ q, q ≠ p → u.partition q = s.partition q)) ∧
    (∀ x, inbox 0x33 = some x →
      let b := x.2.2.payload
      let p := x.1
      let src := x.2.2.src
      let asking (k : OpenKind) : Bool := match k with | .reflectAsk q partner _ _ _ _ => q == p && partner == src | _ => false
      (fieldB b 6 1 % 2 = 0 →
        let from_ := fieldB b 7 1 % 8
        let fits := s.regionFits p (fieldB b 8 8) (fieldB b 16 8)
        let r : HeldRegion :=
          { part := p, source := src, sourcePart := from_, off := fieldB b 8 8, size := fieldB b 16 8, coFed := bit (fieldB b 6 1) 1 }
        ∃ u v, exec (.feedQuery t) s = .next u ∧ Taken s v x ∧ (fits = false → u.regions = s.regions) ∧
          (fits = true → ∀ z, z ∈ u.regions ↔ z = r ∨ z ∈ s.regions ∧ ¬ (z.part = p ∧ z.source = src ∧ z.sourcePart = from_)) ∧
          ∀ c, v.reaches p src 0 c → ∃ w, u = w.now t ∧
            Handed { v with regions := u.regions } w now c (tc0 0x33 from_ 0 (toLE 1 1 ++ toLE 1 s.feed ++ toLE 1 fits.toNat)) .none) ∧
      (fieldB b 6 1 % 2 = 1 → (s.findOpen asking = none → onlyTaken (.feedQuery t) x) ∧
        ∀ o part off size coFed, s.findOpen asking = some o → o.kind = .reflectAsk p src part off size coFed → s.ticketOk o.ticket →
          (fieldB b 7 1 = s.feed → coFed = false → ∃ u v, exec (.feedQuery t) s = .next u ∧ Taken s v x ∧ Finishes s v u t o .sameFeed []) ∧
          (fieldB b 7 1 ≠ s.feed ∨ coFed = true → ∃ u, exec (.feedQuery t) s = .next u ∧ u.partitions = s.partitions ∧
            u.opens = s.opens.map fun y => if y = o then { y with kind := .reflectPair p src part off size coFed (fieldB b 7 1) } else y))) ∧
    (∀ x, inbox 0x34 = some x → ∃ u v, exec (.sag t) s = .next u ∧ Taken s v x ∧ u = { v.now t with sagTimes := s.sagTimes ++ [now] }) ∧
    (∀ x, inbox 0x35 = some x →
      let image := s.askedImage x.1 x.2.2.src (fieldB x.2.2.payload 7 1 % 8) (bit (fieldB x.2.2.payload 6 1) 0) (fieldB x.2.2.payload 8 8)
      (image = none → onlyTaken (.restoreAsk t) x) ∧
      (image ≠ none → ∃ u v, exec (.restoreAsk t) s = .next u ∧ Taken s v x ∧
        u = { v with time := now, contexts := u.contexts, router := u.router })) ∧
    ∀ x, calm → pages 0x36 = some x →
      let p := x.1
      let m := x.2.2
      let asked := s.findOpen fun k => match k with | .restore q h _ _ => q == p && h == m.src | _ => false
      ((s.partition p).restore = none ∨ asked = none → onlyTaken (.restorePage t) x) ∧
      ∀ r o record area, p < 8 → (s.partition p).restore = some r → asked = some o → o.kind = .restore p m.src record area →
        let r' : Restore := { r with got := r.got ++ [m.place44 / 4096], cells := spliceCells r.cells m.place44 4096 (cellsOfNonzero m.place44 m.payload)
                                     bad := if m.anyPoison then r.bad ++ [m.place44 / 4096] else r.bad }
        (m.place44 % 4096 ≠ 0 ∨ m.payload.length ≠ 4096 ∨ m.place44 / 4096 ∈ r.got → onlyTaken (.restorePage t) x) ∧
        (m.place44 % 4096 = 0 → m.payload.length = 4096 → m.place44 / 4096 ∉ r.got → r.tableOk = false →
          r'.has 131072 (tableSize (fieldB record 12 4)) = false → ∃ u v, exec (.restorePage t) s = .next u ∧ Taken s v x ∧
            u = { v with time := now, partitions := u.partitions } ∧
            ∀ q, u.partition q = if q = p then { s.partition p with restore := some r' } else s.partition q)

/-- R20, R35, R38, R39, R43, R50, R377, R378, R446. Which reading the 3 % are taken of: log entry 50; the trim's search and how the
window's envelope is judged: log entry 66. -/
def Obligations.SensorsAndFaults : Prop :=
  ∀ (s : State) (t : Nat), s.shaped = true →
    let now := max s.time t
    let idle (c : Instr) := exec c s = .next (s.now t)
    let works := s.answers = true ∧ s.datapathCut = false
    let cause (n : BitVec 8) := if s.faultCause = none then some n else s.faultCause
    let faults (u : State) (n : Nat) := u.faultCause = cause (BitVec.ofNat 8 n) ∧ (s.faultCause = none →
      u.alert 0 4 = AlertReg.occur n (s.alert 0 4) ∧ (u.answers = true → u.opens = []))
    (s.alive = true →
      let count (w : Nat) (xs : List Nat) := (xs.filter fun a => now < a + w).length
      let scale (n : Nat) := min 255 (16 * (1 + n).log2)
      let alarm (one n : Nat) := if n = 0 then 0 else if n = 1 then one else 255
      let hot := s.junction.foldl max 0
      let scores := [scale (count 1000000000 s.ceEvents), scale (count 1000000000 s.linkEvents),
        if hot ≤ 85 then 0 else if hot < 105 then 12 * (hot - 85) else 255, alarm 128 (count 10000000000 s.regulatorTimes),
        alarm 160 (count 10000000000 s.sagTimes)]
      let top := scores.foldl max 0
      let v := min 255 (top + (scores.sum - top) / 4)
      let crossing := s.soundingArmed = true ∧ s.thresholdSet ≤ v
      ∃ u, exec (.soundingUpdate t) s = .next u ∧ u.scores = scores ∧ u.sounding = v ∧ u.threshold = s.thresholdSet ∧
        (u.soundingArmed = true ↔ v + 16 < s.thresholdSet ∨ s.soundingArmed = true ∧ v < s.thresholdSet) ∧
        (crossing → u.alert 0 14 = AlertReg.occur 0 (s.alert 0 14)) ∧
        (¬ crossing → u.funcs = s.funcs ∧ u.partitions = s.partitions ∧ u.contexts = s.contexts ∧ u.router = s.router)) ∧
    (¬ works → ∀ rs n b, idle (.monitorWindow t rs true) ∧ idle (.monitorWindow t rs false) ∧ idle (.p3Trim t n) ∧ idle (.coolantInletHigh t n) ∧ idle (.junctionOverLimit t b n) ∧
      idle (.regulatorAlarm t) ∧ idle (.supplyWarning t n)) ∧
    (works → ∀ (rs : List MonitorReading) (voltageOk : Bool),
      let r (b : Nat) := rs.getD b ⟨0, 0, 0, 0⟩
      let differ := ∃ b < 8, 3 * min (r b).rateA (r b).rateB < 100 * (max (r b).rateA (r b).rateB - min (r b).rateA (r b).rateB)
      let inside := supplyOk s.inputVoltage = true ∧ (∀ b < 8, (r b).junctionEnd ≤ 105) ∧ inletOk s.point s.inlet = true ∧
        (s.ramp ≠ none ∨ voltageOk = true)
      ∃ u, exec (.monitorWindow t rs voltageOk) s = .next u ∧ u.windows = s.windows + 1 ∧
        (∀ b < 8, u.junction.getD b 0 = (r b).junctionEnd) ∧ (u.inEnvelope = true ↔ inside) ∧
        (s.ramp = none → s.powerRecord.point = s.point → s.powerRecord.idle = s.idlePower → s.powerRecord.mean ≤ s.powerLimit →
          97 * s.powerRecord.mean ≤ 100 * u.inputPower ∧ 100 * u.inputPower ≤ 103 * s.powerRecord.mean ∧ u.inputPower ≤ s.powerLimit) ∧
        (∀ b < 8, let m := u.monitors.getD b {}
          m.point = s.point ∧ m.rate = min (r b).rateA (r b).rateB % 65536 ∧ m.junction = (r b).junction % 256 ∧ m.window = s.windows % 2 ^ 32 ∧
          (m.inEnvelope = true ↔ s.inEnvelope = true ∧ inside ∧ ∀ c < 8, (r c).junction ≤ 105)) ∧
        (differ → faults u 7) ∧ (¬ differ → u.faultCause = s.faultCause ∧ u.funcs = s.funcs ∧ u.opens = s.opens)) ∧
    (works → ∀ n,
      let fits := s.point = 3 ∧ s.ramp = none ∧ s.nextTrim ≤ now ∧ n ≤ s.milliVolts + 5 ∧ s.milliVolts ≤ n + 5 ∧ 780 ≤ n ∧ n ≤ 850 ∧
        ((∀ m ∈ s.monitors, 2700 ≤ m.rate) → n ≤ s.milliVolts) ∧
        (¬ (∀ m ∈ s.monitors, 2700 ≤ m.rate) → s.milliVolts < n ∨ s.milliVolts = 850)
      (fits → exec (.p3Trim t n) s = .next { s.now t with milliVolts := n, nextTrim := now + 1000000 }) ∧ (¬ fits → idle (.p3Trim t n))) ∧
    (works → s.ramp = none → ∀ n,
      (300 < n → s.point = 3 → ∃ u, exec (.coolantInletHigh t n) s = .next u ∧ u.inlet = n ∧
        u.ramp = some { target := 2, byHost := false } ∧ (u.alert 0 0).flag = true ∧ (u.alert 0 0).count = (s.alert 0 0).count + 1) ∧
      (n ≤ 300 ∨ s.point ≠ 3 → ∃ u, exec (.coolantInletHigh t n) s = .next u ∧ u = { s with time := now, inlet := n, inEnvelope := u.inEnvelope }) ∧
      ∀ b < 8, (105 < n → 1 < s.point → ∃ u, exec (.junctionOverLimit t b n) s = .next u ∧
          u.ramp = some { target := s.point - 1, byHost := false } ∧ u.alert 0 0 = AlertReg.occur b (s.alert 0 0)) ∧
        (105 < n → s.point ≤ 1 → ∃ u, exec (.junctionOverLimit t b n) s = .next u ∧ u.ramp = none ∧ u.point = s.point ∧
          u.alert 0 0 = AlertReg.occur b (s.alert 0 0)) ∧
        (n ≤ 105 → ∃ u, exec (.junctionOverLimit t b n) s = .next u ∧
          u = { s with time := now, junction := s.junction.set b n, inEnvelope := u.inEnvelope })) ∧
    (works → ∀ r b n, s.ramp = some r → b < 8 → 105 < n → ∃ u, exec (.junctionOverLimit t b n) s = .next u ∧
      u.ramp = some { target := if r.byHost = true then max 1 (s.point - 1) else min r.target (max 1 (s.point - 1)), byHost := false } ∧
      u.alert 0 0 = AlertReg.occur b (s.alert 0 0)) ∧
    (∀ b n, (s.power = .off → idle (.thermalTrip t b n)) ∧
      (s.power ≠ .off → b < 8 → 115 ≤ n → ∃ u, exec (.thermalTrip t b n) s = .next u ∧ u.datapathCut = true ∧ u.inEnvelope = false ∧
        u.alert 0 1 = AlertReg.occur b (s.alert 0 1) ∧ faults u 1) ∧
      (s.power ≠ .off → n < 115 → exec (.thermalTrip t b n) s = .next { s.now t with junction := s.junction.set b n })) ∧
    (works → (s.ramp ≠ none → idle (.regulatorAlarm t)) ∧ (s.ramp = none → ∃ u, exec (.regulatorAlarm t) s = .next u ∧
      u.regulatorTimes = s.regulatorTimes ++ [now] ∧ u.inEnvelope = false ∧ u.voltageOff = true ∧ u.alert 0 2 = AlertReg.occur 0 (s.alert 0 2))) ∧
    (works → ∀ n, (4800 ≤ n → n ≤ 5400 → exec (.supplyWarning t n) s = .next { s.now t with inputVoltage := n }) ∧
      (n < 4800 ∨ 5400 < n → ∃ u, exec (.supplyWarning t n) s = .next u ∧ u.inputVoltage = n ∧ u.sagTimes = s.sagTimes ++ [now] ∧
        u.inEnvelope = false ∧ u.alert 0 3 = AlertReg.occur 0 (s.alert 0 3))) ∧
    (s.power = .off → idle (.oscillatorLoss t) ∧ ∀ x, idle (.sharedBlockFault t x)) ∧
    (s.power ≠ .off → (∃ u, exec (.oscillatorLoss t) s = .next u ∧ faults u 8) ∧
      (∀ x n, (x, n) ∈ [(SharedBlock.activeWellhead, 2), (.routerCore, 3), (.hostEndpoint, 4), (.moduleStore, 5), (.securityBlock, 6)] →
        ∃ u, exec (.sharedBlockFault t x) s = .next u ∧ faults u n ∧ u.failedBlocks = s.failedBlocks ++ [x]) ∧
      (∀ b, ∃ u, exec (.sharedBlockFault t (.monitor b)) s = .next u ∧ faults u 7) ∧
      (∀ p < 12, s.portFailed.length = 12 → ∃ u, exec (.sharedBlockFault t (.folhamPort p)) s = .next u ∧ u.portFailed.getD p false = true ∧
        (∀ i < 4, (u.sub (4 * p + i)).state = .off) ∧ u.faultCause = s.faultCause) ∧
      ∀ q < 8, ∃ u, exec (.sharedBlockFault t (.cxlPort q)) s = .next u ∧ u = { s with time := now, cxl := u.cxl } ∧
        (u.port q).failed = true ∧ (u.port q).linkUp = false ∧ ∀ r, r ≠ q → u.port r = s.port r)

/-- R322, R392, R412 to R416, R420, R434, R441. The values at reset that the spec does not give are log entry 3. -/
def Obligations.PowerAndBoot : Prop :=
  ∀ (s : State) (t : Nat), s.shaped = true →
    let idle (c : Instr) := exec c s = .next (s.now t)
    let lost (u : State) := u.funcs = State.reset.funcs ∧ u.basins = State.reset.basins ∧ u.partitions = State.reset.partitions ∧
      u.mem = [] ∧ u.poison = [] ∧ u.contexts = [] ∧ u.flights = [] ∧ u.opens = [] ∧ u.instances = [] ∧ u.counters = [] ∧
      u.faultCause = none ∧ u.debugUnlocked = false
    let kept (u : State) := u.store = s.store ∧ u.imageA = s.imageA ∧ u.imageB = s.imageB ∧ u.versionFloor = s.versionFloor ∧
      u.bootCount = s.bootCount ∧ u.vendorDigest = s.vendorDigest ∧ u.pending = s.pending
    let darkens (c : Instr) := (s.power = .off → idle c) ∧ (s.power ≠ .off → ∃ u, exec c s = .next u ∧ u.power = .off ∧ u.pwrGood = false ∧
      u.perst = s.perst ∧ lost u ∧ kept u)
    darkens (.undervoltageLockout t) ∧ darkens (.overvoltageCut t) ∧ darkens (.powerOff t) ∧
    exec (.railOutOfRegulation t) s = .next { s.now t with pwrGood := false } ∧
    (s.power ≠ .off → exec (.powerOn t) s = .next s) ∧
    (s.power = .off → ∃ u, exec (.powerOn t) s = .next u ∧ u.power = .boot ∧ u.pwrGood = true ∧ u.time = 0 ∧ u.perst = s.perst ∧
      4600 ≤ u.inputVoltage ∧ u.inputVoltage ≤ 5800 ∧ lost u ∧ kept u) ∧
    (s.power = .off → exec (.perstLAssert t) s = .next { s.now t with perst := true }) ∧
    (s.power ≠ .off → ∃ u, exec (.perstLAssert t) s = .next u ∧ u.power = .boot ∧ u.perst = true ∧ lost u ∧ kept u ∧
      u.pwrGood = (s.pwrGood || s.datapathCut) ∧ u.junction = s.junction) ∧
    (∀ feed hold, (s.perst = false → idle (.perstLRelease t feed hold)) ∧
      (s.perst = true → ∃ u, exec (.perstLRelease t feed hold) s = .next u ∧ 1 ≤ u.hostRate ∧ u.hostRate ≤ 6 ∧ u.hostWidth ∈ [1, 2, 4] ∧
        u = { s.now t with
          perst := false, feed := feed % 64, bootHold := hold, bootStart := max s.time t
          hostRate := u.hostRate, hostWidth := u.hostWidth, freeCount := u.freeCount })) ∧
    ∀ boot : BootResult,
      let gone (b : Nat) := s.mapRetired b = true ∨ ∃ i ∈ boot.failedStacks, i < 24 ∧ i / 3 = b
      let run := exec (.bootComplete t boot) s
      (s.power ≠ .boot ∨ s.perst = true ∨ s.pwrGood = false ∨ s.faultCause ≠ none → idle (.bootComplete t boot)) ∧
      (s.power = .boot → s.perst = false → s.pwrGood = true → s.faultCause = none →
        (boot.rootOk = false ∨ s.recordOf 1 = none ∨ s.recordOf 3 = none ∨ (s.bootSlot boot).2 = none →
          ∃ u, run = .next u ∧ u.power = .boot ∧ u.faultCause = some 0x0B ∧ u.versionFloor =
            if boot.rootOk = true ∧ s.recordOf 1 ≠ none then (s.bootSlot boot).1 else s.versionFloor) ∧
        s.versionFloor ≤ (s.bootSlot boot).1 ∧
        (∀ slot, (s.bootSlot boot).2 = some slot → let i := s.imageIn slot
          slot < 2 ∧ i.present = true ∧ sm3 (toLE 32 i.vendorKey.1 ++ toLE 32 i.vendorKey.2) = s.vendorDigest ∧
          i.floor ≤ i.version ∧ s.versionFloor ≤ i.version ∧ i.floor ≤ (s.bootSlot boot).1) ∧
        ∀ slot serial, boot.rootOk = true → s.recordOf 1 ≠ none → (s.bootSlot boot).2 = some slot → s.recordOf 3 = some serial →
          ∃ u, run = .next u ∧ u.bootCount = (s.bootCount + 1) % 2 ^ 32 ∧ u.serial = fieldB serial 0 8 ∧ u.imageSlot = slot ∧
            u.firmware = (s.imageIn slot).version ∧ u.versionFloor = (s.bootSlot boot).1 ∧
            (∀ b < 8, gone b → (u.basin b).state = .retired) ∧
            ((∀ b < 8, gone b) → u.power = .up ∧ u.faultCause = some 9) ∧
            ((∃ b < 8, ¬ gone b ∧ (s.basin b).state ≠ .retired) → u.power = (if s.bootHold = true then .held else .up) ∧ u.faultCause = none ∧
              (s.isFallback slot = true → u.alert 0 15 = AlertReg.occur slot (s.alert 0 15))))
end

