-- ==== Sys2Proof/Laws/State.lean ====
section
/-! SUPPORT. What each named update of the state leaves alone: one lemma for every field, true by unfolding, so that no
proof opens a record update. -/

namespace Sys2Proof.Machine

variable (s : State)

/-! `modBasin` writes basins only. -/

section
variable (b : Nat) (f : Basin → Basin)
@[simp] theorem State.modBasin_pending : (s.modBasin b f).pending = s.pending := rfl
@[simp] theorem State.modBasin_time : (s.modBasin b f).time = s.time := rfl
@[simp] theorem State.modBasin_power : (s.modBasin b f).power = s.power := rfl
@[simp] theorem State.modBasin_faultCause : (s.modBasin b f).faultCause = s.faultCause := rfl
@[simp] theorem State.modBasin_perst : (s.modBasin b f).perst = s.perst := rfl
@[simp] theorem State.modBasin_pwrGood : (s.modBasin b f).pwrGood = s.pwrGood := rfl
@[simp] theorem State.modBasin_datapathCut : (s.modBasin b f).datapathCut = s.datapathCut := rfl
@[simp] theorem State.modBasin_failedBlocks : (s.modBasin b f).failedBlocks = s.failedBlocks := rfl
@[simp] theorem State.modBasin_feed : (s.modBasin b f).feed = s.feed := rfl
@[simp] theorem State.modBasin_bootHold : (s.modBasin b f).bootHold = s.bootHold := rfl
@[simp] theorem State.modBasin_bootStart : (s.modBasin b f).bootStart = s.bootStart := rfl
@[simp] theorem State.modBasin_point : (s.modBasin b f).point = s.point := rfl
@[simp] theorem State.modBasin_ramp : (s.modBasin b f).ramp = s.ramp := rfl
@[simp] theorem State.modBasin_milliVolts : (s.modBasin b f).milliVolts = s.milliVolts := rfl
@[simp] theorem State.modBasin_voltageOff : (s.modBasin b f).voltageOff = s.voltageOff := rfl
@[simp] theorem State.modBasin_nextTrim : (s.modBasin b f).nextTrim = s.nextTrim := rfl
@[simp] theorem State.modBasin_junction : (s.modBasin b f).junction = s.junction := rfl
@[simp] theorem State.modBasin_inlet : (s.modBasin b f).inlet = s.inlet := rfl
@[simp] theorem State.modBasin_outlet : (s.modBasin b f).outlet = s.outlet := rfl
@[simp] theorem State.modBasin_inputVoltage : (s.modBasin b f).inputVoltage = s.inputVoltage := rfl
@[simp] theorem State.modBasin_inputCurrent : (s.modBasin b f).inputCurrent = s.inputCurrent := rfl
@[simp] theorem State.modBasin_inputPower : (s.modBasin b f).inputPower = s.inputPower := rfl
@[simp] theorem State.modBasin_powerRecord : (s.modBasin b f).powerRecord = s.powerRecord := rfl
@[simp] theorem State.modBasin_inEnvelope : (s.modBasin b f).inEnvelope = s.inEnvelope := rfl
@[simp] theorem State.modBasin_rampInWindow : (s.modBasin b f).rampInWindow = s.rampInWindow := rfl
@[simp] theorem State.modBasin_monitors : (s.modBasin b f).monitors = s.monitors := rfl
@[simp] theorem State.modBasin_tenantSums : (s.modBasin b f).tenantSums = s.tenantSums := rfl
@[simp] theorem State.modBasin_tenantMonitors : (s.modBasin b f).tenantMonitors = s.tenantMonitors := rfl
@[simp] theorem State.modBasin_windows : (s.modBasin b f).windows = s.windows := rfl
@[simp] theorem State.modBasin_tenantRamping : (s.modBasin b f).tenantRamping = s.tenantRamping := rfl
@[simp] theorem State.modBasin_tenantInEnvelope : (s.modBasin b f).tenantInEnvelope = s.tenantInEnvelope := rfl
@[simp] theorem State.modBasin_serial : (s.modBasin b f).serial = s.serial := rfl
@[simp] theorem State.modBasin_firmware : (s.modBasin b f).firmware = s.firmware := rfl
@[simp] theorem State.modBasin_abaopMinor : (s.modBasin b f).abaopMinor = s.abaopMinor := rfl
@[simp] theorem State.modBasin_imageSlot : (s.modBasin b f).imageSlot = s.imageSlot := rfl
@[simp] theorem State.modBasin_deviceId : (s.modBasin b f).deviceId = s.deviceId := rfl
@[simp] theorem State.modBasin_funcs : (s.modBasin b f).funcs = s.funcs := rfl
@[simp] theorem State.modBasin_alertTotals : (s.modBasin b f).alertTotals = s.alertTotals := rfl
@[simp] theorem State.modBasin_lastServed : (s.modBasin b f).lastServed = s.lastServed := rfl
@[simp] theorem State.modBasin_opens : (s.modBasin b f).opens = s.opens := rfl
@[simp] theorem State.modBasin_msix : (s.modBasin b f).msix = s.msix := rfl
@[simp] theorem State.modBasin_hostWrites : (s.modBasin b f).hostWrites = s.hostWrites := rfl
@[simp] theorem State.modBasin_completion : (s.modBasin b f).completion = s.completion := rfl
@[simp] theorem State.modBasin_hostRate : (s.modBasin b f).hostRate = s.hostRate := rfl
@[simp] theorem State.modBasin_hostWidth : (s.modBasin b f).hostWidth = s.hostWidth := rfl
@[simp] theorem State.modBasin_partitions : (s.modBasin b f).partitions = s.partitions := rfl
@[simp] theorem State.modBasin_flights : (s.modBasin b f).flights = s.flights := rfl
@[simp] theorem State.modBasin_nextFlight : (s.modBasin b f).nextFlight = s.nextFlight := rfl
@[simp] theorem State.modBasin_mem : (s.modBasin b f).mem = s.mem := rfl
@[simp] theorem State.modBasin_poison : (s.modBasin b f).poison = s.poison := rfl
@[simp] theorem State.modBasin_hbm : (s.modBasin b f).hbm = s.hbm := rfl
@[simp] theorem State.modBasin_cxl : (s.modBasin b f).cxl = s.cxl := rfl
@[simp] theorem State.modBasin_counters : (s.modBasin b f).counters = s.counters := rfl
@[simp] theorem State.modBasin_portModes : (s.modBasin b f).portModes = s.portModes := rfl
@[simp] theorem State.modBasin_portFailed : (s.modBasin b f).portFailed = s.portFailed := rfl
@[simp] theorem State.modBasin_portMeters : (s.modBasin b f).portMeters = s.portMeters := rfl
@[simp] theorem State.modBasin_subPorts : (s.modBasin b f).subPorts = s.subPorts := rfl
@[simp] theorem State.modBasin_router : (s.modBasin b f).router = s.router := rfl
@[simp] theorem State.modBasin_contexts : (s.modBasin b f).contexts = s.contexts := rfl
@[simp] theorem State.modBasin_instances : (s.modBasin b f).instances = s.instances := rfl
@[simp] theorem State.modBasin_orphans : (s.modBasin b f).orphans = s.orphans := rfl
@[simp] theorem State.modBasin_ceEvents : (s.modBasin b f).ceEvents = s.ceEvents := rfl
@[simp] theorem State.modBasin_linkEvents : (s.modBasin b f).linkEvents = s.linkEvents := rfl
@[simp] theorem State.modBasin_regulatorTimes : (s.modBasin b f).regulatorTimes = s.regulatorTimes := rfl
@[simp] theorem State.modBasin_sagTimes : (s.modBasin b f).sagTimes = s.sagTimes := rfl
@[simp] theorem State.modBasin_sounding : (s.modBasin b f).sounding = s.sounding := rfl
@[simp] theorem State.modBasin_scores : (s.modBasin b f).scores = s.scores := rfl
@[simp] theorem State.modBasin_threshold : (s.modBasin b f).threshold = s.threshold := rfl
@[simp] theorem State.modBasin_thresholdSet : (s.modBasin b f).thresholdSet = s.thresholdSet := rfl
@[simp] theorem State.modBasin_soundingArmed : (s.modBasin b f).soundingArmed = s.soundingArmed := rfl
@[simp] theorem State.modBasin_notices : (s.modBasin b f).notices = s.notices := rfl
@[simp] theorem State.modBasin_regions : (s.modBasin b f).regions = s.regions := rfl
@[simp] theorem State.modBasin_images : (s.modBasin b f).images = s.images := rfl
@[simp] theorem State.modBasin_vendorDigest : (s.modBasin b f).vendorDigest = s.vendorDigest := rfl
@[simp] theorem State.modBasin_bootCount : (s.modBasin b f).bootCount = s.bootCount := rfl
@[simp] theorem State.modBasin_versionFloor : (s.modBasin b f).versionFloor = s.versionFloor := rfl
@[simp] theorem State.modBasin_imageA : (s.modBasin b f).imageA = s.imageA := rfl
@[simp] theorem State.modBasin_imageB : (s.modBasin b f).imageB = s.imageB := rfl
@[simp] theorem State.modBasin_staged : (s.modBasin b f).staged = s.staged := rfl
@[simp] theorem State.modBasin_fallbackBoot : (s.modBasin b f).fallbackBoot = s.fallbackBoot := rfl
@[simp] theorem State.modBasin_debugUnlocked : (s.modBasin b f).debugUnlocked = s.debugUnlocked := rfl
@[simp] theorem State.modBasin_chain : (s.modBasin b f).chain = s.chain := rfl
@[simp] theorem State.modBasin_randomCount : (s.modBasin b f).randomCount = s.randomCount := rfl
@[simp] theorem State.modBasin_freeCount : (s.modBasin b f).freeCount = s.freeCount := rfl
@[simp] theorem State.modBasin_store : (s.modBasin b f).store = s.store := rfl
@[simp] theorem State.modBasin_echo : (s.modBasin b f).echo = s.echo := rfl
@[simp] theorem State.modBasin_echoPulses : (s.modBasin b f).echoPulses = s.echoPulses := rfl
@[simp] theorem State.modBasin_dynAddr : (s.modBasin b f).dynAddr = s.dynAddr := rfl
@[simp] theorem State.modBasin_endpointId : (s.modBasin b f).endpointId = s.endpointId := rfl
@[simp] theorem State.modBasin_stopArmed : (s.modBasin b f).stopArmed = s.stopArmed := rfl
@[simp] theorem State.modBasin_i3cReply : (s.modBasin b f).i3cReply = s.i3cReply := rfl
@[simp] theorem State.modBasin_ibis : (s.modBasin b f).ibis = s.ibis := rfl
@[simp] theorem State.modBasin_tap : (s.modBasin b f).tap = s.tap := rfl
@[simp] theorem State.modBasin_tapBypass : (s.modBasin b f).tapBypass = s.tapBypass := rfl
@[simp] theorem State.modBasin_tapOut : (s.modBasin b f).tapOut = s.tapOut := rfl
end

/-! `modSlot` writes basins only. -/

section
variable (b k : Nat) (f : Slot → Slot)
@[simp] theorem State.modSlot_pending : (s.modSlot b k f).pending = s.pending := rfl
@[simp] theorem State.modSlot_time : (s.modSlot b k f).time = s.time := rfl
@[simp] theorem State.modSlot_power : (s.modSlot b k f).power = s.power := rfl
@[simp] theorem State.modSlot_faultCause : (s.modSlot b k f).faultCause = s.faultCause := rfl
@[simp] theorem State.modSlot_perst : (s.modSlot b k f).perst = s.perst := rfl
@[simp] theorem State.modSlot_pwrGood : (s.modSlot b k f).pwrGood = s.pwrGood := rfl
@[simp] theorem State.modSlot_datapathCut : (s.modSlot b k f).datapathCut = s.datapathCut := rfl
@[simp] theorem State.modSlot_failedBlocks : (s.modSlot b k f).failedBlocks = s.failedBlocks := rfl
@[simp] theorem State.modSlot_feed : (s.modSlot b k f).feed = s.feed := rfl
@[simp] theorem State.modSlot_bootHold : (s.modSlot b k f).bootHold = s.bootHold := rfl
@[simp] theorem State.modSlot_bootStart : (s.modSlot b k f).bootStart = s.bootStart := rfl
@[simp] theorem State.modSlot_point : (s.modSlot b k f).point = s.point := rfl
@[simp] theorem State.modSlot_ramp : (s.modSlot b k f).ramp = s.ramp := rfl
@[simp] theorem State.modSlot_milliVolts : (s.modSlot b k f).milliVolts = s.milliVolts := rfl
@[simp] theorem State.modSlot_voltageOff : (s.modSlot b k f).voltageOff = s.voltageOff := rfl
@[simp] theorem State.modSlot_nextTrim : (s.modSlot b k f).nextTrim = s.nextTrim := rfl
@[simp] theorem State.modSlot_junction : (s.modSlot b k f).junction = s.junction := rfl
@[simp] theorem State.modSlot_inlet : (s.modSlot b k f).inlet = s.inlet := rfl
@[simp] theorem State.modSlot_outlet : (s.modSlot b k f).outlet = s.outlet := rfl
@[simp] theorem State.modSlot_inputVoltage : (s.modSlot b k f).inputVoltage = s.inputVoltage := rfl
@[simp] theorem State.modSlot_inputCurrent : (s.modSlot b k f).inputCurrent = s.inputCurrent := rfl
@[simp] theorem State.modSlot_inputPower : (s.modSlot b k f).inputPower = s.inputPower := rfl
@[simp] theorem State.modSlot_powerRecord : (s.modSlot b k f).powerRecord = s.powerRecord := rfl
@[simp] theorem State.modSlot_inEnvelope : (s.modSlot b k f).inEnvelope = s.inEnvelope := rfl
@[simp] theorem State.modSlot_rampInWindow : (s.modSlot b k f).rampInWindow = s.rampInWindow := rfl
@[simp] theorem State.modSlot_monitors : (s.modSlot b k f).monitors = s.monitors := rfl
@[simp] theorem State.modSlot_tenantSums : (s.modSlot b k f).tenantSums = s.tenantSums := rfl
@[simp] theorem State.modSlot_tenantMonitors : (s.modSlot b k f).tenantMonitors = s.tenantMonitors := rfl
@[simp] theorem State.modSlot_windows : (s.modSlot b k f).windows = s.windows := rfl
@[simp] theorem State.modSlot_tenantRamping : (s.modSlot b k f).tenantRamping = s.tenantRamping := rfl
@[simp] theorem State.modSlot_tenantInEnvelope : (s.modSlot b k f).tenantInEnvelope = s.tenantInEnvelope := rfl
@[simp] theorem State.modSlot_serial : (s.modSlot b k f).serial = s.serial := rfl
@[simp] theorem State.modSlot_firmware : (s.modSlot b k f).firmware = s.firmware := rfl
@[simp] theorem State.modSlot_abaopMinor : (s.modSlot b k f).abaopMinor = s.abaopMinor := rfl
@[simp] theorem State.modSlot_imageSlot : (s.modSlot b k f).imageSlot = s.imageSlot := rfl
@[simp] theorem State.modSlot_deviceId : (s.modSlot b k f).deviceId = s.deviceId := rfl
@[simp] theorem State.modSlot_funcs : (s.modSlot b k f).funcs = s.funcs := rfl
@[simp] theorem State.modSlot_alertTotals : (s.modSlot b k f).alertTotals = s.alertTotals := rfl
@[simp] theorem State.modSlot_lastServed : (s.modSlot b k f).lastServed = s.lastServed := rfl
@[simp] theorem State.modSlot_opens : (s.modSlot b k f).opens = s.opens := rfl
@[simp] theorem State.modSlot_msix : (s.modSlot b k f).msix = s.msix := rfl
@[simp] theorem State.modSlot_hostWrites : (s.modSlot b k f).hostWrites = s.hostWrites := rfl
@[simp] theorem State.modSlot_completion : (s.modSlot b k f).completion = s.completion := rfl
@[simp] theorem State.modSlot_hostRate : (s.modSlot b k f).hostRate = s.hostRate := rfl
@[simp] theorem State.modSlot_hostWidth : (s.modSlot b k f).hostWidth = s.hostWidth := rfl
@[simp] theorem State.modSlot_partitions : (s.modSlot b k f).partitions = s.partitions := rfl
@[simp] theorem State.modSlot_flights : (s.modSlot b k f).flights = s.flights := rfl
@[simp] theorem State.modSlot_nextFlight : (s.modSlot b k f).nextFlight = s.nextFlight := rfl
@[simp] theorem State.modSlot_mem : (s.modSlot b k f).mem = s.mem := rfl
@[simp] theorem State.modSlot_poison : (s.modSlot b k f).poison = s.poison := rfl
@[simp] theorem State.modSlot_hbm : (s.modSlot b k f).hbm = s.hbm := rfl
@[simp] theorem State.modSlot_cxl : (s.modSlot b k f).cxl = s.cxl := rfl
@[simp] theorem State.modSlot_counters : (s.modSlot b k f).counters = s.counters := rfl
@[simp] theorem State.modSlot_portModes : (s.modSlot b k f).portModes = s.portModes := rfl
@[simp] theorem State.modSlot_portFailed : (s.modSlot b k f).portFailed = s.portFailed := rfl
@[simp] theorem State.modSlot_portMeters : (s.modSlot b k f).portMeters = s.portMeters := rfl
@[simp] theorem State.modSlot_subPorts : (s.modSlot b k f).subPorts = s.subPorts := rfl
@[simp] theorem State.modSlot_router : (s.modSlot b k f).router = s.router := rfl
@[simp] theorem State.modSlot_contexts : (s.modSlot b k f).contexts = s.contexts := rfl
@[simp] theorem State.modSlot_instances : (s.modSlot b k f).instances = s.instances := rfl
@[simp] theorem State.modSlot_orphans : (s.modSlot b k f).orphans = s.orphans := rfl
@[simp] theorem State.modSlot_ceEvents : (s.modSlot b k f).ceEvents = s.ceEvents := rfl
@[simp] theorem State.modSlot_linkEvents : (s.modSlot b k f).linkEvents = s.linkEvents := rfl
@[simp] theorem State.modSlot_regulatorTimes : (s.modSlot b k f).regulatorTimes = s.regulatorTimes := rfl
@[simp] theorem State.modSlot_sagTimes : (s.modSlot b k f).sagTimes = s.sagTimes := rfl
@[simp] theorem State.modSlot_sounding : (s.modSlot b k f).sounding = s.sounding := rfl
@[simp] theorem State.modSlot_scores : (s.modSlot b k f).scores = s.scores := rfl
@[simp] theorem State.modSlot_threshold : (s.modSlot b k f).threshold = s.threshold := rfl
@[simp] theorem State.modSlot_thresholdSet : (s.modSlot b k f).thresholdSet = s.thresholdSet := rfl
@[simp] theorem State.modSlot_soundingArmed : (s.modSlot b k f).soundingArmed = s.soundingArmed := rfl
@[simp] theorem State.modSlot_notices : (s.modSlot b k f).notices = s.notices := rfl
@[simp] theorem State.modSlot_regions : (s.modSlot b k f).regions = s.regions := rfl
@[simp] theorem State.modSlot_images : (s.modSlot b k f).images = s.images := rfl
@[simp] theorem State.modSlot_vendorDigest : (s.modSlot b k f).vendorDigest = s.vendorDigest := rfl
@[simp] theorem State.modSlot_bootCount : (s.modSlot b k f).bootCount = s.bootCount := rfl
@[simp] theorem State.modSlot_versionFloor : (s.modSlot b k f).versionFloor = s.versionFloor := rfl
@[simp] theorem State.modSlot_imageA : (s.modSlot b k f).imageA = s.imageA := rfl
@[simp] theorem State.modSlot_imageB : (s.modSlot b k f).imageB = s.imageB := rfl
@[simp] theorem State.modSlot_staged : (s.modSlot b k f).staged = s.staged := rfl
@[simp] theorem State.modSlot_fallbackBoot : (s.modSlot b k f).fallbackBoot = s.fallbackBoot := rfl
@[simp] theorem State.modSlot_debugUnlocked : (s.modSlot b k f).debugUnlocked = s.debugUnlocked := rfl
@[simp] theorem State.modSlot_chain : (s.modSlot b k f).chain = s.chain := rfl
@[simp] theorem State.modSlot_randomCount : (s.modSlot b k f).randomCount = s.randomCount := rfl
@[simp] theorem State.modSlot_freeCount : (s.modSlot b k f).freeCount = s.freeCount := rfl
@[simp] theorem State.modSlot_store : (s.modSlot b k f).store = s.store := rfl
@[simp] theorem State.modSlot_echo : (s.modSlot b k f).echo = s.echo := rfl
@[simp] theorem State.modSlot_echoPulses : (s.modSlot b k f).echoPulses = s.echoPulses := rfl
@[simp] theorem State.modSlot_dynAddr : (s.modSlot b k f).dynAddr = s.dynAddr := rfl
@[simp] theorem State.modSlot_endpointId : (s.modSlot b k f).endpointId = s.endpointId := rfl
@[simp] theorem State.modSlot_stopArmed : (s.modSlot b k f).stopArmed = s.stopArmed := rfl
@[simp] theorem State.modSlot_i3cReply : (s.modSlot b k f).i3cReply = s.i3cReply := rfl
@[simp] theorem State.modSlot_ibis : (s.modSlot b k f).ibis = s.ibis := rfl
@[simp] theorem State.modSlot_tap : (s.modSlot b k f).tap = s.tap := rfl
@[simp] theorem State.modSlot_tapBypass : (s.modSlot b k f).tapBypass = s.tapBypass := rfl
@[simp] theorem State.modSlot_tapOut : (s.modSlot b k f).tapOut = s.tapOut := rfl
end

/-! `modCell` writes basins only. -/

section
variable (b c : Nat) (f : SyncCell → SyncCell)
@[simp] theorem State.modCell_pending : (s.modCell b c f).pending = s.pending := rfl
@[simp] theorem State.modCell_time : (s.modCell b c f).time = s.time := rfl
@[simp] theorem State.modCell_power : (s.modCell b c f).power = s.power := rfl
@[simp] theorem State.modCell_faultCause : (s.modCell b c f).faultCause = s.faultCause := rfl
@[simp] theorem State.modCell_perst : (s.modCell b c f).perst = s.perst := rfl
@[simp] theorem State.modCell_pwrGood : (s.modCell b c f).pwrGood = s.pwrGood := rfl
@[simp] theorem State.modCell_datapathCut : (s.modCell b c f).datapathCut = s.datapathCut := rfl
@[simp] theorem State.modCell_failedBlocks : (s.modCell b c f).failedBlocks = s.failedBlocks := rfl
@[simp] theorem State.modCell_feed : (s.modCell b c f).feed = s.feed := rfl
@[simp] theorem State.modCell_bootHold : (s.modCell b c f).bootHold = s.bootHold := rfl
@[simp] theorem State.modCell_bootStart : (s.modCell b c f).bootStart = s.bootStart := rfl
@[simp] theorem State.modCell_point : (s.modCell b c f).point = s.point := rfl
@[simp] theorem State.modCell_ramp : (s.modCell b c f).ramp = s.ramp := rfl
@[simp] theorem State.modCell_milliVolts : (s.modCell b c f).milliVolts = s.milliVolts := rfl
@[simp] theorem State.modCell_voltageOff : (s.modCell b c f).voltageOff = s.voltageOff := rfl
@[simp] theorem State.modCell_nextTrim : (s.modCell b c f).nextTrim = s.nextTrim := rfl
@[simp] theorem State.modCell_junction : (s.modCell b c f).junction = s.junction := rfl
@[simp] theorem State.modCell_inlet : (s.modCell b c f).inlet = s.inlet := rfl
@[simp] theorem State.modCell_outlet : (s.modCell b c f).outlet = s.outlet := rfl
@[simp] theorem State.modCell_inputVoltage : (s.modCell b c f).inputVoltage = s.inputVoltage := rfl
@[simp] theorem State.modCell_inputCurrent : (s.modCell b c f).inputCurrent = s.inputCurrent := rfl
@[simp] theorem State.modCell_inputPower : (s.modCell b c f).inputPower = s.inputPower := rfl
@[simp] theorem State.modCell_powerRecord : (s.modCell b c f).powerRecord = s.powerRecord := rfl
@[simp] theorem State.modCell_inEnvelope : (s.modCell b c f).inEnvelope = s.inEnvelope := rfl
@[simp] theorem State.modCell_rampInWindow : (s.modCell b c f).rampInWindow = s.rampInWindow := rfl
@[simp] theorem State.modCell_monitors : (s.modCell b c f).monitors = s.monitors := rfl
@[simp] theorem State.modCell_tenantSums : (s.modCell b c f).tenantSums = s.tenantSums := rfl
@[simp] theorem State.modCell_tenantMonitors : (s.modCell b c f).tenantMonitors = s.tenantMonitors := rfl
@[simp] theorem State.modCell_windows : (s.modCell b c f).windows = s.windows := rfl
@[simp] theorem State.modCell_tenantRamping : (s.modCell b c f).tenantRamping = s.tenantRamping := rfl
@[simp] theorem State.modCell_tenantInEnvelope : (s.modCell b c f).tenantInEnvelope = s.tenantInEnvelope := rfl
@[simp] theorem State.modCell_serial : (s.modCell b c f).serial = s.serial := rfl
@[simp] theorem State.modCell_firmware : (s.modCell b c f).firmware = s.firmware := rfl
@[simp] theorem State.modCell_abaopMinor : (s.modCell b c f).abaopMinor = s.abaopMinor := rfl
@[simp] theorem State.modCell_imageSlot : (s.modCell b c f).imageSlot = s.imageSlot := rfl
@[simp] theorem State.modCell_deviceId : (s.modCell b c f).deviceId = s.deviceId := rfl
@[simp] theorem State.modCell_funcs : (s.modCell b c f).funcs = s.funcs := rfl
@[simp] theorem State.modCell_alertTotals : (s.modCell b c f).alertTotals = s.alertTotals := rfl
@[simp] theorem State.modCell_lastServed : (s.modCell b c f).lastServed = s.lastServed := rfl
@[simp] theorem State.modCell_opens : (s.modCell b c f).opens = s.opens := rfl
@[simp] theorem State.modCell_msix : (s.modCell b c f).msix = s.msix := rfl
@[simp] theorem State.modCell_hostWrites : (s.modCell b c f).hostWrites = s.hostWrites := rfl
@[simp] theorem State.modCell_completion : (s.modCell b c f).completion = s.completion := rfl
@[simp] theorem State.modCell_hostRate : (s.modCell b c f).hostRate = s.hostRate := rfl
@[simp] theorem State.modCell_hostWidth : (s.modCell b c f).hostWidth = s.hostWidth := rfl
@[simp] theorem State.modCell_partitions : (s.modCell b c f).partitions = s.partitions := rfl
@[simp] theorem State.modCell_flights : (s.modCell b c f).flights = s.flights := rfl
@[simp] theorem State.modCell_nextFlight : (s.modCell b c f).nextFlight = s.nextFlight := rfl
@[simp] theorem State.modCell_mem : (s.modCell b c f).mem = s.mem := rfl
@[simp] theorem State.modCell_poison : (s.modCell b c f).poison = s.poison := rfl
@[simp] theorem State.modCell_hbm : (s.modCell b c f).hbm = s.hbm := rfl
@[simp] theorem State.modCell_cxl : (s.modCell b c f).cxl = s.cxl := rfl
@[simp] theorem State.modCell_counters : (s.modCell b c f).counters = s.counters := rfl
@[simp] theorem State.modCell_portModes : (s.modCell b c f).portModes = s.portModes := rfl
@[simp] theorem State.modCell_portFailed : (s.modCell b c f).portFailed = s.portFailed := rfl
@[simp] theorem State.modCell_portMeters : (s.modCell b c f).portMeters = s.portMeters := rfl
@[simp] theorem State.modCell_subPorts : (s.modCell b c f).subPorts = s.subPorts := rfl
@[simp] theorem State.modCell_router : (s.modCell b c f).router = s.router := rfl
@[simp] theorem State.modCell_contexts : (s.modCell b c f).contexts = s.contexts := rfl
@[simp] theorem State.modCell_instances : (s.modCell b c f).instances = s.instances := rfl
@[simp] theorem State.modCell_orphans : (s.modCell b c f).orphans = s.orphans := rfl
@[simp] theorem State.modCell_ceEvents : (s.modCell b c f).ceEvents = s.ceEvents := rfl
@[simp] theorem State.modCell_linkEvents : (s.modCell b c f).linkEvents = s.linkEvents := rfl
@[simp] theorem State.modCell_regulatorTimes : (s.modCell b c f).regulatorTimes = s.regulatorTimes := rfl
@[simp] theorem State.modCell_sagTimes : (s.modCell b c f).sagTimes = s.sagTimes := rfl
@[simp] theorem State.modCell_sounding : (s.modCell b c f).sounding = s.sounding := rfl
@[simp] theorem State.modCell_scores : (s.modCell b c f).scores = s.scores := rfl
@[simp] theorem State.modCell_threshold : (s.modCell b c f).threshold = s.threshold := rfl
@[simp] theorem State.modCell_thresholdSet : (s.modCell b c f).thresholdSet = s.thresholdSet := rfl
@[simp] theorem State.modCell_soundingArmed : (s.modCell b c f).soundingArmed = s.soundingArmed := rfl
@[simp] theorem State.modCell_notices : (s.modCell b c f).notices = s.notices := rfl
@[simp] theorem State.modCell_regions : (s.modCell b c f).regions = s.regions := rfl
@[simp] theorem State.modCell_images : (s.modCell b c f).images = s.images := rfl
@[simp] theorem State.modCell_vendorDigest : (s.modCell b c f).vendorDigest = s.vendorDigest := rfl
@[simp] theorem State.modCell_bootCount : (s.modCell b c f).bootCount = s.bootCount := rfl
@[simp] theorem State.modCell_versionFloor : (s.modCell b c f).versionFloor = s.versionFloor := rfl
@[simp] theorem State.modCell_imageA : (s.modCell b c f).imageA = s.imageA := rfl
@[simp] theorem State.modCell_imageB : (s.modCell b c f).imageB = s.imageB := rfl
@[simp] theorem State.modCell_staged : (s.modCell b c f).staged = s.staged := rfl
@[simp] theorem State.modCell_fallbackBoot : (s.modCell b c f).fallbackBoot = s.fallbackBoot := rfl
@[simp] theorem State.modCell_debugUnlocked : (s.modCell b c f).debugUnlocked = s.debugUnlocked := rfl
@[simp] theorem State.modCell_chain : (s.modCell b c f).chain = s.chain := rfl
@[simp] theorem State.modCell_randomCount : (s.modCell b c f).randomCount = s.randomCount := rfl
@[simp] theorem State.modCell_freeCount : (s.modCell b c f).freeCount = s.freeCount := rfl
@[simp] theorem State.modCell_store : (s.modCell b c f).store = s.store := rfl
@[simp] theorem State.modCell_echo : (s.modCell b c f).echo = s.echo := rfl
@[simp] theorem State.modCell_echoPulses : (s.modCell b c f).echoPulses = s.echoPulses := rfl
@[simp] theorem State.modCell_dynAddr : (s.modCell b c f).dynAddr = s.dynAddr := rfl
@[simp] theorem State.modCell_endpointId : (s.modCell b c f).endpointId = s.endpointId := rfl
@[simp] theorem State.modCell_stopArmed : (s.modCell b c f).stopArmed = s.stopArmed := rfl
@[simp] theorem State.modCell_i3cReply : (s.modCell b c f).i3cReply = s.i3cReply := rfl
@[simp] theorem State.modCell_ibis : (s.modCell b c f).ibis = s.ibis := rfl
@[simp] theorem State.modCell_tap : (s.modCell b c f).tap = s.tap := rfl
@[simp] theorem State.modCell_tapBypass : (s.modCell b c f).tapBypass = s.tapBypass := rfl
@[simp] theorem State.modCell_tapOut : (s.modCell b c f).tapOut = s.tapOut := rfl
end

/-! `modPartition` writes partitions only. -/

section
variable (p : Nat) (f : Partition → Partition)
@[simp] theorem State.modPartition_pending : (s.modPartition p f).pending = s.pending := rfl
@[simp] theorem State.modPartition_time : (s.modPartition p f).time = s.time := rfl
@[simp] theorem State.modPartition_power : (s.modPartition p f).power = s.power := rfl
@[simp] theorem State.modPartition_faultCause : (s.modPartition p f).faultCause = s.faultCause := rfl
@[simp] theorem State.modPartition_perst : (s.modPartition p f).perst = s.perst := rfl
@[simp] theorem State.modPartition_pwrGood : (s.modPartition p f).pwrGood = s.pwrGood := rfl
@[simp] theorem State.modPartition_datapathCut : (s.modPartition p f).datapathCut = s.datapathCut := rfl
@[simp] theorem State.modPartition_failedBlocks : (s.modPartition p f).failedBlocks = s.failedBlocks := rfl
@[simp] theorem State.modPartition_feed : (s.modPartition p f).feed = s.feed := rfl
@[simp] theorem State.modPartition_bootHold : (s.modPartition p f).bootHold = s.bootHold := rfl
@[simp] theorem State.modPartition_bootStart : (s.modPartition p f).bootStart = s.bootStart := rfl
@[simp] theorem State.modPartition_point : (s.modPartition p f).point = s.point := rfl
@[simp] theorem State.modPartition_ramp : (s.modPartition p f).ramp = s.ramp := rfl
@[simp] theorem State.modPartition_milliVolts : (s.modPartition p f).milliVolts = s.milliVolts := rfl
@[simp] theorem State.modPartition_voltageOff : (s.modPartition p f).voltageOff = s.voltageOff := rfl
@[simp] theorem State.modPartition_nextTrim : (s.modPartition p f).nextTrim = s.nextTrim := rfl
@[simp] theorem State.modPartition_junction : (s.modPartition p f).junction = s.junction := rfl
@[simp] theorem State.modPartition_inlet : (s.modPartition p f).inlet = s.inlet := rfl
@[simp] theorem State.modPartition_outlet : (s.modPartition p f).outlet = s.outlet := rfl
@[simp] theorem State.modPartition_inputVoltage : (s.modPartition p f).inputVoltage = s.inputVoltage := rfl
@[simp] theorem State.modPartition_inputCurrent : (s.modPartition p f).inputCurrent = s.inputCurrent := rfl
@[simp] theorem State.modPartition_inputPower : (s.modPartition p f).inputPower = s.inputPower := rfl
@[simp] theorem State.modPartition_powerRecord : (s.modPartition p f).powerRecord = s.powerRecord := rfl
@[simp] theorem State.modPartition_inEnvelope : (s.modPartition p f).inEnvelope = s.inEnvelope := rfl
@[simp] theorem State.modPartition_rampInWindow : (s.modPartition p f).rampInWindow = s.rampInWindow := rfl
@[simp] theorem State.modPartition_monitors : (s.modPartition p f).monitors = s.monitors := rfl
@[simp] theorem State.modPartition_tenantSums : (s.modPartition p f).tenantSums = s.tenantSums := rfl
@[simp] theorem State.modPartition_tenantMonitors : (s.modPartition p f).tenantMonitors = s.tenantMonitors := rfl
@[simp] theorem State.modPartition_windows : (s.modPartition p f).windows = s.windows := rfl
@[simp] theorem State.modPartition_tenantRamping : (s.modPartition p f).tenantRamping = s.tenantRamping := rfl
@[simp] theorem State.modPartition_tenantInEnvelope : (s.modPartition p f).tenantInEnvelope = s.tenantInEnvelope := rfl
@[simp] theorem State.modPartition_serial : (s.modPartition p f).serial = s.serial := rfl
@[simp] theorem State.modPartition_firmware : (s.modPartition p f).firmware = s.firmware := rfl
@[simp] theorem State.modPartition_abaopMinor : (s.modPartition p f).abaopMinor = s.abaopMinor := rfl
@[simp] theorem State.modPartition_imageSlot : (s.modPartition p f).imageSlot = s.imageSlot := rfl
@[simp] theorem State.modPartition_deviceId : (s.modPartition p f).deviceId = s.deviceId := rfl
@[simp] theorem State.modPartition_funcs : (s.modPartition p f).funcs = s.funcs := rfl
@[simp] theorem State.modPartition_alertTotals : (s.modPartition p f).alertTotals = s.alertTotals := rfl
@[simp] theorem State.modPartition_lastServed : (s.modPartition p f).lastServed = s.lastServed := rfl
@[simp] theorem State.modPartition_opens : (s.modPartition p f).opens = s.opens := rfl
@[simp] theorem State.modPartition_msix : (s.modPartition p f).msix = s.msix := rfl
@[simp] theorem State.modPartition_hostWrites : (s.modPartition p f).hostWrites = s.hostWrites := rfl
@[simp] theorem State.modPartition_completion : (s.modPartition p f).completion = s.completion := rfl
@[simp] theorem State.modPartition_hostRate : (s.modPartition p f).hostRate = s.hostRate := rfl
@[simp] theorem State.modPartition_hostWidth : (s.modPartition p f).hostWidth = s.hostWidth := rfl
@[simp] theorem State.modPartition_basins : (s.modPartition p f).basins = s.basins := rfl
@[simp] theorem State.modPartition_flights : (s.modPartition p f).flights = s.flights := rfl
@[simp] theorem State.modPartition_nextFlight : (s.modPartition p f).nextFlight = s.nextFlight := rfl
@[simp] theorem State.modPartition_mem : (s.modPartition p f).mem = s.mem := rfl
@[simp] theorem State.modPartition_poison : (s.modPartition p f).poison = s.poison := rfl
@[simp] theorem State.modPartition_hbm : (s.modPartition p f).hbm = s.hbm := rfl
@[simp] theorem State.modPartition_cxl : (s.modPartition p f).cxl = s.cxl := rfl
@[simp] theorem State.modPartition_counters : (s.modPartition p f).counters = s.counters := rfl
@[simp] theorem State.modPartition_portModes : (s.modPartition p f).portModes = s.portModes := rfl
@[simp] theorem State.modPartition_portFailed : (s.modPartition p f).portFailed = s.portFailed := rfl
@[simp] theorem State.modPartition_portMeters : (s.modPartition p f).portMeters = s.portMeters := rfl
@[simp] theorem State.modPartition_subPorts : (s.modPartition p f).subPorts = s.subPorts := rfl
@[simp] theorem State.modPartition_router : (s.modPartition p f).router = s.router := rfl
@[simp] theorem State.modPartition_contexts : (s.modPartition p f).contexts = s.contexts := rfl
@[simp] theorem State.modPartition_instances : (s.modPartition p f).instances = s.instances := rfl
@[simp] theorem State.modPartition_orphans : (s.modPartition p f).orphans = s.orphans := rfl
@[simp] theorem State.modPartition_ceEvents : (s.modPartition p f).ceEvents = s.ceEvents := rfl
@[simp] theorem State.modPartition_linkEvents : (s.modPartition p f).linkEvents = s.linkEvents := rfl
@[simp] theorem State.modPartition_regulatorTimes : (s.modPartition p f).regulatorTimes = s.regulatorTimes := rfl
@[simp] theorem State.modPartition_sagTimes : (s.modPartition p f).sagTimes = s.sagTimes := rfl
@[simp] theorem State.modPartition_sounding : (s.modPartition p f).sounding = s.sounding := rfl
@[simp] theorem State.modPartition_scores : (s.modPartition p f).scores = s.scores := rfl
@[simp] theorem State.modPartition_threshold : (s.modPartition p f).threshold = s.threshold := rfl
@[simp] theorem State.modPartition_thresholdSet : (s.modPartition p f).thresholdSet = s.thresholdSet := rfl
@[simp] theorem State.modPartition_soundingArmed : (s.modPartition p f).soundingArmed = s.soundingArmed := rfl
@[simp] theorem State.modPartition_notices : (s.modPartition p f).notices = s.notices := rfl
@[simp] theorem State.modPartition_regions : (s.modPartition p f).regions = s.regions := rfl
@[simp] theorem State.modPartition_images : (s.modPartition p f).images = s.images := rfl
@[simp] theorem State.modPartition_vendorDigest : (s.modPartition p f).vendorDigest = s.vendorDigest := rfl
@[simp] theorem State.modPartition_bootCount : (s.modPartition p f).bootCount = s.bootCount := rfl
@[simp] theorem State.modPartition_versionFloor : (s.modPartition p f).versionFloor = s.versionFloor := rfl
@[simp] theorem State.modPartition_imageA : (s.modPartition p f).imageA = s.imageA := rfl
@[simp] theorem State.modPartition_imageB : (s.modPartition p f).imageB = s.imageB := rfl
@[simp] theorem State.modPartition_staged : (s.modPartition p f).staged = s.staged := rfl
@[simp] theorem State.modPartition_fallbackBoot : (s.modPartition p f).fallbackBoot = s.fallbackBoot := rfl
@[simp] theorem State.modPartition_debugUnlocked : (s.modPartition p f).debugUnlocked = s.debugUnlocked := rfl
@[simp] theorem State.modPartition_chain : (s.modPartition p f).chain = s.chain := rfl
@[simp] theorem State.modPartition_randomCount : (s.modPartition p f).randomCount = s.randomCount := rfl
@[simp] theorem State.modPartition_freeCount : (s.modPartition p f).freeCount = s.freeCount := rfl
@[simp] theorem State.modPartition_store : (s.modPartition p f).store = s.store := rfl
@[simp] theorem State.modPartition_echo : (s.modPartition p f).echo = s.echo := rfl
@[simp] theorem State.modPartition_echoPulses : (s.modPartition p f).echoPulses = s.echoPulses := rfl
@[simp] theorem State.modPartition_dynAddr : (s.modPartition p f).dynAddr = s.dynAddr := rfl
@[simp] theorem State.modPartition_endpointId : (s.modPartition p f).endpointId = s.endpointId := rfl
@[simp] theorem State.modPartition_stopArmed : (s.modPartition p f).stopArmed = s.stopArmed := rfl
@[simp] theorem State.modPartition_i3cReply : (s.modPartition p f).i3cReply = s.i3cReply := rfl
@[simp] theorem State.modPartition_ibis : (s.modPartition p f).ibis = s.ibis := rfl
@[simp] theorem State.modPartition_tap : (s.modPartition p f).tap = s.tap := rfl
@[simp] theorem State.modPartition_tapBypass : (s.modPartition p f).tapBypass = s.tapBypass := rfl
@[simp] theorem State.modPartition_tapOut : (s.modPartition p f).tapOut = s.tapOut := rfl
end

/-! `modFunc` writes funcs only. -/

section
variable (n : Nat) (f : Func → Func)
@[simp] theorem State.modFunc_pending : (s.modFunc n f).pending = s.pending := rfl
@[simp] theorem State.modFunc_time : (s.modFunc n f).time = s.time := rfl
@[simp] theorem State.modFunc_power : (s.modFunc n f).power = s.power := rfl
@[simp] theorem State.modFunc_faultCause : (s.modFunc n f).faultCause = s.faultCause := rfl
@[simp] theorem State.modFunc_perst : (s.modFunc n f).perst = s.perst := rfl
@[simp] theorem State.modFunc_pwrGood : (s.modFunc n f).pwrGood = s.pwrGood := rfl
@[simp] theorem State.modFunc_datapathCut : (s.modFunc n f).datapathCut = s.datapathCut := rfl
@[simp] theorem State.modFunc_failedBlocks : (s.modFunc n f).failedBlocks = s.failedBlocks := rfl
@[simp] theorem State.modFunc_feed : (s.modFunc n f).feed = s.feed := rfl
@[simp] theorem State.modFunc_bootHold : (s.modFunc n f).bootHold = s.bootHold := rfl
@[simp] theorem State.modFunc_bootStart : (s.modFunc n f).bootStart = s.bootStart := rfl
@[simp] theorem State.modFunc_point : (s.modFunc n f).point = s.point := rfl
@[simp] theorem State.modFunc_ramp : (s.modFunc n f).ramp = s.ramp := rfl
@[simp] theorem State.modFunc_milliVolts : (s.modFunc n f).milliVolts = s.milliVolts := rfl
@[simp] theorem State.modFunc_voltageOff : (s.modFunc n f).voltageOff = s.voltageOff := rfl
@[simp] theorem State.modFunc_nextTrim : (s.modFunc n f).nextTrim = s.nextTrim := rfl
@[simp] theorem State.modFunc_junction : (s.modFunc n f).junction = s.junction := rfl
@[simp] theorem State.modFunc_inlet : (s.modFunc n f).inlet = s.inlet := rfl
@[simp] theorem State.modFunc_outlet : (s.modFunc n f).outlet = s.outlet := rfl
@[simp] theorem State.modFunc_inputVoltage : (s.modFunc n f).inputVoltage = s.inputVoltage := rfl
@[simp] theorem State.modFunc_inputCurrent : (s.modFunc n f).inputCurrent = s.inputCurrent := rfl
@[simp] theorem State.modFunc_inputPower : (s.modFunc n f).inputPower = s.inputPower := rfl
@[simp] theorem State.modFunc_powerRecord : (s.modFunc n f).powerRecord = s.powerRecord := rfl
@[simp] theorem State.modFunc_inEnvelope : (s.modFunc n f).inEnvelope = s.inEnvelope := rfl
@[simp] theorem State.modFunc_rampInWindow : (s.modFunc n f).rampInWindow = s.rampInWindow := rfl
@[simp] theorem State.modFunc_monitors : (s.modFunc n f).monitors = s.monitors := rfl
@[simp] theorem State.modFunc_tenantSums : (s.modFunc n f).tenantSums = s.tenantSums := rfl
@[simp] theorem State.modFunc_tenantMonitors : (s.modFunc n f).tenantMonitors = s.tenantMonitors := rfl
@[simp] theorem State.modFunc_windows : (s.modFunc n f).windows = s.windows := rfl
@[simp] theorem State.modFunc_tenantRamping : (s.modFunc n f).tenantRamping = s.tenantRamping := rfl
@[simp] theorem State.modFunc_tenantInEnvelope : (s.modFunc n f).tenantInEnvelope = s.tenantInEnvelope := rfl
@[simp] theorem State.modFunc_serial : (s.modFunc n f).serial = s.serial := rfl
@[simp] theorem State.modFunc_firmware : (s.modFunc n f).firmware = s.firmware := rfl
@[simp] theorem State.modFunc_abaopMinor : (s.modFunc n f).abaopMinor = s.abaopMinor := rfl
@[simp] theorem State.modFunc_imageSlot : (s.modFunc n f).imageSlot = s.imageSlot := rfl
@[simp] theorem State.modFunc_deviceId : (s.modFunc n f).deviceId = s.deviceId := rfl
@[simp] theorem State.modFunc_alertTotals : (s.modFunc n f).alertTotals = s.alertTotals := rfl
@[simp] theorem State.modFunc_lastServed : (s.modFunc n f).lastServed = s.lastServed := rfl
@[simp] theorem State.modFunc_opens : (s.modFunc n f).opens = s.opens := rfl
@[simp] theorem State.modFunc_msix : (s.modFunc n f).msix = s.msix := rfl
@[simp] theorem State.modFunc_hostWrites : (s.modFunc n f).hostWrites = s.hostWrites := rfl
@[simp] theorem State.modFunc_completion : (s.modFunc n f).completion = s.completion := rfl
@[simp] theorem State.modFunc_hostRate : (s.modFunc n f).hostRate = s.hostRate := rfl
@[simp] theorem State.modFunc_hostWidth : (s.modFunc n f).hostWidth = s.hostWidth := rfl
@[simp] theorem State.modFunc_partitions : (s.modFunc n f).partitions = s.partitions := rfl
@[simp] theorem State.modFunc_basins : (s.modFunc n f).basins = s.basins := rfl
@[simp] theorem State.modFunc_flights : (s.modFunc n f).flights = s.flights := rfl
@[simp] theorem State.modFunc_nextFlight : (s.modFunc n f).nextFlight = s.nextFlight := rfl
@[simp] theorem State.modFunc_mem : (s.modFunc n f).mem = s.mem := rfl
@[simp] theorem State.modFunc_poison : (s.modFunc n f).poison = s.poison := rfl
@[simp] theorem State.modFunc_hbm : (s.modFunc n f).hbm = s.hbm := rfl
@[simp] theorem State.modFunc_cxl : (s.modFunc n f).cxl = s.cxl := rfl
@[simp] theorem State.modFunc_counters : (s.modFunc n f).counters = s.counters := rfl
@[simp] theorem State.modFunc_portModes : (s.modFunc n f).portModes = s.portModes := rfl
@[simp] theorem State.modFunc_portFailed : (s.modFunc n f).portFailed = s.portFailed := rfl
@[simp] theorem State.modFunc_portMeters : (s.modFunc n f).portMeters = s.portMeters := rfl
@[simp] theorem State.modFunc_subPorts : (s.modFunc n f).subPorts = s.subPorts := rfl
@[simp] theorem State.modFunc_router : (s.modFunc n f).router = s.router := rfl
@[simp] theorem State.modFunc_contexts : (s.modFunc n f).contexts = s.contexts := rfl
@[simp] theorem State.modFunc_instances : (s.modFunc n f).instances = s.instances := rfl
@[simp] theorem State.modFunc_orphans : (s.modFunc n f).orphans = s.orphans := rfl
@[simp] theorem State.modFunc_ceEvents : (s.modFunc n f).ceEvents = s.ceEvents := rfl
@[simp] theorem State.modFunc_linkEvents : (s.modFunc n f).linkEvents = s.linkEvents := rfl
@[simp] theorem State.modFunc_regulatorTimes : (s.modFunc n f).regulatorTimes = s.regulatorTimes := rfl
@[simp] theorem State.modFunc_sagTimes : (s.modFunc n f).sagTimes = s.sagTimes := rfl
@[simp] theorem State.modFunc_sounding : (s.modFunc n f).sounding = s.sounding := rfl
@[simp] theorem State.modFunc_scores : (s.modFunc n f).scores = s.scores := rfl
@[simp] theorem State.modFunc_threshold : (s.modFunc n f).threshold = s.threshold := rfl
@[simp] theorem State.modFunc_thresholdSet : (s.modFunc n f).thresholdSet = s.thresholdSet := rfl
@[simp] theorem State.modFunc_soundingArmed : (s.modFunc n f).soundingArmed = s.soundingArmed := rfl
@[simp] theorem State.modFunc_notices : (s.modFunc n f).notices = s.notices := rfl
@[simp] theorem State.modFunc_regions : (s.modFunc n f).regions = s.regions := rfl
@[simp] theorem State.modFunc_images : (s.modFunc n f).images = s.images := rfl
@[simp] theorem State.modFunc_vendorDigest : (s.modFunc n f).vendorDigest = s.vendorDigest := rfl
@[simp] theorem State.modFunc_bootCount : (s.modFunc n f).bootCount = s.bootCount := rfl
@[simp] theorem State.modFunc_versionFloor : (s.modFunc n f).versionFloor = s.versionFloor := rfl
@[simp] theorem State.modFunc_imageA : (s.modFunc n f).imageA = s.imageA := rfl
@[simp] theorem State.modFunc_imageB : (s.modFunc n f).imageB = s.imageB := rfl
@[simp] theorem State.modFunc_staged : (s.modFunc n f).staged = s.staged := rfl
@[simp] theorem State.modFunc_fallbackBoot : (s.modFunc n f).fallbackBoot = s.fallbackBoot := rfl
@[simp] theorem State.modFunc_debugUnlocked : (s.modFunc n f).debugUnlocked = s.debugUnlocked := rfl
@[simp] theorem State.modFunc_chain : (s.modFunc n f).chain = s.chain := rfl
@[simp] theorem State.modFunc_randomCount : (s.modFunc n f).randomCount = s.randomCount := rfl
@[simp] theorem State.modFunc_freeCount : (s.modFunc n f).freeCount = s.freeCount := rfl
@[simp] theorem State.modFunc_store : (s.modFunc n f).store = s.store := rfl
@[simp] theorem State.modFunc_echo : (s.modFunc n f).echo = s.echo := rfl
@[simp] theorem State.modFunc_echoPulses : (s.modFunc n f).echoPulses = s.echoPulses := rfl
@[simp] theorem State.modFunc_dynAddr : (s.modFunc n f).dynAddr = s.dynAddr := rfl
@[simp] theorem State.modFunc_endpointId : (s.modFunc n f).endpointId = s.endpointId := rfl
@[simp] theorem State.modFunc_stopArmed : (s.modFunc n f).stopArmed = s.stopArmed := rfl
@[simp] theorem State.modFunc_i3cReply : (s.modFunc n f).i3cReply = s.i3cReply := rfl
@[simp] theorem State.modFunc_ibis : (s.modFunc n f).ibis = s.ibis := rfl
@[simp] theorem State.modFunc_tap : (s.modFunc n f).tap = s.tap := rfl
@[simp] theorem State.modFunc_tapBypass : (s.modFunc n f).tapBypass = s.tapBypass := rfl
@[simp] theorem State.modFunc_tapOut : (s.modFunc n f).tapOut = s.tapOut := rfl
end

/-! `modMailbox` writes funcs only. -/

section
variable (n m : Nat) (f : Mailbox → Mailbox)
@[simp] theorem State.modMailbox_pending : (s.modMailbox n m f).pending = s.pending := rfl
@[simp] theorem State.modMailbox_time : (s.modMailbox n m f).time = s.time := rfl
@[simp] theorem State.modMailbox_power : (s.modMailbox n m f).power = s.power := rfl
@[simp] theorem State.modMailbox_faultCause : (s.modMailbox n m f).faultCause = s.faultCause := rfl
@[simp] theorem State.modMailbox_perst : (s.modMailbox n m f).perst = s.perst := rfl
@[simp] theorem State.modMailbox_pwrGood : (s.modMailbox n m f).pwrGood = s.pwrGood := rfl
@[simp] theorem State.modMailbox_datapathCut : (s.modMailbox n m f).datapathCut = s.datapathCut := rfl
@[simp] theorem State.modMailbox_failedBlocks : (s.modMailbox n m f).failedBlocks = s.failedBlocks := rfl
@[simp] theorem State.modMailbox_feed : (s.modMailbox n m f).feed = s.feed := rfl
@[simp] theorem State.modMailbox_bootHold : (s.modMailbox n m f).bootHold = s.bootHold := rfl
@[simp] theorem State.modMailbox_bootStart : (s.modMailbox n m f).bootStart = s.bootStart := rfl
@[simp] theorem State.modMailbox_point : (s.modMailbox n m f).point = s.point := rfl
@[simp] theorem State.modMailbox_ramp : (s.modMailbox n m f).ramp = s.ramp := rfl
@[simp] theorem State.modMailbox_milliVolts : (s.modMailbox n m f).milliVolts = s.milliVolts := rfl
@[simp] theorem State.modMailbox_voltageOff : (s.modMailbox n m f).voltageOff = s.voltageOff := rfl
@[simp] theorem State.modMailbox_nextTrim : (s.modMailbox n m f).nextTrim = s.nextTrim := rfl
@[simp] theorem State.modMailbox_junction : (s.modMailbox n m f).junction = s.junction := rfl
@[simp] theorem State.modMailbox_inlet : (s.modMailbox n m f).inlet = s.inlet := rfl
@[simp] theorem State.modMailbox_outlet : (s.modMailbox n m f).outlet = s.outlet := rfl
@[simp] theorem State.modMailbox_inputVoltage : (s.modMailbox n m f).inputVoltage = s.inputVoltage := rfl
@[simp] theorem State.modMailbox_inputCurrent : (s.modMailbox n m f).inputCurrent = s.inputCurrent := rfl
@[simp] theorem State.modMailbox_inputPower : (s.modMailbox n m f).inputPower = s.inputPower := rfl
@[simp] theorem State.modMailbox_powerRecord : (s.modMailbox n m f).powerRecord = s.powerRecord := rfl
@[simp] theorem State.modMailbox_inEnvelope : (s.modMailbox n m f).inEnvelope = s.inEnvelope := rfl
@[simp] theorem State.modMailbox_rampInWindow : (s.modMailbox n m f).rampInWindow = s.rampInWindow := rfl
@[simp] theorem State.modMailbox_monitors : (s.modMailbox n m f).monitors = s.monitors := rfl
@[simp] theorem State.modMailbox_tenantSums : (s.modMailbox n m f).tenantSums = s.tenantSums := rfl
@[simp] theorem State.modMailbox_tenantMonitors : (s.modMailbox n m f).tenantMonitors = s.tenantMonitors := rfl
@[simp] theorem State.modMailbox_windows : (s.modMailbox n m f).windows = s.windows := rfl
@[simp] theorem State.modMailbox_tenantRamping : (s.modMailbox n m f).tenantRamping = s.tenantRamping := rfl
@[simp] theorem State.modMailbox_tenantInEnvelope : (s.modMailbox n m f).tenantInEnvelope = s.tenantInEnvelope := rfl
@[simp] theorem State.modMailbox_serial : (s.modMailbox n m f).serial = s.serial := rfl
@[simp] theorem State.modMailbox_firmware : (s.modMailbox n m f).firmware = s.firmware := rfl
@[simp] theorem State.modMailbox_abaopMinor : (s.modMailbox n m f).abaopMinor = s.abaopMinor := rfl
@[simp] theorem State.modMailbox_imageSlot : (s.modMailbox n m f).imageSlot = s.imageSlot := rfl
@[simp] theorem State.modMailbox_deviceId : (s.modMailbox n m f).deviceId = s.deviceId := rfl
@[simp] theorem State.modMailbox_alertTotals : (s.modMailbox n m f).alertTotals = s.alertTotals := rfl
@[simp] theorem State.modMailbox_lastServed : (s.modMailbox n m f).lastServed = s.lastServed := rfl
@[simp] theorem State.modMailbox_opens : (s.modMailbox n m f).opens = s.opens := rfl
@[simp] theorem State.modMailbox_msix : (s.modMailbox n m f).msix = s.msix := rfl
@[simp] theorem State.modMailbox_hostWrites : (s.modMailbox n m f).hostWrites = s.hostWrites := rfl
@[simp] theorem State.modMailbox_completion : (s.modMailbox n m f).completion = s.completion := rfl
@[simp] theorem State.modMailbox_hostRate : (s.modMailbox n m f).hostRate = s.hostRate := rfl
@[simp] theorem State.modMailbox_hostWidth : (s.modMailbox n m f).hostWidth = s.hostWidth := rfl
@[simp] theorem State.modMailbox_partitions : (s.modMailbox n m f).partitions = s.partitions := rfl
@[simp] theorem State.modMailbox_basins : (s.modMailbox n m f).basins = s.basins := rfl
@[simp] theorem State.modMailbox_flights : (s.modMailbox n m f).flights = s.flights := rfl
@[simp] theorem State.modMailbox_nextFlight : (s.modMailbox n m f).nextFlight = s.nextFlight := rfl
@[simp] theorem State.modMailbox_mem : (s.modMailbox n m f).mem = s.mem := rfl
@[simp] theorem State.modMailbox_poison : (s.modMailbox n m f).poison = s.poison := rfl
@[simp] theorem State.modMailbox_hbm : (s.modMailbox n m f).hbm = s.hbm := rfl
@[simp] theorem State.modMailbox_cxl : (s.modMailbox n m f).cxl = s.cxl := rfl
@[simp] theorem State.modMailbox_counters : (s.modMailbox n m f).counters = s.counters := rfl
@[simp] theorem State.modMailbox_portModes : (s.modMailbox n m f).portModes = s.portModes := rfl
@[simp] theorem State.modMailbox_portFailed : (s.modMailbox n m f).portFailed = s.portFailed := rfl
@[simp] theorem State.modMailbox_portMeters : (s.modMailbox n m f).portMeters = s.portMeters := rfl
@[simp] theorem State.modMailbox_subPorts : (s.modMailbox n m f).subPorts = s.subPorts := rfl
@[simp] theorem State.modMailbox_router : (s.modMailbox n m f).router = s.router := rfl
@[simp] theorem State.modMailbox_contexts : (s.modMailbox n m f).contexts = s.contexts := rfl
@[simp] theorem State.modMailbox_instances : (s.modMailbox n m f).instances = s.instances := rfl
@[simp] theorem State.modMailbox_orphans : (s.modMailbox n m f).orphans = s.orphans := rfl
@[simp] theorem State.modMailbox_ceEvents : (s.modMailbox n m f).ceEvents = s.ceEvents := rfl
@[simp] theorem State.modMailbox_linkEvents : (s.modMailbox n m f).linkEvents = s.linkEvents := rfl
@[simp] theorem State.modMailbox_regulatorTimes : (s.modMailbox n m f).regulatorTimes = s.regulatorTimes := rfl
@[simp] theorem State.modMailbox_sagTimes : (s.modMailbox n m f).sagTimes = s.sagTimes := rfl
@[simp] theorem State.modMailbox_sounding : (s.modMailbox n m f).sounding = s.sounding := rfl
@[simp] theorem State.modMailbox_scores : (s.modMailbox n m f).scores = s.scores := rfl
@[simp] theorem State.modMailbox_threshold : (s.modMailbox n m f).threshold = s.threshold := rfl
@[simp] theorem State.modMailbox_thresholdSet : (s.modMailbox n m f).thresholdSet = s.thresholdSet := rfl
@[simp] theorem State.modMailbox_soundingArmed : (s.modMailbox n m f).soundingArmed = s.soundingArmed := rfl
@[simp] theorem State.modMailbox_notices : (s.modMailbox n m f).notices = s.notices := rfl
@[simp] theorem State.modMailbox_regions : (s.modMailbox n m f).regions = s.regions := rfl
@[simp] theorem State.modMailbox_images : (s.modMailbox n m f).images = s.images := rfl
@[simp] theorem State.modMailbox_vendorDigest : (s.modMailbox n m f).vendorDigest = s.vendorDigest := rfl
@[simp] theorem State.modMailbox_bootCount : (s.modMailbox n m f).bootCount = s.bootCount := rfl
@[simp] theorem State.modMailbox_versionFloor : (s.modMailbox n m f).versionFloor = s.versionFloor := rfl
@[simp] theorem State.modMailbox_imageA : (s.modMailbox n m f).imageA = s.imageA := rfl
@[simp] theorem State.modMailbox_imageB : (s.modMailbox n m f).imageB = s.imageB := rfl
@[simp] theorem State.modMailbox_staged : (s.modMailbox n m f).staged = s.staged := rfl
@[simp] theorem State.modMailbox_fallbackBoot : (s.modMailbox n m f).fallbackBoot = s.fallbackBoot := rfl
@[simp] theorem State.modMailbox_debugUnlocked : (s.modMailbox n m f).debugUnlocked = s.debugUnlocked := rfl
@[simp] theorem State.modMailbox_chain : (s.modMailbox n m f).chain = s.chain := rfl
@[simp] theorem State.modMailbox_randomCount : (s.modMailbox n m f).randomCount = s.randomCount := rfl
@[simp] theorem State.modMailbox_freeCount : (s.modMailbox n m f).freeCount = s.freeCount := rfl
@[simp] theorem State.modMailbox_store : (s.modMailbox n m f).store = s.store := rfl
@[simp] theorem State.modMailbox_echo : (s.modMailbox n m f).echo = s.echo := rfl
@[simp] theorem State.modMailbox_echoPulses : (s.modMailbox n m f).echoPulses = s.echoPulses := rfl
@[simp] theorem State.modMailbox_dynAddr : (s.modMailbox n m f).dynAddr = s.dynAddr := rfl
@[simp] theorem State.modMailbox_endpointId : (s.modMailbox n m f).endpointId = s.endpointId := rfl
@[simp] theorem State.modMailbox_stopArmed : (s.modMailbox n m f).stopArmed = s.stopArmed := rfl
@[simp] theorem State.modMailbox_i3cReply : (s.modMailbox n m f).i3cReply = s.i3cReply := rfl
@[simp] theorem State.modMailbox_ibis : (s.modMailbox n m f).ibis = s.ibis := rfl
@[simp] theorem State.modMailbox_tap : (s.modMailbox n m f).tap = s.tap := rfl
@[simp] theorem State.modMailbox_tapBypass : (s.modMailbox n m f).tapBypass = s.tapBypass := rfl
@[simp] theorem State.modMailbox_tapOut : (s.modMailbox n m f).tapOut = s.tapOut := rfl
end

/-! `modPort` writes cxl only. -/

section
variable (p : Nat) (f : CxlPort → CxlPort)
@[simp] theorem State.modPort_pending : (s.modPort p f).pending = s.pending := rfl
@[simp] theorem State.modPort_time : (s.modPort p f).time = s.time := rfl
@[simp] theorem State.modPort_power : (s.modPort p f).power = s.power := rfl
@[simp] theorem State.modPort_faultCause : (s.modPort p f).faultCause = s.faultCause := rfl
@[simp] theorem State.modPort_perst : (s.modPort p f).perst = s.perst := rfl
@[simp] theorem State.modPort_pwrGood : (s.modPort p f).pwrGood = s.pwrGood := rfl
@[simp] theorem State.modPort_datapathCut : (s.modPort p f).datapathCut = s.datapathCut := rfl
@[simp] theorem State.modPort_failedBlocks : (s.modPort p f).failedBlocks = s.failedBlocks := rfl
@[simp] theorem State.modPort_feed : (s.modPort p f).feed = s.feed := rfl
@[simp] theorem State.modPort_bootHold : (s.modPort p f).bootHold = s.bootHold := rfl
@[simp] theorem State.modPort_bootStart : (s.modPort p f).bootStart = s.bootStart := rfl
@[simp] theorem State.modPort_point : (s.modPort p f).point = s.point := rfl
@[simp] theorem State.modPort_ramp : (s.modPort p f).ramp = s.ramp := rfl
@[simp] theorem State.modPort_milliVolts : (s.modPort p f).milliVolts = s.milliVolts := rfl
@[simp] theorem State.modPort_voltageOff : (s.modPort p f).voltageOff = s.voltageOff := rfl
@[simp] theorem State.modPort_nextTrim : (s.modPort p f).nextTrim = s.nextTrim := rfl
@[simp] theorem State.modPort_junction : (s.modPort p f).junction = s.junction := rfl
@[simp] theorem State.modPort_inlet : (s.modPort p f).inlet = s.inlet := rfl
@[simp] theorem State.modPort_outlet : (s.modPort p f).outlet = s.outlet := rfl
@[simp] theorem State.modPort_inputVoltage : (s.modPort p f).inputVoltage = s.inputVoltage := rfl
@[simp] theorem State.modPort_inputCurrent : (s.modPort p f).inputCurrent = s.inputCurrent := rfl
@[simp] theorem State.modPort_inputPower : (s.modPort p f).inputPower = s.inputPower := rfl
@[simp] theorem State.modPort_powerRecord : (s.modPort p f).powerRecord = s.powerRecord := rfl
@[simp] theorem State.modPort_inEnvelope : (s.modPort p f).inEnvelope = s.inEnvelope := rfl
@[simp] theorem State.modPort_rampInWindow : (s.modPort p f).rampInWindow = s.rampInWindow := rfl
@[simp] theorem State.modPort_monitors : (s.modPort p f).monitors = s.monitors := rfl
@[simp] theorem State.modPort_tenantSums : (s.modPort p f).tenantSums = s.tenantSums := rfl
@[simp] theorem State.modPort_tenantMonitors : (s.modPort p f).tenantMonitors = s.tenantMonitors := rfl
@[simp] theorem State.modPort_windows : (s.modPort p f).windows = s.windows := rfl
@[simp] theorem State.modPort_tenantRamping : (s.modPort p f).tenantRamping = s.tenantRamping := rfl
@[simp] theorem State.modPort_tenantInEnvelope : (s.modPort p f).tenantInEnvelope = s.tenantInEnvelope := rfl
@[simp] theorem State.modPort_serial : (s.modPort p f).serial = s.serial := rfl
@[simp] theorem State.modPort_firmware : (s.modPort p f).firmware = s.firmware := rfl
@[simp] theorem State.modPort_abaopMinor : (s.modPort p f).abaopMinor = s.abaopMinor := rfl
@[simp] theorem State.modPort_imageSlot : (s.modPort p f).imageSlot = s.imageSlot := rfl
@[simp] theorem State.modPort_deviceId : (s.modPort p f).deviceId = s.deviceId := rfl
@[simp] theorem State.modPort_funcs : (s.modPort p f).funcs = s.funcs := rfl
@[simp] theorem State.modPort_alertTotals : (s.modPort p f).alertTotals = s.alertTotals := rfl
@[simp] theorem State.modPort_lastServed : (s.modPort p f).lastServed = s.lastServed := rfl
@[simp] theorem State.modPort_opens : (s.modPort p f).opens = s.opens := rfl
@[simp] theorem State.modPort_msix : (s.modPort p f).msix = s.msix := rfl
@[simp] theorem State.modPort_hostWrites : (s.modPort p f).hostWrites = s.hostWrites := rfl
@[simp] theorem State.modPort_completion : (s.modPort p f).completion = s.completion := rfl
@[simp] theorem State.modPort_hostRate : (s.modPort p f).hostRate = s.hostRate := rfl
@[simp] theorem State.modPort_hostWidth : (s.modPort p f).hostWidth = s.hostWidth := rfl
@[simp] theorem State.modPort_partitions : (s.modPort p f).partitions = s.partitions := rfl
@[simp] theorem State.modPort_basins : (s.modPort p f).basins = s.basins := rfl
@[simp] theorem State.modPort_flights : (s.modPort p f).flights = s.flights := rfl
@[simp] theorem State.modPort_nextFlight : (s.modPort p f).nextFlight = s.nextFlight := rfl
@[simp] theorem State.modPort_mem : (s.modPort p f).mem = s.mem := rfl
@[simp] theorem State.modPort_poison : (s.modPort p f).poison = s.poison := rfl
@[simp] theorem State.modPort_hbm : (s.modPort p f).hbm = s.hbm := rfl
@[simp] theorem State.modPort_counters : (s.modPort p f).counters = s.counters := rfl
@[simp] theorem State.modPort_portModes : (s.modPort p f).portModes = s.portModes := rfl
@[simp] theorem State.modPort_portFailed : (s.modPort p f).portFailed = s.portFailed := rfl
@[simp] theorem State.modPort_portMeters : (s.modPort p f).portMeters = s.portMeters := rfl
@[simp] theorem State.modPort_subPorts : (s.modPort p f).subPorts = s.subPorts := rfl
@[simp] theorem State.modPort_router : (s.modPort p f).router = s.router := rfl
@[simp] theorem State.modPort_contexts : (s.modPort p f).contexts = s.contexts := rfl
@[simp] theorem State.modPort_instances : (s.modPort p f).instances = s.instances := rfl
@[simp] theorem State.modPort_orphans : (s.modPort p f).orphans = s.orphans := rfl
@[simp] theorem State.modPort_ceEvents : (s.modPort p f).ceEvents = s.ceEvents := rfl
@[simp] theorem State.modPort_linkEvents : (s.modPort p f).linkEvents = s.linkEvents := rfl
@[simp] theorem State.modPort_regulatorTimes : (s.modPort p f).regulatorTimes = s.regulatorTimes := rfl
@[simp] theorem State.modPort_sagTimes : (s.modPort p f).sagTimes = s.sagTimes := rfl
@[simp] theorem State.modPort_sounding : (s.modPort p f).sounding = s.sounding := rfl
@[simp] theorem State.modPort_scores : (s.modPort p f).scores = s.scores := rfl
@[simp] theorem State.modPort_threshold : (s.modPort p f).threshold = s.threshold := rfl
@[simp] theorem State.modPort_thresholdSet : (s.modPort p f).thresholdSet = s.thresholdSet := rfl
@[simp] theorem State.modPort_soundingArmed : (s.modPort p f).soundingArmed = s.soundingArmed := rfl
@[simp] theorem State.modPort_notices : (s.modPort p f).notices = s.notices := rfl
@[simp] theorem State.modPort_regions : (s.modPort p f).regions = s.regions := rfl
@[simp] theorem State.modPort_images : (s.modPort p f).images = s.images := rfl
@[simp] theorem State.modPort_vendorDigest : (s.modPort p f).vendorDigest = s.vendorDigest := rfl
@[simp] theorem State.modPort_bootCount : (s.modPort p f).bootCount = s.bootCount := rfl
@[simp] theorem State.modPort_versionFloor : (s.modPort p f).versionFloor = s.versionFloor := rfl
@[simp] theorem State.modPort_imageA : (s.modPort p f).imageA = s.imageA := rfl
@[simp] theorem State.modPort_imageB : (s.modPort p f).imageB = s.imageB := rfl
@[simp] theorem State.modPort_staged : (s.modPort p f).staged = s.staged := rfl
@[simp] theorem State.modPort_fallbackBoot : (s.modPort p f).fallbackBoot = s.fallbackBoot := rfl
@[simp] theorem State.modPort_debugUnlocked : (s.modPort p f).debugUnlocked = s.debugUnlocked := rfl
@[simp] theorem State.modPort_chain : (s.modPort p f).chain = s.chain := rfl
@[simp] theorem State.modPort_randomCount : (s.modPort p f).randomCount = s.randomCount := rfl
@[simp] theorem State.modPort_freeCount : (s.modPort p f).freeCount = s.freeCount := rfl
@[simp] theorem State.modPort_store : (s.modPort p f).store = s.store := rfl
@[simp] theorem State.modPort_echo : (s.modPort p f).echo = s.echo := rfl
@[simp] theorem State.modPort_echoPulses : (s.modPort p f).echoPulses = s.echoPulses := rfl
@[simp] theorem State.modPort_dynAddr : (s.modPort p f).dynAddr = s.dynAddr := rfl
@[simp] theorem State.modPort_endpointId : (s.modPort p f).endpointId = s.endpointId := rfl
@[simp] theorem State.modPort_stopArmed : (s.modPort p f).stopArmed = s.stopArmed := rfl
@[simp] theorem State.modPort_i3cReply : (s.modPort p f).i3cReply = s.i3cReply := rfl
@[simp] theorem State.modPort_ibis : (s.modPort p f).ibis = s.ibis := rfl
@[simp] theorem State.modPort_tap : (s.modPort p f).tap = s.tap := rfl
@[simp] theorem State.modPort_tapBypass : (s.modPort p f).tapBypass = s.tapBypass := rfl
@[simp] theorem State.modPort_tapOut : (s.modPort p f).tapOut = s.tapOut := rfl
end

/-! `modSub` writes subPorts only. -/

section
variable (i : Nat) (f : SubPort → SubPort)
@[simp] theorem State.modSub_pending : (s.modSub i f).pending = s.pending := rfl
@[simp] theorem State.modSub_time : (s.modSub i f).time = s.time := rfl
@[simp] theorem State.modSub_power : (s.modSub i f).power = s.power := rfl
@[simp] theorem State.modSub_faultCause : (s.modSub i f).faultCause = s.faultCause := rfl
@[simp] theorem State.modSub_perst : (s.modSub i f).perst = s.perst := rfl
@[simp] theorem State.modSub_pwrGood : (s.modSub i f).pwrGood = s.pwrGood := rfl
@[simp] theorem State.modSub_datapathCut : (s.modSub i f).datapathCut = s.datapathCut := rfl
@[simp] theorem State.modSub_failedBlocks : (s.modSub i f).failedBlocks = s.failedBlocks := rfl
@[simp] theorem State.modSub_feed : (s.modSub i f).feed = s.feed := rfl
@[simp] theorem State.modSub_bootHold : (s.modSub i f).bootHold = s.bootHold := rfl
@[simp] theorem State.modSub_bootStart : (s.modSub i f).bootStart = s.bootStart := rfl
@[simp] theorem State.modSub_point : (s.modSub i f).point = s.point := rfl
@[simp] theorem State.modSub_ramp : (s.modSub i f).ramp = s.ramp := rfl
@[simp] theorem State.modSub_milliVolts : (s.modSub i f).milliVolts = s.milliVolts := rfl
@[simp] theorem State.modSub_voltageOff : (s.modSub i f).voltageOff = s.voltageOff := rfl
@[simp] theorem State.modSub_nextTrim : (s.modSub i f).nextTrim = s.nextTrim := rfl
@[simp] theorem State.modSub_junction : (s.modSub i f).junction = s.junction := rfl
@[simp] theorem State.modSub_inlet : (s.modSub i f).inlet = s.inlet := rfl
@[simp] theorem State.modSub_outlet : (s.modSub i f).outlet = s.outlet := rfl
@[simp] theorem State.modSub_inputVoltage : (s.modSub i f).inputVoltage = s.inputVoltage := rfl
@[simp] theorem State.modSub_inputCurrent : (s.modSub i f).inputCurrent = s.inputCurrent := rfl
@[simp] theorem State.modSub_inputPower : (s.modSub i f).inputPower = s.inputPower := rfl
@[simp] theorem State.modSub_powerRecord : (s.modSub i f).powerRecord = s.powerRecord := rfl
@[simp] theorem State.modSub_inEnvelope : (s.modSub i f).inEnvelope = s.inEnvelope := rfl
@[simp] theorem State.modSub_rampInWindow : (s.modSub i f).rampInWindow = s.rampInWindow := rfl
@[simp] theorem State.modSub_monitors : (s.modSub i f).monitors = s.monitors := rfl
@[simp] theorem State.modSub_tenantSums : (s.modSub i f).tenantSums = s.tenantSums := rfl
@[simp] theorem State.modSub_tenantMonitors : (s.modSub i f).tenantMonitors = s.tenantMonitors := rfl
@[simp] theorem State.modSub_windows : (s.modSub i f).windows = s.windows := rfl
@[simp] theorem State.modSub_tenantRamping : (s.modSub i f).tenantRamping = s.tenantRamping := rfl
@[simp] theorem State.modSub_tenantInEnvelope : (s.modSub i f).tenantInEnvelope = s.tenantInEnvelope := rfl
@[simp] theorem State.modSub_serial : (s.modSub i f).serial = s.serial := rfl
@[simp] theorem State.modSub_firmware : (s.modSub i f).firmware = s.firmware := rfl
@[simp] theorem State.modSub_abaopMinor : (s.modSub i f).abaopMinor = s.abaopMinor := rfl
@[simp] theorem State.modSub_imageSlot : (s.modSub i f).imageSlot = s.imageSlot := rfl
@[simp] theorem State.modSub_deviceId : (s.modSub i f).deviceId = s.deviceId := rfl
@[simp] theorem State.modSub_funcs : (s.modSub i f).funcs = s.funcs := rfl
@[simp] theorem State.modSub_alertTotals : (s.modSub i f).alertTotals = s.alertTotals := rfl
@[simp] theorem State.modSub_lastServed : (s.modSub i f).lastServed = s.lastServed := rfl
@[simp] theorem State.modSub_opens : (s.modSub i f).opens = s.opens := rfl
@[simp] theorem State.modSub_msix : (s.modSub i f).msix = s.msix := rfl
@[simp] theorem State.modSub_hostWrites : (s.modSub i f).hostWrites = s.hostWrites := rfl
@[simp] theorem State.modSub_completion : (s.modSub i f).completion = s.completion := rfl
@[simp] theorem State.modSub_hostRate : (s.modSub i f).hostRate = s.hostRate := rfl
@[simp] theorem State.modSub_hostWidth : (s.modSub i f).hostWidth = s.hostWidth := rfl
@[simp] theorem State.modSub_partitions : (s.modSub i f).partitions = s.partitions := rfl
@[simp] theorem State.modSub_basins : (s.modSub i f).basins = s.basins := rfl
@[simp] theorem State.modSub_flights : (s.modSub i f).flights = s.flights := rfl
@[simp] theorem State.modSub_nextFlight : (s.modSub i f).nextFlight = s.nextFlight := rfl
@[simp] theorem State.modSub_mem : (s.modSub i f).mem = s.mem := rfl
@[simp] theorem State.modSub_poison : (s.modSub i f).poison = s.poison := rfl
@[simp] theorem State.modSub_hbm : (s.modSub i f).hbm = s.hbm := rfl
@[simp] theorem State.modSub_cxl : (s.modSub i f).cxl = s.cxl := rfl
@[simp] theorem State.modSub_counters : (s.modSub i f).counters = s.counters := rfl
@[simp] theorem State.modSub_portModes : (s.modSub i f).portModes = s.portModes := rfl
@[simp] theorem State.modSub_portFailed : (s.modSub i f).portFailed = s.portFailed := rfl
@[simp] theorem State.modSub_portMeters : (s.modSub i f).portMeters = s.portMeters := rfl
@[simp] theorem State.modSub_router : (s.modSub i f).router = s.router := rfl
@[simp] theorem State.modSub_contexts : (s.modSub i f).contexts = s.contexts := rfl
@[simp] theorem State.modSub_instances : (s.modSub i f).instances = s.instances := rfl
@[simp] theorem State.modSub_orphans : (s.modSub i f).orphans = s.orphans := rfl
@[simp] theorem State.modSub_ceEvents : (s.modSub i f).ceEvents = s.ceEvents := rfl
@[simp] theorem State.modSub_linkEvents : (s.modSub i f).linkEvents = s.linkEvents := rfl
@[simp] theorem State.modSub_regulatorTimes : (s.modSub i f).regulatorTimes = s.regulatorTimes := rfl
@[simp] theorem State.modSub_sagTimes : (s.modSub i f).sagTimes = s.sagTimes := rfl
@[simp] theorem State.modSub_sounding : (s.modSub i f).sounding = s.sounding := rfl
@[simp] theorem State.modSub_scores : (s.modSub i f).scores = s.scores := rfl
@[simp] theorem State.modSub_threshold : (s.modSub i f).threshold = s.threshold := rfl
@[simp] theorem State.modSub_thresholdSet : (s.modSub i f).thresholdSet = s.thresholdSet := rfl
@[simp] theorem State.modSub_soundingArmed : (s.modSub i f).soundingArmed = s.soundingArmed := rfl
@[simp] theorem State.modSub_notices : (s.modSub i f).notices = s.notices := rfl
@[simp] theorem State.modSub_regions : (s.modSub i f).regions = s.regions := rfl
@[simp] theorem State.modSub_images : (s.modSub i f).images = s.images := rfl
@[simp] theorem State.modSub_vendorDigest : (s.modSub i f).vendorDigest = s.vendorDigest := rfl
@[simp] theorem State.modSub_bootCount : (s.modSub i f).bootCount = s.bootCount := rfl
@[simp] theorem State.modSub_versionFloor : (s.modSub i f).versionFloor = s.versionFloor := rfl
@[simp] theorem State.modSub_imageA : (s.modSub i f).imageA = s.imageA := rfl
@[simp] theorem State.modSub_imageB : (s.modSub i f).imageB = s.imageB := rfl
@[simp] theorem State.modSub_staged : (s.modSub i f).staged = s.staged := rfl
@[simp] theorem State.modSub_fallbackBoot : (s.modSub i f).fallbackBoot = s.fallbackBoot := rfl
@[simp] theorem State.modSub_debugUnlocked : (s.modSub i f).debugUnlocked = s.debugUnlocked := rfl
@[simp] theorem State.modSub_chain : (s.modSub i f).chain = s.chain := rfl
@[simp] theorem State.modSub_randomCount : (s.modSub i f).randomCount = s.randomCount := rfl
@[simp] theorem State.modSub_freeCount : (s.modSub i f).freeCount = s.freeCount := rfl
@[simp] theorem State.modSub_store : (s.modSub i f).store = s.store := rfl
@[simp] theorem State.modSub_echo : (s.modSub i f).echo = s.echo := rfl
@[simp] theorem State.modSub_echoPulses : (s.modSub i f).echoPulses = s.echoPulses := rfl
@[simp] theorem State.modSub_dynAddr : (s.modSub i f).dynAddr = s.dynAddr := rfl
@[simp] theorem State.modSub_endpointId : (s.modSub i f).endpointId = s.endpointId := rfl
@[simp] theorem State.modSub_stopArmed : (s.modSub i f).stopArmed = s.stopArmed := rfl
@[simp] theorem State.modSub_i3cReply : (s.modSub i f).i3cReply = s.i3cReply := rfl
@[simp] theorem State.modSub_ibis : (s.modSub i f).ibis = s.ibis := rfl
@[simp] theorem State.modSub_tap : (s.modSub i f).tap = s.tap := rfl
@[simp] theorem State.modSub_tapBypass : (s.modSub i f).tapBypass = s.tapBypass := rfl
@[simp] theorem State.modSub_tapOut : (s.modSub i f).tapOut = s.tapOut := rfl
end

/-! `modStack` writes hbm only. -/

section
variable (i : Nat) (f : Stack → Stack)
@[simp] theorem State.modStack_pending : (s.modStack i f).pending = s.pending := rfl
@[simp] theorem State.modStack_time : (s.modStack i f).time = s.time := rfl
@[simp] theorem State.modStack_power : (s.modStack i f).power = s.power := rfl
@[simp] theorem State.modStack_faultCause : (s.modStack i f).faultCause = s.faultCause := rfl
@[simp] theorem State.modStack_perst : (s.modStack i f).perst = s.perst := rfl
@[simp] theorem State.modStack_pwrGood : (s.modStack i f).pwrGood = s.pwrGood := rfl
@[simp] theorem State.modStack_datapathCut : (s.modStack i f).datapathCut = s.datapathCut := rfl
@[simp] theorem State.modStack_failedBlocks : (s.modStack i f).failedBlocks = s.failedBlocks := rfl
@[simp] theorem State.modStack_feed : (s.modStack i f).feed = s.feed := rfl
@[simp] theorem State.modStack_bootHold : (s.modStack i f).bootHold = s.bootHold := rfl
@[simp] theorem State.modStack_bootStart : (s.modStack i f).bootStart = s.bootStart := rfl
@[simp] theorem State.modStack_point : (s.modStack i f).point = s.point := rfl
@[simp] theorem State.modStack_ramp : (s.modStack i f).ramp = s.ramp := rfl
@[simp] theorem State.modStack_milliVolts : (s.modStack i f).milliVolts = s.milliVolts := rfl
@[simp] theorem State.modStack_voltageOff : (s.modStack i f).voltageOff = s.voltageOff := rfl
@[simp] theorem State.modStack_nextTrim : (s.modStack i f).nextTrim = s.nextTrim := rfl
@[simp] theorem State.modStack_junction : (s.modStack i f).junction = s.junction := rfl
@[simp] theorem State.modStack_inlet : (s.modStack i f).inlet = s.inlet := rfl
@[simp] theorem State.modStack_outlet : (s.modStack i f).outlet = s.outlet := rfl
@[simp] theorem State.modStack_inputVoltage : (s.modStack i f).inputVoltage = s.inputVoltage := rfl
@[simp] theorem State.modStack_inputCurrent : (s.modStack i f).inputCurrent = s.inputCurrent := rfl
@[simp] theorem State.modStack_inputPower : (s.modStack i f).inputPower = s.inputPower := rfl
@[simp] theorem State.modStack_powerRecord : (s.modStack i f).powerRecord = s.powerRecord := rfl
@[simp] theorem State.modStack_inEnvelope : (s.modStack i f).inEnvelope = s.inEnvelope := rfl
@[simp] theorem State.modStack_rampInWindow : (s.modStack i f).rampInWindow = s.rampInWindow := rfl
@[simp] theorem State.modStack_monitors : (s.modStack i f).monitors = s.monitors := rfl
@[simp] theorem State.modStack_tenantSums : (s.modStack i f).tenantSums = s.tenantSums := rfl
@[simp] theorem State.modStack_tenantMonitors : (s.modStack i f).tenantMonitors = s.tenantMonitors := rfl
@[simp] theorem State.modStack_windows : (s.modStack i f).windows = s.windows := rfl
@[simp] theorem State.modStack_tenantRamping : (s.modStack i f).tenantRamping = s.tenantRamping := rfl
@[simp] theorem State.modStack_tenantInEnvelope : (s.modStack i f).tenantInEnvelope = s.tenantInEnvelope := rfl
@[simp] theorem State.modStack_serial : (s.modStack i f).serial = s.serial := rfl
@[simp] theorem State.modStack_firmware : (s.modStack i f).firmware = s.firmware := rfl
@[simp] theorem State.modStack_abaopMinor : (s.modStack i f).abaopMinor = s.abaopMinor := rfl
@[simp] theorem State.modStack_imageSlot : (s.modStack i f).imageSlot = s.imageSlot := rfl
@[simp] theorem State.modStack_deviceId : (s.modStack i f).deviceId = s.deviceId := rfl
@[simp] theorem State.modStack_funcs : (s.modStack i f).funcs = s.funcs := rfl
@[simp] theorem State.modStack_alertTotals : (s.modStack i f).alertTotals = s.alertTotals := rfl
@[simp] theorem State.modStack_lastServed : (s.modStack i f).lastServed = s.lastServed := rfl
@[simp] theorem State.modStack_opens : (s.modStack i f).opens = s.opens := rfl
@[simp] theorem State.modStack_msix : (s.modStack i f).msix = s.msix := rfl
@[simp] theorem State.modStack_hostWrites : (s.modStack i f).hostWrites = s.hostWrites := rfl
@[simp] theorem State.modStack_completion : (s.modStack i f).completion = s.completion := rfl
@[simp] theorem State.modStack_hostRate : (s.modStack i f).hostRate = s.hostRate := rfl
@[simp] theorem State.modStack_hostWidth : (s.modStack i f).hostWidth = s.hostWidth := rfl
@[simp] theorem State.modStack_partitions : (s.modStack i f).partitions = s.partitions := rfl
@[simp] theorem State.modStack_basins : (s.modStack i f).basins = s.basins := rfl
@[simp] theorem State.modStack_flights : (s.modStack i f).flights = s.flights := rfl
@[simp] theorem State.modStack_nextFlight : (s.modStack i f).nextFlight = s.nextFlight := rfl
@[simp] theorem State.modStack_mem : (s.modStack i f).mem = s.mem := rfl
@[simp] theorem State.modStack_poison : (s.modStack i f).poison = s.poison := rfl
@[simp] theorem State.modStack_cxl : (s.modStack i f).cxl = s.cxl := rfl
@[simp] theorem State.modStack_counters : (s.modStack i f).counters = s.counters := rfl
@[simp] theorem State.modStack_portModes : (s.modStack i f).portModes = s.portModes := rfl
@[simp] theorem State.modStack_portFailed : (s.modStack i f).portFailed = s.portFailed := rfl
@[simp] theorem State.modStack_portMeters : (s.modStack i f).portMeters = s.portMeters := rfl
@[simp] theorem State.modStack_subPorts : (s.modStack i f).subPorts = s.subPorts := rfl
@[simp] theorem State.modStack_router : (s.modStack i f).router = s.router := rfl
@[simp] theorem State.modStack_contexts : (s.modStack i f).contexts = s.contexts := rfl
@[simp] theorem State.modStack_instances : (s.modStack i f).instances = s.instances := rfl
@[simp] theorem State.modStack_orphans : (s.modStack i f).orphans = s.orphans := rfl
@[simp] theorem State.modStack_ceEvents : (s.modStack i f).ceEvents = s.ceEvents := rfl
@[simp] theorem State.modStack_linkEvents : (s.modStack i f).linkEvents = s.linkEvents := rfl
@[simp] theorem State.modStack_regulatorTimes : (s.modStack i f).regulatorTimes = s.regulatorTimes := rfl
@[simp] theorem State.modStack_sagTimes : (s.modStack i f).sagTimes = s.sagTimes := rfl
@[simp] theorem State.modStack_sounding : (s.modStack i f).sounding = s.sounding := rfl
@[simp] theorem State.modStack_scores : (s.modStack i f).scores = s.scores := rfl
@[simp] theorem State.modStack_threshold : (s.modStack i f).threshold = s.threshold := rfl
@[simp] theorem State.modStack_thresholdSet : (s.modStack i f).thresholdSet = s.thresholdSet := rfl
@[simp] theorem State.modStack_soundingArmed : (s.modStack i f).soundingArmed = s.soundingArmed := rfl
@[simp] theorem State.modStack_notices : (s.modStack i f).notices = s.notices := rfl
@[simp] theorem State.modStack_regions : (s.modStack i f).regions = s.regions := rfl
@[simp] theorem State.modStack_images : (s.modStack i f).images = s.images := rfl
@[simp] theorem State.modStack_vendorDigest : (s.modStack i f).vendorDigest = s.vendorDigest := rfl
@[simp] theorem State.modStack_bootCount : (s.modStack i f).bootCount = s.bootCount := rfl
@[simp] theorem State.modStack_versionFloor : (s.modStack i f).versionFloor = s.versionFloor := rfl
@[simp] theorem State.modStack_imageA : (s.modStack i f).imageA = s.imageA := rfl
@[simp] theorem State.modStack_imageB : (s.modStack i f).imageB = s.imageB := rfl
@[simp] theorem State.modStack_staged : (s.modStack i f).staged = s.staged := rfl
@[simp] theorem State.modStack_fallbackBoot : (s.modStack i f).fallbackBoot = s.fallbackBoot := rfl
@[simp] theorem State.modStack_debugUnlocked : (s.modStack i f).debugUnlocked = s.debugUnlocked := rfl
@[simp] theorem State.modStack_chain : (s.modStack i f).chain = s.chain := rfl
@[simp] theorem State.modStack_randomCount : (s.modStack i f).randomCount = s.randomCount := rfl
@[simp] theorem State.modStack_freeCount : (s.modStack i f).freeCount = s.freeCount := rfl
@[simp] theorem State.modStack_store : (s.modStack i f).store = s.store := rfl
@[simp] theorem State.modStack_echo : (s.modStack i f).echo = s.echo := rfl
@[simp] theorem State.modStack_echoPulses : (s.modStack i f).echoPulses = s.echoPulses := rfl
@[simp] theorem State.modStack_dynAddr : (s.modStack i f).dynAddr = s.dynAddr := rfl
@[simp] theorem State.modStack_endpointId : (s.modStack i f).endpointId = s.endpointId := rfl
@[simp] theorem State.modStack_stopArmed : (s.modStack i f).stopArmed = s.stopArmed := rfl
@[simp] theorem State.modStack_i3cReply : (s.modStack i f).i3cReply = s.i3cReply := rfl
@[simp] theorem State.modStack_ibis : (s.modStack i f).ibis = s.ibis := rfl
@[simp] theorem State.modStack_tap : (s.modStack i f).tap = s.tap := rfl
@[simp] theorem State.modStack_tapBypass : (s.modStack i f).tapBypass = s.tapBypass := rfl
@[simp] theorem State.modStack_tapOut : (s.modStack i f).tapOut = s.tapOut := rfl
end

/-! `addFlight` writes flights and nextFlight only. -/

section
variable (f : Flight)
@[simp] theorem State.addFlight_pending : (s.addFlight f).pending = s.pending := rfl
@[simp] theorem State.addFlight_time : (s.addFlight f).time = s.time := rfl
@[simp] theorem State.addFlight_power : (s.addFlight f).power = s.power := rfl
@[simp] theorem State.addFlight_faultCause : (s.addFlight f).faultCause = s.faultCause := rfl
@[simp] theorem State.addFlight_perst : (s.addFlight f).perst = s.perst := rfl
@[simp] theorem State.addFlight_pwrGood : (s.addFlight f).pwrGood = s.pwrGood := rfl
@[simp] theorem State.addFlight_datapathCut : (s.addFlight f).datapathCut = s.datapathCut := rfl
@[simp] theorem State.addFlight_failedBlocks : (s.addFlight f).failedBlocks = s.failedBlocks := rfl
@[simp] theorem State.addFlight_feed : (s.addFlight f).feed = s.feed := rfl
@[simp] theorem State.addFlight_bootHold : (s.addFlight f).bootHold = s.bootHold := rfl
@[simp] theorem State.addFlight_bootStart : (s.addFlight f).bootStart = s.bootStart := rfl
@[simp] theorem State.addFlight_point : (s.addFlight f).point = s.point := rfl
@[simp] theorem State.addFlight_ramp : (s.addFlight f).ramp = s.ramp := rfl
@[simp] theorem State.addFlight_milliVolts : (s.addFlight f).milliVolts = s.milliVolts := rfl
@[simp] theorem State.addFlight_voltageOff : (s.addFlight f).voltageOff = s.voltageOff := rfl
@[simp] theorem State.addFlight_nextTrim : (s.addFlight f).nextTrim = s.nextTrim := rfl
@[simp] theorem State.addFlight_junction : (s.addFlight f).junction = s.junction := rfl
@[simp] theorem State.addFlight_inlet : (s.addFlight f).inlet = s.inlet := rfl
@[simp] theorem State.addFlight_outlet : (s.addFlight f).outlet = s.outlet := rfl
@[simp] theorem State.addFlight_inputVoltage : (s.addFlight f).inputVoltage = s.inputVoltage := rfl
@[simp] theorem State.addFlight_inputCurrent : (s.addFlight f).inputCurrent = s.inputCurrent := rfl
@[simp] theorem State.addFlight_inputPower : (s.addFlight f).inputPower = s.inputPower := rfl
@[simp] theorem State.addFlight_powerRecord : (s.addFlight f).powerRecord = s.powerRecord := rfl
@[simp] theorem State.addFlight_inEnvelope : (s.addFlight f).inEnvelope = s.inEnvelope := rfl
@[simp] theorem State.addFlight_rampInWindow : (s.addFlight f).rampInWindow = s.rampInWindow := rfl
@[simp] theorem State.addFlight_monitors : (s.addFlight f).monitors = s.monitors := rfl
@[simp] theorem State.addFlight_tenantSums : (s.addFlight f).tenantSums = s.tenantSums := rfl
@[simp] theorem State.addFlight_tenantMonitors : (s.addFlight f).tenantMonitors = s.tenantMonitors := rfl
@[simp] theorem State.addFlight_windows : (s.addFlight f).windows = s.windows := rfl
@[simp] theorem State.addFlight_tenantRamping : (s.addFlight f).tenantRamping = s.tenantRamping := rfl
@[simp] theorem State.addFlight_tenantInEnvelope : (s.addFlight f).tenantInEnvelope = s.tenantInEnvelope := rfl
@[simp] theorem State.addFlight_serial : (s.addFlight f).serial = s.serial := rfl
@[simp] theorem State.addFlight_firmware : (s.addFlight f).firmware = s.firmware := rfl
@[simp] theorem State.addFlight_abaopMinor : (s.addFlight f).abaopMinor = s.abaopMinor := rfl
@[simp] theorem State.addFlight_imageSlot : (s.addFlight f).imageSlot = s.imageSlot := rfl
@[simp] theorem State.addFlight_deviceId : (s.addFlight f).deviceId = s.deviceId := rfl
@[simp] theorem State.addFlight_funcs : (s.addFlight f).funcs = s.funcs := rfl
@[simp] theorem State.addFlight_alertTotals : (s.addFlight f).alertTotals = s.alertTotals := rfl
@[simp] theorem State.addFlight_lastServed : (s.addFlight f).lastServed = s.lastServed := rfl
@[simp] theorem State.addFlight_opens : (s.addFlight f).opens = s.opens := rfl
@[simp] theorem State.addFlight_msix : (s.addFlight f).msix = s.msix := rfl
@[simp] theorem State.addFlight_hostWrites : (s.addFlight f).hostWrites = s.hostWrites := rfl
@[simp] theorem State.addFlight_completion : (s.addFlight f).completion = s.completion := rfl
@[simp] theorem State.addFlight_hostRate : (s.addFlight f).hostRate = s.hostRate := rfl
@[simp] theorem State.addFlight_hostWidth : (s.addFlight f).hostWidth = s.hostWidth := rfl
@[simp] theorem State.addFlight_partitions : (s.addFlight f).partitions = s.partitions := rfl
@[simp] theorem State.addFlight_basins : (s.addFlight f).basins = s.basins := rfl
@[simp] theorem State.addFlight_mem : (s.addFlight f).mem = s.mem := rfl
@[simp] theorem State.addFlight_poison : (s.addFlight f).poison = s.poison := rfl
@[simp] theorem State.addFlight_hbm : (s.addFlight f).hbm = s.hbm := rfl
@[simp] theorem State.addFlight_cxl : (s.addFlight f).cxl = s.cxl := rfl
@[simp] theorem State.addFlight_counters : (s.addFlight f).counters = s.counters := rfl
@[simp] theorem State.addFlight_portModes : (s.addFlight f).portModes = s.portModes := rfl
@[simp] theorem State.addFlight_portFailed : (s.addFlight f).portFailed = s.portFailed := rfl
@[simp] theorem State.addFlight_portMeters : (s.addFlight f).portMeters = s.portMeters := rfl
@[simp] theorem State.addFlight_subPorts : (s.addFlight f).subPorts = s.subPorts := rfl
@[simp] theorem State.addFlight_router : (s.addFlight f).router = s.router := rfl
@[simp] theorem State.addFlight_contexts : (s.addFlight f).contexts = s.contexts := rfl
@[simp] theorem State.addFlight_instances : (s.addFlight f).instances = s.instances := rfl
@[simp] theorem State.addFlight_orphans : (s.addFlight f).orphans = s.orphans := rfl
@[simp] theorem State.addFlight_ceEvents : (s.addFlight f).ceEvents = s.ceEvents := rfl
@[simp] theorem State.addFlight_linkEvents : (s.addFlight f).linkEvents = s.linkEvents := rfl
@[simp] theorem State.addFlight_regulatorTimes : (s.addFlight f).regulatorTimes = s.regulatorTimes := rfl
@[simp] theorem State.addFlight_sagTimes : (s.addFlight f).sagTimes = s.sagTimes := rfl
@[simp] theorem State.addFlight_sounding : (s.addFlight f).sounding = s.sounding := rfl
@[simp] theorem State.addFlight_scores : (s.addFlight f).scores = s.scores := rfl
@[simp] theorem State.addFlight_threshold : (s.addFlight f).threshold = s.threshold := rfl
@[simp] theorem State.addFlight_thresholdSet : (s.addFlight f).thresholdSet = s.thresholdSet := rfl
@[simp] theorem State.addFlight_soundingArmed : (s.addFlight f).soundingArmed = s.soundingArmed := rfl
@[simp] theorem State.addFlight_notices : (s.addFlight f).notices = s.notices := rfl
@[simp] theorem State.addFlight_regions : (s.addFlight f).regions = s.regions := rfl
@[simp] theorem State.addFlight_images : (s.addFlight f).images = s.images := rfl
@[simp] theorem State.addFlight_vendorDigest : (s.addFlight f).vendorDigest = s.vendorDigest := rfl
@[simp] theorem State.addFlight_bootCount : (s.addFlight f).bootCount = s.bootCount := rfl
@[simp] theorem State.addFlight_versionFloor : (s.addFlight f).versionFloor = s.versionFloor := rfl
@[simp] theorem State.addFlight_imageA : (s.addFlight f).imageA = s.imageA := rfl
@[simp] theorem State.addFlight_imageB : (s.addFlight f).imageB = s.imageB := rfl
@[simp] theorem State.addFlight_staged : (s.addFlight f).staged = s.staged := rfl
@[simp] theorem State.addFlight_fallbackBoot : (s.addFlight f).fallbackBoot = s.fallbackBoot := rfl
@[simp] theorem State.addFlight_debugUnlocked : (s.addFlight f).debugUnlocked = s.debugUnlocked := rfl
@[simp] theorem State.addFlight_chain : (s.addFlight f).chain = s.chain := rfl
@[simp] theorem State.addFlight_randomCount : (s.addFlight f).randomCount = s.randomCount := rfl
@[simp] theorem State.addFlight_freeCount : (s.addFlight f).freeCount = s.freeCount := rfl
@[simp] theorem State.addFlight_store : (s.addFlight f).store = s.store := rfl
@[simp] theorem State.addFlight_echo : (s.addFlight f).echo = s.echo := rfl
@[simp] theorem State.addFlight_echoPulses : (s.addFlight f).echoPulses = s.echoPulses := rfl
@[simp] theorem State.addFlight_dynAddr : (s.addFlight f).dynAddr = s.dynAddr := rfl
@[simp] theorem State.addFlight_endpointId : (s.addFlight f).endpointId = s.endpointId := rfl
@[simp] theorem State.addFlight_stopArmed : (s.addFlight f).stopArmed = s.stopArmed := rfl
@[simp] theorem State.addFlight_i3cReply : (s.addFlight f).i3cReply = s.i3cReply := rfl
@[simp] theorem State.addFlight_ibis : (s.addFlight f).ibis = s.ibis := rfl
@[simp] theorem State.addFlight_tap : (s.addFlight f).tap = s.tap := rfl
@[simp] theorem State.addFlight_tapBypass : (s.addFlight f).tapBypass = s.tapBypass := rfl
@[simp] theorem State.addFlight_tapOut : (s.addFlight f).tapOut = s.tapOut := rfl
end

/-! `dropFlight` writes flights only. -/

section
variable (i : Nat)
@[simp] theorem State.dropFlight_pending : (s.dropFlight i).pending = s.pending := rfl
@[simp] theorem State.dropFlight_time : (s.dropFlight i).time = s.time := rfl
@[simp] theorem State.dropFlight_power : (s.dropFlight i).power = s.power := rfl
@[simp] theorem State.dropFlight_faultCause : (s.dropFlight i).faultCause = s.faultCause := rfl
@[simp] theorem State.dropFlight_perst : (s.dropFlight i).perst = s.perst := rfl
@[simp] theorem State.dropFlight_pwrGood : (s.dropFlight i).pwrGood = s.pwrGood := rfl
@[simp] theorem State.dropFlight_datapathCut : (s.dropFlight i).datapathCut = s.datapathCut := rfl
@[simp] theorem State.dropFlight_failedBlocks : (s.dropFlight i).failedBlocks = s.failedBlocks := rfl
@[simp] theorem State.dropFlight_feed : (s.dropFlight i).feed = s.feed := rfl
@[simp] theorem State.dropFlight_bootHold : (s.dropFlight i).bootHold = s.bootHold := rfl
@[simp] theorem State.dropFlight_bootStart : (s.dropFlight i).bootStart = s.bootStart := rfl
@[simp] theorem State.dropFlight_point : (s.dropFlight i).point = s.point := rfl
@[simp] theorem State.dropFlight_ramp : (s.dropFlight i).ramp = s.ramp := rfl
@[simp] theorem State.dropFlight_milliVolts : (s.dropFlight i).milliVolts = s.milliVolts := rfl
@[simp] theorem State.dropFlight_voltageOff : (s.dropFlight i).voltageOff = s.voltageOff := rfl
@[simp] theorem State.dropFlight_nextTrim : (s.dropFlight i).nextTrim = s.nextTrim := rfl
@[simp] theorem State.dropFlight_junction : (s.dropFlight i).junction = s.junction := rfl
@[simp] theorem State.dropFlight_inlet : (s.dropFlight i).inlet = s.inlet := rfl
@[simp] theorem State.dropFlight_outlet : (s.dropFlight i).outlet = s.outlet := rfl
@[simp] theorem State.dropFlight_inputVoltage : (s.dropFlight i).inputVoltage = s.inputVoltage := rfl
@[simp] theorem State.dropFlight_inputCurrent : (s.dropFlight i).inputCurrent = s.inputCurrent := rfl
@[simp] theorem State.dropFlight_inputPower : (s.dropFlight i).inputPower = s.inputPower := rfl
@[simp] theorem State.dropFlight_powerRecord : (s.dropFlight i).powerRecord = s.powerRecord := rfl
@[simp] theorem State.dropFlight_inEnvelope : (s.dropFlight i).inEnvelope = s.inEnvelope := rfl
@[simp] theorem State.dropFlight_rampInWindow : (s.dropFlight i).rampInWindow = s.rampInWindow := rfl
@[simp] theorem State.dropFlight_monitors : (s.dropFlight i).monitors = s.monitors := rfl
@[simp] theorem State.dropFlight_tenantSums : (s.dropFlight i).tenantSums = s.tenantSums := rfl
@[simp] theorem State.dropFlight_tenantMonitors : (s.dropFlight i).tenantMonitors = s.tenantMonitors := rfl
@[simp] theorem State.dropFlight_windows : (s.dropFlight i).windows = s.windows := rfl
@[simp] theorem State.dropFlight_tenantRamping : (s.dropFlight i).tenantRamping = s.tenantRamping := rfl
@[simp] theorem State.dropFlight_tenantInEnvelope : (s.dropFlight i).tenantInEnvelope = s.tenantInEnvelope := rfl
@[simp] theorem State.dropFlight_serial : (s.dropFlight i).serial = s.serial := rfl
@[simp] theorem State.dropFlight_firmware : (s.dropFlight i).firmware = s.firmware := rfl
@[simp] theorem State.dropFlight_abaopMinor : (s.dropFlight i).abaopMinor = s.abaopMinor := rfl
@[simp] theorem State.dropFlight_imageSlot : (s.dropFlight i).imageSlot = s.imageSlot := rfl
@[simp] theorem State.dropFlight_deviceId : (s.dropFlight i).deviceId = s.deviceId := rfl
@[simp] theorem State.dropFlight_funcs : (s.dropFlight i).funcs = s.funcs := rfl
@[simp] theorem State.dropFlight_alertTotals : (s.dropFlight i).alertTotals = s.alertTotals := rfl
@[simp] theorem State.dropFlight_lastServed : (s.dropFlight i).lastServed = s.lastServed := rfl
@[simp] theorem State.dropFlight_opens : (s.dropFlight i).opens = s.opens := rfl
@[simp] theorem State.dropFlight_msix : (s.dropFlight i).msix = s.msix := rfl
@[simp] theorem State.dropFlight_hostWrites : (s.dropFlight i).hostWrites = s.hostWrites := rfl
@[simp] theorem State.dropFlight_completion : (s.dropFlight i).completion = s.completion := rfl
@[simp] theorem State.dropFlight_hostRate : (s.dropFlight i).hostRate = s.hostRate := rfl
@[simp] theorem State.dropFlight_hostWidth : (s.dropFlight i).hostWidth = s.hostWidth := rfl
@[simp] theorem State.dropFlight_partitions : (s.dropFlight i).partitions = s.partitions := rfl
@[simp] theorem State.dropFlight_basins : (s.dropFlight i).basins = s.basins := rfl
@[simp] theorem State.dropFlight_nextFlight : (s.dropFlight i).nextFlight = s.nextFlight := rfl
@[simp] theorem State.dropFlight_mem : (s.dropFlight i).mem = s.mem := rfl
@[simp] theorem State.dropFlight_poison : (s.dropFlight i).poison = s.poison := rfl
@[simp] theorem State.dropFlight_hbm : (s.dropFlight i).hbm = s.hbm := rfl
@[simp] theorem State.dropFlight_cxl : (s.dropFlight i).cxl = s.cxl := rfl
@[simp] theorem State.dropFlight_counters : (s.dropFlight i).counters = s.counters := rfl
@[simp] theorem State.dropFlight_portModes : (s.dropFlight i).portModes = s.portModes := rfl
@[simp] theorem State.dropFlight_portFailed : (s.dropFlight i).portFailed = s.portFailed := rfl
@[simp] theorem State.dropFlight_portMeters : (s.dropFlight i).portMeters = s.portMeters := rfl
@[simp] theorem State.dropFlight_subPorts : (s.dropFlight i).subPorts = s.subPorts := rfl
@[simp] theorem State.dropFlight_router : (s.dropFlight i).router = s.router := rfl
@[simp] theorem State.dropFlight_contexts : (s.dropFlight i).contexts = s.contexts := rfl
@[simp] theorem State.dropFlight_instances : (s.dropFlight i).instances = s.instances := rfl
@[simp] theorem State.dropFlight_orphans : (s.dropFlight i).orphans = s.orphans := rfl
@[simp] theorem State.dropFlight_ceEvents : (s.dropFlight i).ceEvents = s.ceEvents := rfl
@[simp] theorem State.dropFlight_linkEvents : (s.dropFlight i).linkEvents = s.linkEvents := rfl
@[simp] theorem State.dropFlight_regulatorTimes : (s.dropFlight i).regulatorTimes = s.regulatorTimes := rfl
@[simp] theorem State.dropFlight_sagTimes : (s.dropFlight i).sagTimes = s.sagTimes := rfl
@[simp] theorem State.dropFlight_sounding : (s.dropFlight i).sounding = s.sounding := rfl
@[simp] theorem State.dropFlight_scores : (s.dropFlight i).scores = s.scores := rfl
@[simp] theorem State.dropFlight_threshold : (s.dropFlight i).threshold = s.threshold := rfl
@[simp] theorem State.dropFlight_thresholdSet : (s.dropFlight i).thresholdSet = s.thresholdSet := rfl
@[simp] theorem State.dropFlight_soundingArmed : (s.dropFlight i).soundingArmed = s.soundingArmed := rfl
@[simp] theorem State.dropFlight_notices : (s.dropFlight i).notices = s.notices := rfl
@[simp] theorem State.dropFlight_regions : (s.dropFlight i).regions = s.regions := rfl
@[simp] theorem State.dropFlight_images : (s.dropFlight i).images = s.images := rfl
@[simp] theorem State.dropFlight_vendorDigest : (s.dropFlight i).vendorDigest = s.vendorDigest := rfl
@[simp] theorem State.dropFlight_bootCount : (s.dropFlight i).bootCount = s.bootCount := rfl
@[simp] theorem State.dropFlight_versionFloor : (s.dropFlight i).versionFloor = s.versionFloor := rfl
@[simp] theorem State.dropFlight_imageA : (s.dropFlight i).imageA = s.imageA := rfl
@[simp] theorem State.dropFlight_imageB : (s.dropFlight i).imageB = s.imageB := rfl
@[simp] theorem State.dropFlight_staged : (s.dropFlight i).staged = s.staged := rfl
@[simp] theorem State.dropFlight_fallbackBoot : (s.dropFlight i).fallbackBoot = s.fallbackBoot := rfl
@[simp] theorem State.dropFlight_debugUnlocked : (s.dropFlight i).debugUnlocked = s.debugUnlocked := rfl
@[simp] theorem State.dropFlight_chain : (s.dropFlight i).chain = s.chain := rfl
@[simp] theorem State.dropFlight_randomCount : (s.dropFlight i).randomCount = s.randomCount := rfl
@[simp] theorem State.dropFlight_freeCount : (s.dropFlight i).freeCount = s.freeCount := rfl
@[simp] theorem State.dropFlight_store : (s.dropFlight i).store = s.store := rfl
@[simp] theorem State.dropFlight_echo : (s.dropFlight i).echo = s.echo := rfl
@[simp] theorem State.dropFlight_echoPulses : (s.dropFlight i).echoPulses = s.echoPulses := rfl
@[simp] theorem State.dropFlight_dynAddr : (s.dropFlight i).dynAddr = s.dynAddr := rfl
@[simp] theorem State.dropFlight_endpointId : (s.dropFlight i).endpointId = s.endpointId := rfl
@[simp] theorem State.dropFlight_stopArmed : (s.dropFlight i).stopArmed = s.stopArmed := rfl
@[simp] theorem State.dropFlight_i3cReply : (s.dropFlight i).i3cReply = s.i3cReply := rfl
@[simp] theorem State.dropFlight_ibis : (s.dropFlight i).ibis = s.ibis := rfl
@[simp] theorem State.dropFlight_tap : (s.dropFlight i).tap = s.tap := rfl
@[simp] theorem State.dropFlight_tapBypass : (s.dropFlight i).tapBypass = s.tapBypass := rfl
@[simp] theorem State.dropFlight_tapOut : (s.dropFlight i).tapOut = s.tapOut := rfl
end

/-! `pollCounter` writes counters only. -/

section
variable (a b c : Nat)
@[simp] theorem State.pollCounter_pending : (s.pollCounter a b c).pending = s.pending := rfl
@[simp] theorem State.pollCounter_time : (s.pollCounter a b c).time = s.time := rfl
@[simp] theorem State.pollCounter_power : (s.pollCounter a b c).power = s.power := rfl
@[simp] theorem State.pollCounter_faultCause : (s.pollCounter a b c).faultCause = s.faultCause := rfl
@[simp] theorem State.pollCounter_perst : (s.pollCounter a b c).perst = s.perst := rfl
@[simp] theorem State.pollCounter_pwrGood : (s.pollCounter a b c).pwrGood = s.pwrGood := rfl
@[simp] theorem State.pollCounter_datapathCut : (s.pollCounter a b c).datapathCut = s.datapathCut := rfl
@[simp] theorem State.pollCounter_failedBlocks : (s.pollCounter a b c).failedBlocks = s.failedBlocks := rfl
@[simp] theorem State.pollCounter_feed : (s.pollCounter a b c).feed = s.feed := rfl
@[simp] theorem State.pollCounter_bootHold : (s.pollCounter a b c).bootHold = s.bootHold := rfl
@[simp] theorem State.pollCounter_bootStart : (s.pollCounter a b c).bootStart = s.bootStart := rfl
@[simp] theorem State.pollCounter_point : (s.pollCounter a b c).point = s.point := rfl
@[simp] theorem State.pollCounter_ramp : (s.pollCounter a b c).ramp = s.ramp := rfl
@[simp] theorem State.pollCounter_milliVolts : (s.pollCounter a b c).milliVolts = s.milliVolts := rfl
@[simp] theorem State.pollCounter_voltageOff : (s.pollCounter a b c).voltageOff = s.voltageOff := rfl
@[simp] theorem State.pollCounter_nextTrim : (s.pollCounter a b c).nextTrim = s.nextTrim := rfl
@[simp] theorem State.pollCounter_junction : (s.pollCounter a b c).junction = s.junction := rfl
@[simp] theorem State.pollCounter_inlet : (s.pollCounter a b c).inlet = s.inlet := rfl
@[simp] theorem State.pollCounter_outlet : (s.pollCounter a b c).outlet = s.outlet := rfl
@[simp] theorem State.pollCounter_inputVoltage : (s.pollCounter a b c).inputVoltage = s.inputVoltage := rfl
@[simp] theorem State.pollCounter_inputCurrent : (s.pollCounter a b c).inputCurrent = s.inputCurrent := rfl
@[simp] theorem State.pollCounter_inputPower : (s.pollCounter a b c).inputPower = s.inputPower := rfl
@[simp] theorem State.pollCounter_powerRecord : (s.pollCounter a b c).powerRecord = s.powerRecord := rfl
@[simp] theorem State.pollCounter_inEnvelope : (s.pollCounter a b c).inEnvelope = s.inEnvelope := rfl
@[simp] theorem State.pollCounter_rampInWindow : (s.pollCounter a b c).rampInWindow = s.rampInWindow := rfl
@[simp] theorem State.pollCounter_monitors : (s.pollCounter a b c).monitors = s.monitors := rfl
@[simp] theorem State.pollCounter_tenantSums : (s.pollCounter a b c).tenantSums = s.tenantSums := rfl
@[simp] theorem State.pollCounter_tenantMonitors : (s.pollCounter a b c).tenantMonitors = s.tenantMonitors := rfl
@[simp] theorem State.pollCounter_windows : (s.pollCounter a b c).windows = s.windows := rfl
@[simp] theorem State.pollCounter_tenantRamping : (s.pollCounter a b c).tenantRamping = s.tenantRamping := rfl
@[simp] theorem State.pollCounter_tenantInEnvelope : (s.pollCounter a b c).tenantInEnvelope = s.tenantInEnvelope := rfl
@[simp] theorem State.pollCounter_serial : (s.pollCounter a b c).serial = s.serial := rfl
@[simp] theorem State.pollCounter_firmware : (s.pollCounter a b c).firmware = s.firmware := rfl
@[simp] theorem State.pollCounter_abaopMinor : (s.pollCounter a b c).abaopMinor = s.abaopMinor := rfl
@[simp] theorem State.pollCounter_imageSlot : (s.pollCounter a b c).imageSlot = s.imageSlot := rfl
@[simp] theorem State.pollCounter_deviceId : (s.pollCounter a b c).deviceId = s.deviceId := rfl
@[simp] theorem State.pollCounter_funcs : (s.pollCounter a b c).funcs = s.funcs := rfl
@[simp] theorem State.pollCounter_alertTotals : (s.pollCounter a b c).alertTotals = s.alertTotals := rfl
@[simp] theorem State.pollCounter_lastServed : (s.pollCounter a b c).lastServed = s.lastServed := rfl
@[simp] theorem State.pollCounter_opens : (s.pollCounter a b c).opens = s.opens := rfl
@[simp] theorem State.pollCounter_msix : (s.pollCounter a b c).msix = s.msix := rfl
@[simp] theorem State.pollCounter_hostWrites : (s.pollCounter a b c).hostWrites = s.hostWrites := rfl
@[simp] theorem State.pollCounter_completion : (s.pollCounter a b c).completion = s.completion := rfl
@[simp] theorem State.pollCounter_hostRate : (s.pollCounter a b c).hostRate = s.hostRate := rfl
@[simp] theorem State.pollCounter_hostWidth : (s.pollCounter a b c).hostWidth = s.hostWidth := rfl
@[simp] theorem State.pollCounter_partitions : (s.pollCounter a b c).partitions = s.partitions := rfl
@[simp] theorem State.pollCounter_basins : (s.pollCounter a b c).basins = s.basins := rfl
@[simp] theorem State.pollCounter_flights : (s.pollCounter a b c).flights = s.flights := rfl
@[simp] theorem State.pollCounter_nextFlight : (s.pollCounter a b c).nextFlight = s.nextFlight := rfl
@[simp] theorem State.pollCounter_mem : (s.pollCounter a b c).mem = s.mem := rfl
@[simp] theorem State.pollCounter_poison : (s.pollCounter a b c).poison = s.poison := rfl
@[simp] theorem State.pollCounter_hbm : (s.pollCounter a b c).hbm = s.hbm := rfl
@[simp] theorem State.pollCounter_cxl : (s.pollCounter a b c).cxl = s.cxl := rfl
@[simp] theorem State.pollCounter_portModes : (s.pollCounter a b c).portModes = s.portModes := rfl
@[simp] theorem State.pollCounter_portFailed : (s.pollCounter a b c).portFailed = s.portFailed := rfl
@[simp] theorem State.pollCounter_portMeters : (s.pollCounter a b c).portMeters = s.portMeters := rfl
@[simp] theorem State.pollCounter_subPorts : (s.pollCounter a b c).subPorts = s.subPorts := rfl
@[simp] theorem State.pollCounter_router : (s.pollCounter a b c).router = s.router := rfl
@[simp] theorem State.pollCounter_contexts : (s.pollCounter a b c).contexts = s.contexts := rfl
@[simp] theorem State.pollCounter_instances : (s.pollCounter a b c).instances = s.instances := rfl
@[simp] theorem State.pollCounter_orphans : (s.pollCounter a b c).orphans = s.orphans := rfl
@[simp] theorem State.pollCounter_ceEvents : (s.pollCounter a b c).ceEvents = s.ceEvents := rfl
@[simp] theorem State.pollCounter_linkEvents : (s.pollCounter a b c).linkEvents = s.linkEvents := rfl
@[simp] theorem State.pollCounter_regulatorTimes : (s.pollCounter a b c).regulatorTimes = s.regulatorTimes := rfl
@[simp] theorem State.pollCounter_sagTimes : (s.pollCounter a b c).sagTimes = s.sagTimes := rfl
@[simp] theorem State.pollCounter_sounding : (s.pollCounter a b c).sounding = s.sounding := rfl
@[simp] theorem State.pollCounter_scores : (s.pollCounter a b c).scores = s.scores := rfl
@[simp] theorem State.pollCounter_threshold : (s.pollCounter a b c).threshold = s.threshold := rfl
@[simp] theorem State.pollCounter_thresholdSet : (s.pollCounter a b c).thresholdSet = s.thresholdSet := rfl
@[simp] theorem State.pollCounter_soundingArmed : (s.pollCounter a b c).soundingArmed = s.soundingArmed := rfl
@[simp] theorem State.pollCounter_notices : (s.pollCounter a b c).notices = s.notices := rfl
@[simp] theorem State.pollCounter_regions : (s.pollCounter a b c).regions = s.regions := rfl
@[simp] theorem State.pollCounter_images : (s.pollCounter a b c).images = s.images := rfl
@[simp] theorem State.pollCounter_vendorDigest : (s.pollCounter a b c).vendorDigest = s.vendorDigest := rfl
@[simp] theorem State.pollCounter_bootCount : (s.pollCounter a b c).bootCount = s.bootCount := rfl
@[simp] theorem State.pollCounter_versionFloor : (s.pollCounter a b c).versionFloor = s.versionFloor := rfl
@[simp] theorem State.pollCounter_imageA : (s.pollCounter a b c).imageA = s.imageA := rfl
@[simp] theorem State.pollCounter_imageB : (s.pollCounter a b c).imageB = s.imageB := rfl
@[simp] theorem State.pollCounter_staged : (s.pollCounter a b c).staged = s.staged := rfl
@[simp] theorem State.pollCounter_fallbackBoot : (s.pollCounter a b c).fallbackBoot = s.fallbackBoot := rfl
@[simp] theorem State.pollCounter_debugUnlocked : (s.pollCounter a b c).debugUnlocked = s.debugUnlocked := rfl
@[simp] theorem State.pollCounter_chain : (s.pollCounter a b c).chain = s.chain := rfl
@[simp] theorem State.pollCounter_randomCount : (s.pollCounter a b c).randomCount = s.randomCount := rfl
@[simp] theorem State.pollCounter_freeCount : (s.pollCounter a b c).freeCount = s.freeCount := rfl
@[simp] theorem State.pollCounter_store : (s.pollCounter a b c).store = s.store := rfl
@[simp] theorem State.pollCounter_echo : (s.pollCounter a b c).echo = s.echo := rfl
@[simp] theorem State.pollCounter_echoPulses : (s.pollCounter a b c).echoPulses = s.echoPulses := rfl
@[simp] theorem State.pollCounter_dynAddr : (s.pollCounter a b c).dynAddr = s.dynAddr := rfl
@[simp] theorem State.pollCounter_endpointId : (s.pollCounter a b c).endpointId = s.endpointId := rfl
@[simp] theorem State.pollCounter_stopArmed : (s.pollCounter a b c).stopArmed = s.stopArmed := rfl
@[simp] theorem State.pollCounter_i3cReply : (s.pollCounter a b c).i3cReply = s.i3cReply := rfl
@[simp] theorem State.pollCounter_ibis : (s.pollCounter a b c).ibis = s.ibis := rfl
@[simp] theorem State.pollCounter_tap : (s.pollCounter a b c).tap = s.tap := rfl
@[simp] theorem State.pollCounter_tapBypass : (s.pollCounter a b c).tapBypass = s.tapBypass := rfl
@[simp] theorem State.pollCounter_tapOut : (s.pollCounter a b c).tapOut = s.tapOut := rfl
end

/-! `zeroRange` writes mem and poison only. -/

section
variable (a n : Nat)
@[simp] theorem State.zeroRange_pending : (s.zeroRange a n).pending = s.pending := rfl
@[simp] theorem State.zeroRange_time : (s.zeroRange a n).time = s.time := rfl
@[simp] theorem State.zeroRange_power : (s.zeroRange a n).power = s.power := rfl
@[simp] theorem State.zeroRange_faultCause : (s.zeroRange a n).faultCause = s.faultCause := rfl
@[simp] theorem State.zeroRange_perst : (s.zeroRange a n).perst = s.perst := rfl
@[simp] theorem State.zeroRange_pwrGood : (s.zeroRange a n).pwrGood = s.pwrGood := rfl
@[simp] theorem State.zeroRange_datapathCut : (s.zeroRange a n).datapathCut = s.datapathCut := rfl
@[simp] theorem State.zeroRange_failedBlocks : (s.zeroRange a n).failedBlocks = s.failedBlocks := rfl
@[simp] theorem State.zeroRange_feed : (s.zeroRange a n).feed = s.feed := rfl
@[simp] theorem State.zeroRange_bootHold : (s.zeroRange a n).bootHold = s.bootHold := rfl
@[simp] theorem State.zeroRange_bootStart : (s.zeroRange a n).bootStart = s.bootStart := rfl
@[simp] theorem State.zeroRange_point : (s.zeroRange a n).point = s.point := rfl
@[simp] theorem State.zeroRange_ramp : (s.zeroRange a n).ramp = s.ramp := rfl
@[simp] theorem State.zeroRange_milliVolts : (s.zeroRange a n).milliVolts = s.milliVolts := rfl
@[simp] theorem State.zeroRange_voltageOff : (s.zeroRange a n).voltageOff = s.voltageOff := rfl
@[simp] theorem State.zeroRange_nextTrim : (s.zeroRange a n).nextTrim = s.nextTrim := rfl
@[simp] theorem State.zeroRange_junction : (s.zeroRange a n).junction = s.junction := rfl
@[simp] theorem State.zeroRange_inlet : (s.zeroRange a n).inlet = s.inlet := rfl
@[simp] theorem State.zeroRange_outlet : (s.zeroRange a n).outlet = s.outlet := rfl
@[simp] theorem State.zeroRange_inputVoltage : (s.zeroRange a n).inputVoltage = s.inputVoltage := rfl
@[simp] theorem State.zeroRange_inputCurrent : (s.zeroRange a n).inputCurrent = s.inputCurrent := rfl
@[simp] theorem State.zeroRange_inputPower : (s.zeroRange a n).inputPower = s.inputPower := rfl
@[simp] theorem State.zeroRange_powerRecord : (s.zeroRange a n).powerRecord = s.powerRecord := rfl
@[simp] theorem State.zeroRange_inEnvelope : (s.zeroRange a n).inEnvelope = s.inEnvelope := rfl
@[simp] theorem State.zeroRange_rampInWindow : (s.zeroRange a n).rampInWindow = s.rampInWindow := rfl
@[simp] theorem State.zeroRange_monitors : (s.zeroRange a n).monitors = s.monitors := rfl
@[simp] theorem State.zeroRange_tenantSums : (s.zeroRange a n).tenantSums = s.tenantSums := rfl
@[simp] theorem State.zeroRange_tenantMonitors : (s.zeroRange a n).tenantMonitors = s.tenantMonitors := rfl
@[simp] theorem State.zeroRange_windows : (s.zeroRange a n).windows = s.windows := rfl
@[simp] theorem State.zeroRange_tenantRamping : (s.zeroRange a n).tenantRamping = s.tenantRamping := rfl
@[simp] theorem State.zeroRange_tenantInEnvelope : (s.zeroRange a n).tenantInEnvelope = s.tenantInEnvelope := rfl
@[simp] theorem State.zeroRange_serial : (s.zeroRange a n).serial = s.serial := rfl
@[simp] theorem State.zeroRange_firmware : (s.zeroRange a n).firmware = s.firmware := rfl
@[simp] theorem State.zeroRange_abaopMinor : (s.zeroRange a n).abaopMinor = s.abaopMinor := rfl
@[simp] theorem State.zeroRange_imageSlot : (s.zeroRange a n).imageSlot = s.imageSlot := rfl
@[simp] theorem State.zeroRange_deviceId : (s.zeroRange a n).deviceId = s.deviceId := rfl
@[simp] theorem State.zeroRange_funcs : (s.zeroRange a n).funcs = s.funcs := rfl
@[simp] theorem State.zeroRange_alertTotals : (s.zeroRange a n).alertTotals = s.alertTotals := rfl
@[simp] theorem State.zeroRange_lastServed : (s.zeroRange a n).lastServed = s.lastServed := rfl
@[simp] theorem State.zeroRange_opens : (s.zeroRange a n).opens = s.opens := rfl
@[simp] theorem State.zeroRange_msix : (s.zeroRange a n).msix = s.msix := rfl
@[simp] theorem State.zeroRange_hostWrites : (s.zeroRange a n).hostWrites = s.hostWrites := rfl
@[simp] theorem State.zeroRange_completion : (s.zeroRange a n).completion = s.completion := rfl
@[simp] theorem State.zeroRange_hostRate : (s.zeroRange a n).hostRate = s.hostRate := rfl
@[simp] theorem State.zeroRange_hostWidth : (s.zeroRange a n).hostWidth = s.hostWidth := rfl
@[simp] theorem State.zeroRange_partitions : (s.zeroRange a n).partitions = s.partitions := rfl
@[simp] theorem State.zeroRange_basins : (s.zeroRange a n).basins = s.basins := rfl
@[simp] theorem State.zeroRange_flights : (s.zeroRange a n).flights = s.flights := rfl
@[simp] theorem State.zeroRange_nextFlight : (s.zeroRange a n).nextFlight = s.nextFlight := rfl
@[simp] theorem State.zeroRange_hbm : (s.zeroRange a n).hbm = s.hbm := rfl
@[simp] theorem State.zeroRange_cxl : (s.zeroRange a n).cxl = s.cxl := rfl
@[simp] theorem State.zeroRange_counters : (s.zeroRange a n).counters = s.counters := rfl
@[simp] theorem State.zeroRange_portModes : (s.zeroRange a n).portModes = s.portModes := rfl
@[simp] theorem State.zeroRange_portFailed : (s.zeroRange a n).portFailed = s.portFailed := rfl
@[simp] theorem State.zeroRange_portMeters : (s.zeroRange a n).portMeters = s.portMeters := rfl
@[simp] theorem State.zeroRange_subPorts : (s.zeroRange a n).subPorts = s.subPorts := rfl
@[simp] theorem State.zeroRange_router : (s.zeroRange a n).router = s.router := rfl
@[simp] theorem State.zeroRange_contexts : (s.zeroRange a n).contexts = s.contexts := rfl
@[simp] theorem State.zeroRange_instances : (s.zeroRange a n).instances = s.instances := rfl
@[simp] theorem State.zeroRange_orphans : (s.zeroRange a n).orphans = s.orphans := rfl
@[simp] theorem State.zeroRange_ceEvents : (s.zeroRange a n).ceEvents = s.ceEvents := rfl
@[simp] theorem State.zeroRange_linkEvents : (s.zeroRange a n).linkEvents = s.linkEvents := rfl
@[simp] theorem State.zeroRange_regulatorTimes : (s.zeroRange a n).regulatorTimes = s.regulatorTimes := rfl
@[simp] theorem State.zeroRange_sagTimes : (s.zeroRange a n).sagTimes = s.sagTimes := rfl
@[simp] theorem State.zeroRange_sounding : (s.zeroRange a n).sounding = s.sounding := rfl
@[simp] theorem State.zeroRange_scores : (s.zeroRange a n).scores = s.scores := rfl
@[simp] theorem State.zeroRange_threshold : (s.zeroRange a n).threshold = s.threshold := rfl
@[simp] theorem State.zeroRange_thresholdSet : (s.zeroRange a n).thresholdSet = s.thresholdSet := rfl
@[simp] theorem State.zeroRange_soundingArmed : (s.zeroRange a n).soundingArmed = s.soundingArmed := rfl
@[simp] theorem State.zeroRange_notices : (s.zeroRange a n).notices = s.notices := rfl
@[simp] theorem State.zeroRange_regions : (s.zeroRange a n).regions = s.regions := rfl
@[simp] theorem State.zeroRange_images : (s.zeroRange a n).images = s.images := rfl
@[simp] theorem State.zeroRange_vendorDigest : (s.zeroRange a n).vendorDigest = s.vendorDigest := rfl
@[simp] theorem State.zeroRange_bootCount : (s.zeroRange a n).bootCount = s.bootCount := rfl
@[simp] theorem State.zeroRange_versionFloor : (s.zeroRange a n).versionFloor = s.versionFloor := rfl
@[simp] theorem State.zeroRange_imageA : (s.zeroRange a n).imageA = s.imageA := rfl
@[simp] theorem State.zeroRange_imageB : (s.zeroRange a n).imageB = s.imageB := rfl
@[simp] theorem State.zeroRange_staged : (s.zeroRange a n).staged = s.staged := rfl
@[simp] theorem State.zeroRange_fallbackBoot : (s.zeroRange a n).fallbackBoot = s.fallbackBoot := rfl
@[simp] theorem State.zeroRange_debugUnlocked : (s.zeroRange a n).debugUnlocked = s.debugUnlocked := rfl
@[simp] theorem State.zeroRange_chain : (s.zeroRange a n).chain = s.chain := rfl
@[simp] theorem State.zeroRange_randomCount : (s.zeroRange a n).randomCount = s.randomCount := rfl
@[simp] theorem State.zeroRange_freeCount : (s.zeroRange a n).freeCount = s.freeCount := rfl
@[simp] theorem State.zeroRange_store : (s.zeroRange a n).store = s.store := rfl
@[simp] theorem State.zeroRange_echo : (s.zeroRange a n).echo = s.echo := rfl
@[simp] theorem State.zeroRange_echoPulses : (s.zeroRange a n).echoPulses = s.echoPulses := rfl
@[simp] theorem State.zeroRange_dynAddr : (s.zeroRange a n).dynAddr = s.dynAddr := rfl
@[simp] theorem State.zeroRange_endpointId : (s.zeroRange a n).endpointId = s.endpointId := rfl
@[simp] theorem State.zeroRange_stopArmed : (s.zeroRange a n).stopArmed = s.stopArmed := rfl
@[simp] theorem State.zeroRange_i3cReply : (s.zeroRange a n).i3cReply = s.i3cReply := rfl
@[simp] theorem State.zeroRange_ibis : (s.zeroRange a n).ibis = s.ibis := rfl
@[simp] theorem State.zeroRange_tap : (s.zeroRange a n).tap = s.tap := rfl
@[simp] theorem State.zeroRange_tapBypass : (s.zeroRange a n).tapBypass = s.tapBypass := rfl
@[simp] theorem State.zeroRange_tapOut : (s.zeroRange a n).tapOut = s.tapOut := rfl
end

end Sys2Proof.Machine
end

