-- ==== Sys2Proof/Laws/Frames.lean ====
section
/-! SUPPORT. The shared operations, one lemma each that says everything it can change, and where the named updates write:
reading a unit after an update of it or of another. -/

namespace Sys2Proof.Machine

/-! ### Reading after an update -/

theorem getD_modify_self {α : Type} (l : List α) (i : Nat) (f : α → α) (d : α) (h : i < l.length) :
    (l.modify i f).getD i d = f (l.getD i d) := by
  simp [List.getD_eq_getElem?_getD, h]

theorem getD_modify_ne {α : Type} (l : List α) (i j : Nat) (f : α → α) (d : α) (h : i ≠ j) :
    (l.modify i f).getD j d = l.getD j d := by
  simp [List.getD_eq_getElem?_getD, h]

theorem getD_ge {α : Type} (l : List α) (i : Nat) (d : α) (h : ¬ i < l.length) : l.getD i d = d := by
  rw [List.getD_eq_getElem?_getD, List.getElem?_eq_none (Nat.le_of_not_lt h)]
  rfl

variable (s : State)

theorem State.basin_modBasin (b : Nat) (f : Basin → Basin) (h : b < s.basins.length) :
    (s.modBasin b f).basin b = f (s.basin b) := getD_modify_self _ _ _ _ h

theorem State.basin_modBasin_ne (b c : Nat) (f : Basin → Basin) (h : b ≠ c) :
    (s.modBasin b f).basin c = s.basin c := getD_modify_ne _ _ _ _ _ h

theorem State.slot_modSlot (b k : Nat) (f : Slot → Slot) (hb : b < s.basins.length) (hk : k < (s.basin b).slots.length) :
    (s.modSlot b k f).slot b k = f (s.slot b k) := by
  unfold State.modSlot State.slot
  rw [s.basin_modBasin b _ hb]
  exact getD_modify_self _ _ _ _ hk

theorem State.slot_modSlot_basin_ne (b c k j : Nat) (f : Slot → Slot) (h : b ≠ c) :
    (s.modSlot b k f).slot c j = s.slot c j := by
  unfold State.modSlot State.slot
  rw [s.basin_modBasin_ne b c _ h]

theorem State.slot_modSlot_ne (b k j : Nat) (f : Slot → Slot) (h : k ≠ j) :
    (s.modSlot b k f).slot b j = s.slot b j := by
  unfold State.modSlot State.slot
  by_cases hb : b < s.basins.length
  · rw [s.basin_modBasin b _ hb]
    exact getD_modify_ne _ _ _ _ _ h
  · have h1 : (s.modBasin b fun x => { x with slots := x.slots.modify k f }).basin b = s.basin b := by
      unfold State.basin State.modBasin
      rw [getD_ge _ _ _ hb, getD_ge _ _ _ (by simpa using hb)]
    rw [h1]

theorem State.partition_modPartition (p : Nat) (f : Partition → Partition) (h : p < s.partitions.length) :
    (s.modPartition p f).partition p = f (s.partition p) := getD_modify_self _ _ _ _ h

theorem State.partition_modPartition_ne (p q : Nat) (f : Partition → Partition) (h : p ≠ q) :
    (s.modPartition p f).partition q = s.partition q := getD_modify_ne _ _ _ _ _ h

theorem State.func_modFunc (n : Nat) (f : Func → Func) (h : n < s.funcs.length) :
    (s.modFunc n f).func n = f (s.func n) := getD_modify_self _ _ _ _ h

theorem State.func_modFunc_ne (n m : Nat) (f : Func → Func) (h : n ≠ m) :
    (s.modFunc n f).func m = s.func m := getD_modify_ne _ _ _ _ _ h

theorem State.mailbox_modMailbox (n m : Nat) (f : Mailbox → Mailbox) (hn : n < s.funcs.length)
    (hm : m < (s.func n).mailboxes.length) : (s.modMailbox n m f).mailbox n m = f (s.mailbox n m) := by
  unfold State.modMailbox State.mailbox
  rw [s.func_modFunc n _ hn]
  exact getD_modify_self _ _ _ _ hm

theorem State.port_modPort (p : Nat) (f : CxlPort → CxlPort) (h : p < s.cxl.length) :
    (s.modPort p f).port p = f (s.port p) := getD_modify_self _ _ _ _ h

theorem State.port_modPort_ne (p q : Nat) (f : CxlPort → CxlPort) (h : p ≠ q) :
    (s.modPort p f).port q = s.port q := getD_modify_ne _ _ _ _ _ h

theorem State.sub_modSub (i : Nat) (f : SubPort → SubPort) (h : i < s.subPorts.length) :
    (s.modSub i f).sub i = f (s.sub i) := getD_modify_self _ _ _ _ h

theorem State.sub_modSub_ne (i j : Nat) (f : SubPort → SubPort) (h : i ≠ j) :
    (s.modSub i f).sub j = s.sub j := getD_modify_ne _ _ _ _ _ h

theorem State.cell_modCell (b c : Nat) (f : SyncCell → SyncCell) (hb : b < s.basins.length)
    (hc : c < (s.basin b).cells.length) : (s.modCell b c f).cell b c = f (s.cell b c) := by
  unfold State.modCell State.cell
  rw [s.basin_modBasin b _ hb]
  exact getD_modify_self _ _ _ _ hc

/-! A unit that is not the default one stands in its list. -/

theorem State.basin_valid (b : Nat) (h : s.basin b ≠ {}) : b < s.basins.length := by
  by_cases hb : b < s.basins.length
  · exact hb
  · exact absurd (getD_ge _ _ _ hb) h

theorem State.slot_valid (b k : Nat) (h : s.slot b k ≠ {}) : b < s.basins.length ∧ k < (s.basin b).slots.length := by
  by_cases hk : k < (s.basin b).slots.length
  · refine ⟨?_, hk⟩
    by_cases hb : b < s.basins.length
    · exact hb
    · refine absurd ?_ h
      have hd : s.basin b = {} := getD_ge _ _ _ hb
      unfold State.slot
      rw [hd]
      have : ∀ x ∈ ({} : Basin).slots, x = {} := by decide
      rw [hd] at hk
      rw [List.getD_eq_getElem?_getD, List.getElem?_eq_getElem hk]
      exact this _ (List.getElem_mem _)
  · exact absurd (getD_ge _ _ _ hk) h

theorem State.partition_valid (p : Nat) (h : (s.partition p).isOpen = true) : p < s.partitions.length := by
  by_cases hp : p < s.partitions.length
  · exact hp
  · rw [State.partition, getD_ge _ _ _ hp] at h
    cases h

/-! ### What a shared operation can change -/

/-- A relation that holds of one step of a fold holds of the fold. -/
theorem foldl_rel {α : Type} (R : State → State → Prop) (refl : ∀ u, R u u) (trans : ∀ u v w, R u v → R v w → R u w)
    (f : State → α → State) (step : ∀ u a, R u (f u a)) (l : List α) : ∀ u, R u (l.foldl f u) := by
  induction l with
  | nil => exact refl
  | cons a l ih => exact fun u => trans _ _ _ (step u a) (ih _)

/-- Only the functions' registers and the MSI-X messages differ. -/
def Signals (s u : State) : Prop := ∃ fs ms, u = { s with funcs := fs, msix := ms }

theorem Signals.refl (s : State) : Signals s s := ⟨s.funcs, s.msix, rfl⟩

theorem Signals.trans {s u v : State} (h : Signals s u) (k : Signals u v) : Signals s v := by
  obtain ⟨_, _, rfl⟩ := h
  obtain ⟨f, m, rfl⟩ := k
  exact ⟨f, m, rfl⟩

/-- Besides those, the alerts' totals and the in-band interrupts differ. -/
def Alerts (s u : State) : Prop := ∃ fs ms at' n, u = { s with funcs := fs, msix := ms, alertTotals := at', ibis := n }

theorem Signals.alerts {s u : State} (h : Signals s u) : Alerts s u := by
  obtain ⟨f, m, rfl⟩ := h
  exact ⟨f, m, s.alertTotals, s.ibis, rfl⟩

theorem Alerts.trans {s u v : State} (h : Alerts s u) (k : Alerts u v) : Alerts s v := by
  obtain ⟨_, _, _, _, rfl⟩ := h
  obtain ⟨f, m, a, n, rfl⟩ := k
  exact ⟨f, m, a, n, rfl⟩

theorem State.modFunc_signals (n : Nat) (f : Func → Func) : Signals s (s.modFunc n f) := ⟨_, s.msix, rfl⟩

theorem State.modMailbox_signals (n m : Nat) (f : Mailbox → Mailbox) : Signals s (s.modMailbox n m f) := ⟨_, s.msix, rfl⟩

theorem State.signal_signals (f v : Nat) : Signals s (s.signal f v) := by
  unfold State.signal
  split
  · exact ⟨s.funcs, _, rfl⟩
  · exact s.modFunc_signals _ _

theorem State.respond_signals (t : Ticket) (st : Status) (r : Bytes) : Signals s (s.respond t st r) := by
  unfold State.respond
  split
  · exact Signals.refl s
  · exact (s.modMailbox_signals _ _ _).trans (State.signal_signals _ _ _)

theorem State.refreshOldest_signals (f m : Nat) : Signals s (s.refreshOldest f m) := s.modMailbox_signals _ _ _

theorem State.raise_alerts (a d : Nat) : Alerts s (s.raise a d) := by
  have step : ∀ (u : State) (f : Nat), Alerts u (u.raiseIn a d f) := by
    intro u f
    have key : ∀ w : State, Alerts u w → Alerts u (if (w.func f).mask.getLsbD a then w else w.signal f 4) := by
      intro w h
      split
      · exact h
      · exact h.trans (w.signal_signals _ _).alerts
    unfold State.raiseIn
    split
    · exact key _ ⟨_, u.msix, _, u.ibis, rfl⟩
    · exact (Signals.refl u).alerts
  have h := foldl_rel Alerts (fun u => (Signals.refl u).alerts) (fun _ _ _ => Alerts.trans) (fun s f => s.raiseIn a d f) step
    (List.range 9) s
  unfold State.raise
  dsimp only
  split
  · exact h
  · exact h.trans ⟨_, _, _, _, rfl⟩

theorem State.post_signals (f m : Nat) (r : EventRec) : Signals s (s.post f m r) := by
  unfold State.post
  exact (s.modMailbox_signals _ _ _).trans
    (foldl_rel Signals Signals.refl (fun _ _ _ => Signals.trans) _ (fun u _ => u.signal_signals _ _) _ _)

theorem State.postSlot_signals (b k a c d0 d1 d2 d3 : Nat) : Signals s (s.postSlot b k a c d0 d1 d2 d3) := by
  unfold State.postSlot
  exact State.post_signals _ _ _ _

/-- Only the statistics counters differ. -/
theorem State.bump_counters (a b c n : Nat) : ∃ cs, s.bump a b c n = { s with counters := cs } := by
  unfold State.bump
  split
  · exact ⟨s.counters, rfl⟩
  · split
    · exact ⟨_, rfl⟩
    · exact ⟨_, rfl⟩

/-- Only the basins and the statistics counters differ. -/
theorem State.addCell_basins (b c v : Nat) : ∃ bs cs, s.addCell b c v = { s with basins := bs, counters := cs } := by
  unfold State.addCell
  dsimp only
  split
  · obtain ⟨cs, h⟩ := State.bump_counters (s.modCell b c fun x =>
      { x with count := BitVec.ofNat 16 (min ((s.cell b c).count.toNat + v) 0xFFFF) }) 2 b cSyncSaturated 1
    exact ⟨_, cs, h⟩
  · exact ⟨_, s.counters, rfl⟩

/-- A halt changes the functions' registers, the messages and the basins. -/
theorem State.halt_frame (b k : Nat) (c : FaultCode) (d0 d1 d2 d3 : Nat) :
    ∃ fs ms bs, s.halt b k c d0 d1 d2 d3 = { s with funcs := fs, msix := ms, basins := bs } := by
  unfold State.halt
  split
  · obtain ⟨f, m, h⟩ := s.postSlot_signals b k 1 c.code d0 d1 d2 d3
    rw [h]
    exact ⟨f, m, _, rfl⟩
  · exact ⟨s.funcs, s.msix, s.basins, rfl⟩

/-- An open command, closed: its response is written and it leaves the open commands. -/
theorem State.finish_frame (o : OpenCmd) (st : Status) (r : Bytes) :
    Signals { s with opens := s.opens.filter fun x => x != o } (s.finish o st r) :=
  (State.respond_signals _ _ _ _).trans (State.refreshOldest_signals _ _ _)

/-- A command, kept open. -/
theorem State.openCommand_frame (t : Ticket) (k : OpenKind) :
    Signals { s with opens := s.opens ++ [⟨t, k⟩] } (s.openCommand t k) := State.refreshOldest_signals _ _ _

/-- A command taken from its mailbox. -/
theorem State.takeCommand_frame (f m : Nat) :
    ∃ fs ls, s.takeCommand f m = { s with funcs := fs, lastServed := ls } := by
  unfold State.takeCommand
  dsimp only
  split
  · exact ⟨_, s.lastServed, rfl⟩
  · exact ⟨_, _, rfl⟩

/-! ### The frame of every meaning -/

/-- A meaning answers a next state: its effect at the command's moment, with the clock and the queue kept (assumption 1). -/
theorem State.run_next (t : Nat) (f : State → State) :
    s.run t f = .next { f { s with time := max s.time t } with time := max s.time t, pending := s.pending } := rfl

end Sys2Proof.Machine
end

