-- ==== Sys2Proof/Laws/Memory.lean ====
section
/-! SUPPORT. The memories of bytes: every operation keeps the canonical form, and a byte reads as it was last written. -/

namespace Sys2Proof.Machine

/-! ### The canonical form (R10) -/

theorem cellsRise_iff (l : List Host.Cell) : cellsRise l = true ↔ l.Pairwise fun x y => x.1 < y.1 := by
  induction l with
  | nil => simp [cellsRise]
  | cons a t ih =>
    cases t with
    | nil => simp [cellsRise]
    | cons b t =>
      simp only [cellsRise, Bool.and_eq_true, decide_eq_true_eq, ih, List.pairwise_cons]
      constructor
      · rintro ⟨h, h1, h2⟩
        refine ⟨?_, h1, h2⟩
        intro x hx
        rcases List.mem_cons.1 hx with rfl | hx
        · exact h
        · exact Nat.lt_trans h (h1 x hx)
      · rintro ⟨h, h1, h2⟩
        exact ⟨h b (by simp), h1, h2⟩

/-- The cells of a byte string lie at its addresses, rise, and leave the zero bytes out. -/
theorem cellsOfNonzero_spec (bs : Bytes) : ∀ a, (cellsOfNonzero a bs).Pairwise (fun x y => x.1 < y.1) ∧
    ∀ c ∈ cellsOfNonzero a bs, a ≤ c.1 ∧ c.1 < a + bs.length ∧ c.2 ≠ 0 := by
  induction bs with
  | nil => simp [cellsOfNonzero]
  | cons b bs ih =>
    intro a
    obtain ⟨h1, h2⟩ := ih (a + 1)
    have h3 : ∀ c ∈ cellsOfNonzero (a + 1) bs, a ≤ c.1 ∧ c.1 < a + (b :: bs).length ∧ c.2 ≠ 0 := by
      intro c hc
      obtain ⟨p, q, r⟩ := h2 c hc
      simp only [List.length_cons]
      exact ⟨by omega, by omega, r⟩
    unfold cellsOfNonzero
    split
    · exact ⟨h1, h3⟩
    · rename_i hb
      refine ⟨List.pairwise_cons.2 ⟨fun x hx => ?_, h1⟩, ?_⟩
      · have := (h2 x hx).1
        simp only
        omega
      · intro c hc
        rcases List.mem_cons.1 hc with rfl | hc
        · simp only [List.length_cons]
          exact ⟨by omega, by omega, hb⟩
        · exact h3 c hc

/-- Splicing rising cells of [a, a + n) into a rising memory leaves it rising. -/
theorem spliceCells_rise (m new : List Host.Cell) (a n : Nat) (hm : m.Pairwise fun x y => x.1 < y.1)
    (hn : new.Pairwise fun x y => x.1 < y.1) (hb : ∀ c ∈ new, a ≤ c.1 ∧ c.1 < a + n) :
    (spliceCells m a n new).Pairwise fun x y => x.1 < y.1 := by
  unfold spliceCells
  refine List.pairwise_append.2 ⟨List.pairwise_append.2 ⟨hm.filter _, hn, ?_⟩, hm.filter _, ?_⟩
  · intro x hx y hy
    have h1 := (List.mem_filter.1 hx).2
    have h2 := hb y hy
    simp only [decide_eq_true_eq] at h1
    omega
  · intro x hx y hy
    have h2 := (List.mem_filter.1 hy).2
    simp only [decide_eq_true_eq] at h2
    rcases List.mem_append.1 hx with hx | hx
    · have h1 := (List.mem_filter.1 hx).2
      simp only [decide_eq_true_eq] at h1
      omega
    · have h1 := hb x hx
      omega

theorem memWf_iff (m : List Host.Cell) :
    memWf m = true ↔ (m.Pairwise fun x y => x.1 < y.1) ∧ ∀ c ∈ m, c.2 ≠ 0 := by
  simp [memWf, cellsRise_iff]

/-- A write keeps the canonical form. -/
theorem memWrite_wf (m : List Host.Cell) (a : Nat) (bs : Bytes) (h : memWf m = true) : memWf (memWrite m a bs) = true := by
  rw [memWf_iff] at *
  obtain ⟨h1, h2⟩ := cellsOfNonzero_spec bs a
  refine ⟨spliceCells_rise _ _ _ _ h.1 h1 (fun c hc => ⟨(h2 c hc).1, (h2 c hc).2.1⟩), ?_⟩
  intro c hc
  simp only [memWrite, spliceCells, List.mem_append, List.mem_filter] at hc
  rcases hc with (hc | hc) | hc
  · exact h.2 c hc.1
  · exact (h2 c hc).2.2
  · exact h.2 c hc.1

/-- Zeroing a range keeps the canonical form. -/
theorem memZero_wf (m : List Host.Cell) (a n : Nat) (h : memWf m = true) : memWf (spliceCells m a n []) = true := by
  rw [memWf_iff] at *
  refine ⟨spliceCells_rise _ _ _ _ h.1 List.Pairwise.nil (by simp), ?_⟩
  intro c hc
  simp only [spliceCells, List.mem_append, List.mem_filter, List.not_mem_nil, or_false] at hc
  rcases hc with hc | hc
  · exact h.2 c hc.1
  · exact h.2 c hc.1

variable (s : State)

/-- The bytes of a write keep it. -/
theorem State.writeBytes_wf (a : Nat) (bs : Bytes) (h : memWf s.mem = true) : memWf (s.writeBytes a bs).mem = true := by
  unfold State.writeBytes
  split
  · exact h
  · exact memWrite_wf _ _ _ h
  · exact memWrite_wf _ _ _ h

/-- Marking what is stored leaves the bytes. -/
@[simp] theorem State.markStored_mem (a n : Nat) (p : Bool) : (s.markStored a n p).mem = s.mem := by
  unfold State.markStored
  split <;> rfl

/-- A line that leaves the home cache keeps it. -/
theorem State.writeBack_wf (l : CacheLine) (h : memWf s.mem = true) : memWf (s.writeBack l).mem = true := by
  unfold State.writeBack
  split
  · simpa using h
  · generalize l.damaged = is
    induction is generalizing s with
    | nil => exact h
    | cons i is ih => exact ih _ (State.writeBytes_wf _ _ _ h)

/-- An access to a line of the home cache keeps it. -/
theorem State.touchLine_wf (b line : Nat) (x : LineAccess) (h : memWf s.mem = true) : memWf (s.touchLine b line x).mem = true := by
  unfold State.touchLine
  split
  exact by split <;> first | exact h | exact State.writeBack_wf _ _ h

/-- Marking a range keeps it. -/
theorem State.mark_wf (a n : Nat) (p : Bool) (h : memWf s.mem = true) : memWf (s.mark a n p).mem = true := by
  unfold State.mark
  split
  · next b hb =>
    clear hb
    generalize linesOf a n = ls
    induction ls generalizing s with
    | nil => exact h
    | cons l ls ih => exact ih _ (State.touchLine_wf _ _ _ _ h)
  · simpa using h

/-- A write to device memory keeps the canonical form of the pools and stacks. -/
theorem State.write_wf (a : Nat) (bs : Bytes) (p : Bool) (h : memWf s.mem = true) : memWf (s.write a bs p).mem = true := by
  exact State.writeBytes_wf _ _ _ (s.mark_wf _ _ _ h)

/-- Zeroing a range keeps it too. -/
theorem State.zeroRange_wf (a n : Nat) (h : memWf s.mem = true) : memWf (s.zeroRange a n).mem = true := memZero_wf _ _ _ h

/-- A put, which a LOST port discards, keeps it. -/
theorem State.put_wf (a : Nat) (bs : Bytes) (p : Bool) (h : memWf s.mem = true) : memWf (s.put a bs p).mem = true := by
  unfold State.put
  split
  · split
    · obtain ⟨cs, e⟩ := s.bump_counters 6 _ 1 (units64 a bs.length)
      rw [e]
      exact h
    · exact s.write_wf _ _ _ h
  · exact s.write_wf _ _ _ h

end Sys2Proof.Machine
end

