-- ==== Sys2Proof/Laws/Host.lean ====
section
/-! SUPPORT. What answering a command leaves: one lemma for each shared operation of a mailbox command (`command`, `respond`,
`reply`, `accept`, `finish`), in the terms of Sys2Proof/Safety.lean. -/

namespace Sys2Proof.Machine

variable (s : State)

@[simp] theorem State.now_mailbox (t f m : Nat) : (s.now t).mailbox f m = s.mailbox f m := rfl
@[simp] theorem State.now_nextCommand (t : Nat) : (s.now t).nextCommand = s.nextCommand := rfl
@[simp] theorem State.now_answers (t : Nat) : (s.now t).answers = s.answers := rfl
@[simp] theorem State.now_headCommand (t f m : Nat) : (s.now t).headCommand f m = s.headCommand f m := rfl
@[simp] theorem State.now_headTicket (t f m : Nat) : (s.now t).headTicket f m = s.headTicket f m := rfl
@[simp] theorem State.now_gate (t f : Nat) (k : CmdSpec) (c : Bytes) : (s.now t).gate f k c = s.gate f k c := rfl

/-- Where the mailboxes of a function lie outside the lists, they are the empty mailbox. -/
theorem State.mailbox_valid (f m : Nat) (h : s.mailbox f m ≠ {}) : f < s.funcs.length ∧ m < (s.func f).mailboxes.length := by
  by_cases h1 : f < s.funcs.length
  · refine ⟨h1, ?_⟩
    by_cases h2 : m < (s.func f).mailboxes.length
    · exact h2
    · exact absurd (getD_ge _ _ _ h2) h
  · exfalso
    apply h
    have : s.func f = {} := getD_ge _ _ _ h1
    unfold State.mailbox
    rw [this]
    match m with
    | 0 | 1 | 2 | 3 => rfl
    | n + 4 => rfl

/-- A mailbox whose command waits exists. -/
theorem State.commandWaits_valid (f m : Nat) (h : s.commandWaits f m = true) :
    f < s.funcs.length ∧ m < (s.func f).mailboxes.length := by
  apply s.mailbox_valid
  intro e
  unfold State.commandWaits at h
  rw [e] at h
  simp at h

/-- The next command's mailbox exists. -/
theorem State.nextCommand_waits (f m : Nat) (h : s.nextCommand = some (f, m)) : s.commandWaits f m = true := by
  unfold State.nextCommand at h
  split at h
  · rename_i g hg
    simp only [Option.some.injEq, Prod.mk.injEq] at h
    obtain ⟨rfl, rfl⟩ := h
    simpa using List.find?_some hg
  · obtain ⟨i, _, hi⟩ := List.exists_of_findSome?_eq_some h
    split at hi
    · rename_i hw
      simp only [Option.some.injEq, Prod.mk.injEq] at hi
      obtain ⟨rfl, rfl⟩ := hi
      exact hw
    · cases hi

theorem State.nextCommand_valid (f m : Nat) (h : s.nextCommand = some (f, m)) :
    f < s.funcs.length ∧ m < (s.func f).mailboxes.length := s.commandWaits_valid f m (s.nextCommand_waits f m h)

/-! ### The decision point -/

/-- The state after a command has left its mailbox: its mailbox, and the turn of the round-robin. -/
theorem State.takeCommand_eq (f m : Nat) : ∃ o, s.takeCommand f m =
    { s with funcs := (s.modMailbox f m fun x => { x with head := x.head + 1, oldestOpen := o }).funcs
             lastServed := if m = 0 then s.lastServed else (f, m) } := by
  refine ⟨(s.modMailbox f m fun x => { x with head := x.head + 1 }).oldestOpenOf f m, ?_⟩
  have e : ∀ (o : BitVec 16), ((s.modMailbox f m fun x => { x with head := x.head + 1 }).modMailbox f m fun x => { x with oldestOpen := o }).funcs =
      (s.modMailbox f m fun x => { x with head := x.head + 1, oldestOpen := o }).funcs := by
    intro o
    simp only [State.modMailbox, State.modFunc, List.modify_modify_eq, Function.comp_def]
  unfold State.takeCommand State.refreshOldest
  dsimp only
  rw [← e]
  split <;> simp [*, State.modMailbox, State.modFunc]

theorem State.takeCommand_gate (f m g : Nat) (k : CmdSpec) (c : Bytes) : (s.takeCommand f m).gate g k c = s.gate g k c := by
  obtain ⟨o, e⟩ := s.takeCommand_eq f m
  rw [e]
  rfl

/-- A command that passes the gate goes on with its own conditions and effect. -/
theorem State.command_passes (t f m : Nat) (k : CmdSpec) (go : State → Ticket → Bytes → State) (h : s.passes f m k) :
    (s.now t).command f m k go = go ((s.now t).takeCommand f m) (s.headTicket f m) (s.headCommand f m) := by
  obtain ⟨h1, h2, h3, h4⟩ := h
  have h5 : ((s.now t).takeCommand f m).gate f k (s.headCommand f m) = none := by
    rw [State.takeCommand_gate]
    exact h4
  unfold State.command State.decide
  simp only [State.now_answers, State.now_nextCommand, h1, h2, beq_self_eq_true, Bool.and_self, if_true]
  have e : (s.now t).commandBytes f m ((s.now t).mailbox f m).head.toNat = s.headCommand f m := rfl
  have e2 : ticketOf f m ((s.now t).mailbox f m).head (s.headCommand f m) = s.headTicket f m := rfl
  rw [e, e2]
  simp only [h3, beq_self_eq_true, if_true]
  rw [h5]

/-! ### Responses -/

theorem find_append_new {α : Type} (l : List (Nat × α)) (j : Nat) (x : α) :
    ((l.filter fun y => y.1 != j) ++ [(j, x)]).find? (fun y => y.1 == j) = some (j, x) := by
  rw [List.find?_append]
  have : (l.filter fun y => y.1 != j).find? (fun y => y.1 == j) = none := by
    rw [List.find?_eq_none]
    intro y hy
    simpa using (List.mem_filter.1 hy).2
  rw [this]
  simp

theorem find_append_other {α : Type} (l : List (Nat × α)) (i j : Nat) (x : α) (h : j ≠ i) :
    ((l.filter fun y => y.1 != i) ++ [(i, x)]).find? (fun y => y.1 == j) = l.find? fun y => y.1 == j := by
  rw [List.find?_append, List.find?_filter]
  rw [show (fun a : Nat × α => decide (((a.1 != i) = true) ∧ ((a.1 == j) = true))) = fun y => y.1 == j from by
    funext y
    by_cases hy : y.1 = j <;> simp [hy, h]]
  cases l.find? fun y => y.1 == j with
  | some y => rfl
  | none =>
    have hij : ¬ i = j := fun hij => h hij.symm
    simp [hij]

/-- An interrupt is a message, or a pending bit of its function. -/
theorem State.signal_eq (f v : Nat) : ∃ (g : BitVec 64 → BitVec 64) (ms : List (Nat × Nat)), s.signal f v =
    { s with funcs := (s.modFunc f fun x => { x with msixPending := g x.msixPending }).funcs, msix := ms } := by
  unfold State.signal
  split
  · refine ⟨id, s.msix ++ [(f, v)], ?_⟩
    have : (s.modFunc f fun x => { x with msixPending := id x.msixPending }).funcs = s.funcs :=
      List.ext_getElem? fun i => by
        simp only [State.modFunc, List.getElem?_modify, id]
        split <;> simp
    rw [this]
  · exact ⟨fun p => p ||| BitVec.ofNat 64 (2 ^ v), s.msix, rfl⟩

/-- The list of response slots after slot `j` was written. -/
def putResponse (m : Mailbox) (j : Nat) (r : RespSlot) : Mailbox :=
  { m with responses := (m.responses.filter fun x => x.1 != j) ++ [(j, r)] }

@[simp] theorem putResponse_new (m : Mailbox) (j : Nat) (r : RespSlot) : (putResponse m j r).response j = r := by
  unfold Mailbox.response putResponse
  rw [find_append_new]
  rfl

theorem putResponse_other (m : Mailbox) (i j : Nat) (r : RespSlot) (h : j ≠ i) :
    (putResponse m i r).response j = m.response j := by
  unfold Mailbox.response putResponse
  rw [find_append_other _ _ _ _ h]

/-- A response is a write of one response slot of its mailbox and an interrupt (R312, R317). -/
theorem State.respond_eq (t : Ticket) (st : Status) (r : Bytes) (h : t.discarded = false) : ∃ (g : BitVec 64 → BitVec 64) (ms : List (Nat × Nat)), s.respond t st r =
    { s with
      funcs := s.funcs.modify t.fn fun x =>
        { x with mailboxes := x.mailboxes.modify t.mb fun m => putResponse m (t.index.toNat % 256) (responseOf s t st r)
                 msixPending := g x.msixPending }
      msix := ms } := by
  unfold State.respond
  simp only [h, Bool.false_eq_true, if_false]
  obtain ⟨g, ms, e⟩ := (s.modMailbox t.fn t.mb fun m => putResponse m (t.index.toNat % 256) (responseOf s t st r)).signal_eq t.fn t.mb
  refine ⟨g, ms, ?_⟩
  have e1 : (s.modMailbox t.fn t.mb fun m =>
      { m with responses := (m.responses.filter fun x => x.1 != t.index.toNat % 256) ++ [(t.index.toNat % 256, responseOf s t st r)] }) =
      s.modMailbox t.fn t.mb fun m => putResponse m (t.index.toNat % 256) (responseOf s t st r) := rfl
  unfold responseOf at e1 e
  rw [e1, e]
  simp only [State.modMailbox, State.modFunc, List.modify_modify_eq]
  rfl

/-- A function's registers after its mailbox `m` and its pending interrupts changed. -/
theorem funcs_modify (l : List Func) (f m : Nat) (k : Mailbox → Mailbox) (g : BitVec 64 → BitVec 64)
    (hf : f < l.length) (hm : m < (l.getD f {}).mailboxes.length) :
    let l' := l.modify f fun x => { x with mailboxes := x.mailboxes.modify m k, msixPending := g x.msixPending }
    (l'.getD f {}).mailboxes.getD m {} = k ((l.getD f {}).mailboxes.getD m {}) ∧
    (∀ h n, (h, n) ≠ (f, m) → (l'.getD h {}).mailboxes.getD n {} = (l.getD h {}).mailboxes.getD n {}) ∧
    (∀ h, h ≠ f → l'.getD h {} = l.getD h {}) ∧ (l'.getD f {}).alerts = (l.getD f {}).alerts ∧
    (l'.getD f {}).mask = (l.getD f {}).mask ∧ (l'.getD f {}).msixTable = (l.getD f {}).msixTable ∧
    (l'.getD f {}).config = (l.getD f {}).config := by
  intro l'
  have e : l'.getD f {} = _ := getD_modify_self l f _ {} hf
  have n : ∀ h, h ≠ f → l'.getD h {} = l.getD h {} := fun h hh => getD_modify_ne l f h _ {} (fun q => hh q.symm)
  refine ⟨?_, ?_, n, ?_, ?_, ?_, ?_⟩
  · rw [e]
    exact getD_modify_self _ m k {} hm
  · intro h i hi
    by_cases hh : h = f
    · subst hh
      rw [e]
      exact getD_modify_ne _ m i k {} (fun q => hi (by rw [q]))
    · rw [n h hh]
  all_goals rw [e]

/-- An immediate answer, and what a meaning changed before it: `w` is the state it answers in. -/
theorem State.replies {s v w : State} {t f m : Nat} {st : Status} {r : Bytes} {o : BitVec 16}
    (h : s.nextCommand = some (f, m))
    (hw : w = { v with time := max s.time t
                       funcs := (s.modMailbox f m fun x => { x with head := x.head + 1, oldestOpen := o }).funcs
                       lastServed := if m = 0 then s.lastServed else (f, m) })
    (hp : v.pending = s.pending) :
    Replies s v { w.reply (s.headTicket f m) st r with time := max s.time t, pending := s.pending } t f m st r := by
  obtain ⟨hf, hm⟩ := s.nextCommand_valid f m h
  obtain ⟨g, ms, e⟩ := w.respond_eq (s.headTicket f m) st r rfl
  have e' : w.reply (s.headTicket f m) st r = _ := e
  rw [e']
  clear e e'
  have ef : w.funcs = (s.modMailbox f m fun x => { x with head := x.head + 1, oldestOpen := o }).funcs := by rw [hw]
  have e2 : (w.funcs.modify (s.headTicket f m).fn fun x =>
        { x with mailboxes := x.mailboxes.modify (s.headTicket f m).mb fun b =>
                   putResponse b ((s.headTicket f m).index.toNat % 256) (responseOf w (s.headTicket f m) st r)
                 msixPending := g x.msixPending }) =
      s.funcs.modify f fun x =>
        { x with mailboxes := x.mailboxes.modify m fun b =>
                   putResponse { b with head := b.head + 1, oldestOpen := o } ((s.mailbox f m).head.toNat % 256) (responseOf w (s.headTicket f m) st r)
                 msixPending := g x.msixPending } := by
    rw [ef]
    simp only [State.modMailbox, State.modFunc, State.headTicket, ticketOf, List.modify_modify_eq, Function.comp_def]
  obtain ⟨k1, k2, k3, k4, k5, k6⟩ := funcs_modify s.funcs f m
    (fun b => putResponse { b with head := b.head + 1, oldestOpen := o } ((s.mailbox f m).head.toNat % 256) (responseOf w (s.headTicket f m) st r)) g hf hm
  rw [e2]
  have k1' : ∀ u : State, u.funcs = (s.funcs.modify f fun x =>
        { x with mailboxes := x.mailboxes.modify m fun b =>
                   putResponse { b with head := b.head + 1, oldestOpen := o } ((s.mailbox f m).head.toNat % 256) (responseOf w (s.headTicket f m) st r)
                 msixPending := g x.msixPending }) →
      u.mailbox f m = putResponse { s.mailbox f m with head := (s.mailbox f m).head + 1, oldestOpen := o } ((s.mailbox f m).head.toNat % 256) (responseOf w (s.headTicket f m) st r) := by
    intro u hu
    show (u.funcs.getD f {}).mailboxes.getD m {} = _
    rw [hu, k1]
    rfl
  refine ⟨⟨?_, ?_, ?_, ?_, ?_, k4, k5, k6⟩, ?_⟩
  · rw [k1' _ rfl]
    rfl
  · rw [k1' _ rfl, putResponse_new]
    rfl
  · intro j hj
    rw [k1' _ rfl, putResponse_other _ _ _ _ hj]
    rfl
  · exact k2
  · exact k3
  · rw [hw]
    simp only [hp]

/-- A command that stays open is appended to the open commands, and its mailbox's OldestOpen follows (R335). -/
theorem State.openCommand_eq (t : Ticket) (k : OpenKind) : ∃ o : BitVec 16, s.openCommand t k =
    { s with opens := s.opens ++ [⟨t, k⟩], funcs := (s.modMailbox t.fn t.mb fun x => { x with oldestOpen := o }).funcs } :=
  ⟨_, rfl⟩

/-- The state in which a command after its gate goes on: its mailbox's head moved on, the turn noted. -/
def State.taken (v s : State) (t f m : Nat) (o : BitVec 16) : State :=
  { v with time := max s.time t
           funcs := (s.modMailbox f m fun x => { x with head := x.head + 1, oldestOpen := o }).funcs
           lastServed := if m = 0 then s.lastServed else (f, m) }

theorem State.takeCommand_taken (t f m : Nat) : ∃ o : BitVec 16, (s.now t).takeCommand f m = s.taken s t f m o := by
  obtain ⟨o, e⟩ := (s.now t).takeCommand_eq f m
  exact ⟨o, e⟩

/-- Opening a command on the state it was taken in. -/
theorem State.taken_open (v : State) (t f m : Nat) (o : BitVec 16) (k : OpenKind) : ∃ o' : BitVec 16,
    (v.taken s t f m o).openCommand (s.headTicket f m) k =
      ({ v with opens := v.opens ++ [⟨s.headTicket f m, k⟩] } : State).taken s t f m o' := by
  obtain ⟨o', e⟩ := (v.taken s t f m o).openCommand_eq (s.headTicket f m) k
  refine ⟨o', ?_⟩
  rw [e]
  simp only [State.taken, State.headTicket, ticketOf, State.modMailbox, State.modFunc, List.modify_modify_eq, Function.comp_def]

/-- The final response of an open command (R312, R335). -/
theorem State.finishes {s v w : State} {t : Nat} {o : OpenCmd} {st : Status} {r : Bytes}
    (h : s.ticketOk o.ticket) (hw : w = { v with time := max s.time t, funcs := s.funcs }) (hp : v.pending = s.pending) :
    Finishes s v { w.finish o st r with time := max s.time t, pending := s.pending } t o st r := by
  obtain ⟨hd, hf, hm⟩ := h
  obtain ⟨g, ms, e⟩ := ({ w with opens := w.opens.filter fun x => x != o } : State).respond_eq o.ticket st r hd
  have e' : w.finish o st r = (({ w with opens := w.opens.filter fun x => x != o } : State).respond o.ticket st r).refreshOldest o.ticket.fn o.ticket.mb := rfl
  generalize hq : (({ w with opens := w.opens.filter fun x => x != o } : State).respond o.ticket st r).oldestOpenOf o.ticket.fn o.ticket.mb = q at *
  have e3 : w.finish o st r = (({ w with opens := w.opens.filter fun x => x != o } : State).respond o.ticket st r).modMailbox o.ticket.fn o.ticket.mb
      fun x => { x with oldestOpen := q } := by
    rw [e', ← hq]
    rfl
  rw [e3, e]
  clear e e' e3 hq
  have ef : w.funcs = s.funcs := by rw [hw]
  obtain ⟨k1, k2, k3, k4, k5, k6⟩ := funcs_modify s.funcs o.ticket.fn o.ticket.mb
    (fun b => { putResponse b (o.ticket.index.toNat % 256)
      (responseOf { w with opens := w.opens.filter fun x => x != o } o.ticket st r) with oldestOpen := q }) g hf hm
  simp only [State.modMailbox, State.modFunc, List.modify_modify_eq, Function.comp_def, ef]
  have k1' : ∀ u : State, u.funcs = (s.funcs.modify o.ticket.fn fun x =>
        { x with mailboxes := x.mailboxes.modify o.ticket.mb fun b =>
                   { putResponse b (o.ticket.index.toNat % 256)
                       (responseOf { w with opens := w.opens.filter fun x => x != o } o.ticket st r) with oldestOpen := q }
                 msixPending := g x.msixPending }) →
      u.mailbox o.ticket.fn o.ticket.mb = { putResponse (s.mailbox o.ticket.fn o.ticket.mb) (o.ticket.index.toNat % 256)
        (responseOf { w with opens := w.opens.filter fun x => x != o } o.ticket st r) with oldestOpen := q } := by
    intro u hu
    show (u.funcs.getD o.ticket.fn {}).mailboxes.getD o.ticket.mb {} = _
    rw [hu, k1]
    rfl
  refine ⟨?_, ?_, ?_, ⟨?_, ?_, k4, k5, k6⟩, ?_⟩
  · rw [k1' _ rfl]
    rfl
  · rw [k1' _ rfl]
    show (putResponse _ _ _).response _ = _
    rw [putResponse_new]
    rfl
  · intro j hj
    rw [k1' _ rfl]
    show (putResponse _ _ _).response _ = _
    rw [putResponse_other _ _ _ _ hj]
  · exact k2
  · exact k3
  · rw [hw]
    simp only [hp]

end Sys2Proof.Machine
end

