-- ==== Sys2Proof/Tests/Slice0.lean ====
section
/-! SUPPORT. Small tests: terms that are not well formed, figures that the manual works out, words of tables written out by
hand, and for each statement with hypotheses a state and operands that meet them. -/

open Sys2Proof Sys2Proof.Machine

namespace Sys2Proof.Tests

-- The tests are checked one after the other: checked side by side, each waits in a thread of its own for the kernel.
set_option Elab.async false

/-! ### Terms that are not well formed, one for each check -/

theorem test_wf_okTime : Instr.wf (.pointSettled (2 ^ 64)) = false := by decide +kernel
theorem test_wf_okFn : Instr.wf (.doorbell 0 9 0 0) = false := by decide +kernel
theorem test_wf_okMailbox : Instr.wf (.doorbell 0 0 4 0) = false := by decide +kernel
theorem test_wf_okBasin : Instr.wf (.drainComplete 0 8) = false := by decide +kernel
theorem test_wf_okSlot : Instr.wf (.wait 0 0 16) = false := by decide +kernel
theorem test_wf_okPartition : Instr.wf (.plannedStill 0 8) = false := by decide +kernel
theorem test_wf_okCxlPort : Instr.wf (.cxlUnplug 0 8) = false := by decide +kernel
theorem test_wf_okSubPort : Instr.wf (.frameSend 0 48) = false := by decide +kernel
theorem test_wf_okContext : Instr.wf (.probeTimeout 0 16384) = false := by decide +kernel
theorem test_wf_okClass : Instr.wf (.resendTimeout 0 0 4) = false := by decide +kernel
theorem test_wf_okTable : Instr.wf (.tableLoadComplete 0 8) = false := by decide +kernel
theorem test_wf_okStack : Instr.wf (.stackRecalibration 0 24 false) = false := by decide +kernel
theorem test_wf_okAlert : Instr.wf (.alertRegisterWrite 0 0 17 0) = false := by decide +kernel
theorem test_wf_okByte : Instr.wf (.setEndpointId 0 256) = false := by decide +kernel
theorem test_wf_okHalf : Instr.wf (.doorbell 0 0 0 65536) = false := by decide +kernel
theorem test_wf_okWord : Instr.wf (.overrunClear 0 0 0 (2 ^ 32)) = false := by decide +kernel
theorem test_wf_okAddress : Instr.wf (.cxlReadCompletion 0 0 (2 ^ 48) false) = false := by decide +kernel
theorem test_wf_okOffset : Instr.wf (.registerWrite 0 0 (2 ^ 32) []) = false := by decide +kernel
theorem test_wf_okSymbols : Instr.wf (.patrolScrub 0 0 37 0) = false := by decide +kernel
theorem test_wf_okLanes : Instr.wf (.cxlLinkUp 0 0 0 64 3 false) = false := by decide +kernel
theorem test_wf_okDynamic : Instr.wf (.setdasa 0 128) = false := by decide +kernel
theorem test_wf_okFeed : Instr.wf (.perstLRelease 0 64 false) = false := by decide +kernel
theorem test_wf_okErr : Instr.wf (.add 0 0 0 [.poolCorrected (2 ^ 48)]) = false := by decide +kernel
theorem test_wf_okErrs_last : Instr.wf (.add 0 0 0 [.tile 0 false, .stackSymbols 0 37 0]) = false := by decide +kernel
theorem test_wf_okFrame : Instr.wf (.dataFrameNak 0 0 [] ⟨0, false⟩) = false := by decide +kernel
theorem test_wf_okAccess : Instr.wf (.registerWrite 0 0 0 (List.replicate 65 0)) = false := by decide +kernel
theorem test_wf_okStacks : Instr.wf (.calibrationComplete 0 0 [24]) = false := by decide +kernel
theorem test_wf_okFailedLanes : Instr.wf (.trainingComplete 0 0 [8]) = false := by decide +kernel
theorem test_wf_okSource : Instr.wf (.messageForward 0 (.port 48 0 0)) = false := by decide +kernel
theorem test_wf_okSource_vc : Instr.wf (.messageForward 0 (.port 0 0 2)) = false := by decide +kernel
theorem test_wf_okReadings : Instr.wf (.monitorWindow 0 [] true) = false := by decide +kernel
theorem test_wf_okBoot : Instr.wf (.bootComplete 0 ⟨true, true, true, true, true, [24]⟩) = false := by decide +kernel
theorem test_wf_okBlock : Instr.wf (.sharedBlockFault 0 (.folhamPort 12)) = false := by decide +kernel
theorem test_wf_okAnswer : Instr.wf (.restoreBegin 0 0 0 (some ⟨[], []⟩)) = false := by decide +kernel

/-- A host buffer of more than 2 GiB (Table 15.1). -/
theorem test_wf_okBuf (b : Bytes) (h : 2 ^ 31 < b.length) : Instr.wf (.segmentSet 0 0 0 (some b)) = false := by
  simp only [Instr.wf, okBuf, Option.all_some, Bool.and_eq_false_iff, decide_eq_false_iff_not, Nat.not_le]
  exact .inr h
theorem test_wf_accepts : Instr.wf (.patrolScrub 5 23 36 1) = true := by decide +kernel
theorem test_decode_none : decodeTableWord 32 0x1234 = none := rfl

/-! ### The states of the witnesses -/

/-- Partition 0 is open with basin 0, ACTIVE, CXL port 0 and the peer contexts 0 to 15. -/
def opened : State :=
  { State.reset with
    partitions := { isOpen := true, basins := 1, ports := 1, peerCount := 16 } :: List.replicate 7 {}
    basins := { state := .active } :: List.replicate 7 {} }

/-- A command of opcode `op` stands at the head of mailbox (f, m); `args` are its other bytes that are not 0, by offset. -/
def placed (s : State) (f m op : Nat) (args : List Host.Cell) : State :=
  s.modMailbox f m fun x =>
    { x with tail := 1, commands := (0, BitVec.ofNat 8 op) :: (1, BitVec.ofNat 8 (op / 256)) :: args }

/-- The command stands in mailbox 0 of the physical function. -/
def cmd (s : State) (op : Nat) (args : List Host.Cell) : State := placed s 0 0 op args

/-- The ticket of a command of that mailbox. -/
def ticket : Ticket := { fn := 0, mb := 0, index := 0, opcode := 0, tag := 0 }

/-- A deferred command of the kind is open. -/
def deferred (s : State) (k : OpenKind) : State := { s with opens := [⟨ticket, k⟩] }

/-- Slot (0, 0) is in a State, with a length and a position of its stream. -/
def slotIn (s : State) (x : SlotState) : State :=
  s.modSlot 0 0 fun y => { y with state := x, length := 64, streamOff := 0x1000, segs := [{}, ⟨0x20000000000, 0x100000, true, true⟩, {}, {}] }

/-! ### Witnesses: the block and its tasks -/

theorem test_hyp_StepTakesFront : State.reset.pending = [] := by decide +kernel

theorem test_hyp_StepKeepsMemoryCanonical : opened.memoryOk = true ∧ ∃ u, step { opened with pending := [.pointSettled 5] } = .next u :=
  ⟨by decide +kernel, _, rfl⟩

theorem test_hyp_StepKeepsUnits : opened.shaped = true ∧ ∃ u, step opened = .next u := ⟨by decide +kernel, _, rfl⟩

/-- What a partition of `opened` holds. -/
theorem opened_holds (p b : Nat) (h : opened.holdsBasin p b = true) : p = 0 ∧ b = 0 := by
  have hp : p < 8 := by
    refine Nat.lt_of_not_le fun hp => ?_
    have : opened.partition p = {} := by
      rw [State.partition, List.getD_eq_getElem?_getD, List.getElem?_eq_none (show opened.partitions.length ≤ p from hp)]; rfl
    simp [State.holdsBasin, this] at h
  have hb : b < 8 := by
    refine Nat.lt_of_not_le fun hb => ?_
    rw [State.holdsBasin, BitVec.getLsbD_of_ge _ _ hb, Bool.and_false] at h
    cases h
  have all : ∀ p < 8, ∀ b < 8, opened.holdsBasin p b = true → p = 0 ∧ b = 0 := by decide +kernel
  exact all p hp b hb h

theorem test_hyp_StepKeepsBasinsExclusive : opened.exclusive ∧ ∃ u, step opened = .next u := by
  refine ⟨⟨fun p q b hp hq => ?_, fun p b h => ?_⟩, _, rfl⟩
  · rw [(opened_holds p b hp).1, (opened_holds q b hq).1]
  · rw [(opened_holds p b h).2]; decide +kernel

theorem test_hyp_MemoryReadsBackWrites : 0x0FFFFFFFFFFE + ([1, 2] : Bytes).length ≤ 0x100000000000 ∧ 7 < 8 ∧
    cxlBase 7 ≤ cxlBase 8 - 1 ∧ cxlBase 8 - 1 + ([1] : Bytes).length ≤ cxlBase (7 + 1) ∧ 7 < opened.cxl.length := by decide +kernel

theorem test_hyp_TaskStartRuns :
    ((cmd opened 0x0403 [(8, 8)]).passes 0 0 specTaskStart ∧ 7 < fieldB ((cmd opened 0x0403 [(8, 8)]).headCommand 0 0) 8 1) ∧
    ((cmd opened 0x0403 []).passes 0 0 specTaskStart ∧ ((cmd opened 0x0403 []).slot 0 0).state = .empty) ∧
    ((cmd (slotIn opened .running) 0x0403 []).passes 0 0 specTaskStart ∧
      ((cmd (slotIn opened .running) 0x0403 []).slot 0 0).isUsed = true) ∧
    ∃ s : State, s.passes 0 0 specTaskStart ∧ fieldB (s.headCommand 0 0) 8 1 = 0 ∧ fieldB (s.headCommand 0 0) 9 1 = 0 ∧
      fieldB (s.headCommand 0 0) 10 1 = 3 ∧ (s.slot 0 0).state = .loaded ∧ (s.slot 0 0).clearing = false ∧ s.recordWaits 0 0 = false ∧
      bit (fieldB (s.headCommand 0 0) 24 32) 255 = true ∧
      ∀ j < 256, bit (fieldB (s.headCommand 0 0) 24 32) j = true → s.ownedElsewhere 0 0 j = false := by
  refine ⟨?_, ?_, ?_, cmd (slotIn opened .loaded) 0x0403 [(10, 3), (55, 0x80)], ?_⟩ <;>
    unfold State.passes <;> decide +kernel

theorem test_hyp_TaskStartRuns_waits :
    (∃ s : State, s.passes 0 0 specTaskStart ∧ (s.slot 0 0).state = .loaded ∧ s.recordWaits 0 0 = true) ∧
    ∃ s : State, s.passes 0 0 specTaskStart ∧ (s.slot 0 0).state = .loaded ∧ (s.slot 0 0).clearing = false ∧ s.recordWaits 0 0 = false ∧
      bit (fieldB (s.headCommand 0 0) 24 32) 0 = true ∧ s.ownedElsewhere 0 0 0 = true := by
  refine ⟨⟨(cmd (slotIn opened .loaded) 0x0403 []).modMailbox 0 0 fun x => { x with waiting := [⟨.slot 0 0, []⟩] }, ?_⟩,
    ((cmd (slotIn opened .loaded) 0x0403 [(24, 1)]).modCell 0 0 fun x => { x with owned := true, owner := 15 }).modSlot 0 15
      fun x => { x with state := .running }, ?_⟩ <;>
    unfold State.passes <;> decide +kernel

/-- Slot (0, 15) is being cleared, and its TASK_STOP is open. -/
def stopping : State :=
  (deferred opened (.taskStop 0 15)).modSlot 0 15 fun x => { x with state := .running, clearing := true }

theorem test_hyp_TaskStopClears :
    ((cmd opened 0x0404 [(9, 15)]).passes 0 0 specTaskStop ∧ ((cmd opened 0x0404 [(9, 15)]).slot 0 15).isUsed = false) ∧
    ((cmd (slotIn opened .running) 0x0404 []).passes 0 0 specTaskStop ∧ (cmd (slotIn opened .running) 0x0404 []).switchOpen = false ∧
      ((cmd (slotIn opened .running) 0x0404 []).slot 0 0).isUsed = true ∧
      ((cmd (slotIn opened .running) 0x0404 []).slot 0 0).clearing = false) ∧
    (stopping.alive = true ∧ (stopping.slot 0 15).clearing = true ∧ stopping.slotFlights 0 15 = [] ∧
      (stopping.basin 0).mere.staged = none ∧ stopping.passesOn 0 = [] ∧
      (stopping.opens.filter fun x => x.kind == .taskStop 0 15) = [⟨ticket, .taskStop 0 15⟩] ∧ stopping.ticketOk ticket) ∧
    (cmd opened 0x0405 [(9, 15)]).passes 0 0 specTaskQuery := by
  unfold State.passes State.ticketOk; decide +kernel

/-! ### Witnesses: the host's registers, the device and its partitions -/

theorem test_hyp_AlertOccurrence : opened.shaped = true ∧ 16 < 17 ∧ 255 < 256 ∧ opened.seesAlert 1 10 0 = true ∧
    opened.seesAlert 2 10 0 = false := by decide +kernel

theorem test_hyp_MailboxRegisterWrites : (opened.now 5).mailboxesUp = true ∧ 8 ≤ 8 ∧ 8 < opened.funcs.length ∧
    3 < (opened.func 8).mailboxes.length ∧ 65535 < 65536 := by decide +kernel

theorem test_hyp_AlertRegisterWrites : (opened.now 5).hostUp = true ∧ opened.shaped = true ∧ 0 % 65536 = (opened.alert 8 16).count.toNat := by
  decide +kernel

theorem test_hyp_BarAccesses : (opened.now 5).mailboxesUp = true ∧ opened.memoryOk = true ∧ opened.shaped = true ∧
    accessSupported 0x1000000 4 true = false ∧ accessSupported (0x10000 * (3 + 1) + 0x3FFF) ([1] : Bytes).length true = true ∧
    accessSupported 0x10000 64 true = true ∧ 0x50000 % 4 = 0 ∧ 0xFFFFFC + 4 ≤ 0x1000000 := by decide +kernel

theorem test_hyp_HostRequests :
    (∃ s : State, s.perst = false ∧ s.failedBlocks.contains .hostEndpoint = false ∧ s.power = .boot ∧
      max s.time 424999999 < s.bootStart + 425000000) ∧
    (opened.perst = false ∧ opened.failedBlocks.contains .hostEndpoint = false ∧ opened.power ≠ .off ∧ opened.power ≠ .boot) ∧
    ((cmd opened 0x0A08 []).answers = true ∧ (cmd opened 0x0A08 []).nextCommand = some (0, 0) ∧
      opcodeDefined (fieldB ((cmd opened 0x0A08 []).headCommand 0 0) 0 2) = false) ∧
    (opened.now 0).hostUp = true ∧ opened.shaped = true := by
  refine ⟨⟨{ State.reset with power := .boot }, ?_⟩, ?_⟩ <;> decide +kernel

theorem test_hyp_DeviceQueryAnswers :
    (∀ s ∈ [cmd opened 0x0101 [(8, 7)], cmd opened 0x0101 [(8, 8)], cmd opened 0x0101 [(8, 0xFF)]],
      s.answers = true ∧ s.nextCommand = some (0, 0) ∧ fieldB (s.headCommand 0 0) 0 2 = 0x0101 ∧
        allZero (sliceB (s.headCommand 0 0) 4 4) = true ∧ allZero (sliceB (s.headCommand 0 0) 9 55) = true) ∧
    ∀ s ∈ [placed opened 8 3 0x0101 [(8, 6)], placed opened 8 3 0x0101 [(8, 7)]],
      s.answers = true ∧ s.nextCommand = some (8, 3) ∧ fieldB (s.headCommand 8 3) 0 2 = 0x0101 ∧
        allZero (sliceB (s.headCommand 8 3) 4 4) = true ∧ allZero (sliceB (s.headCommand 8 3) 9 55) = true := by decide +kernel

theorem test_hyp_HoldReleaseAndPoints :
    (let s := cmd { State.reset with power := .held, subPorts := List.replicate 48 {} } 0x0102 [];
      s.passes 0 0 specHoldRelease ∧ s.shaped = true ∧ (∀ i < 48, s.sub i = {}) ∧ s.router.waiting = []) ∧
    (∀ p ∈ [0, 1, 2, 3, 4], (cmd opened 0x0103 [(8, p)]).passes 0 0 specOperatingPointSet) ∧
    (opened.point = 1 ∧ opened.ramp = none ∧ opened.switchOpen = false ∧ ¬ 300 < opened.inlet) ∧
    (cmd { opened with ramp := some ⟨2, true⟩ } 0x0103 [(8, 3)]).passes 0 0 specOperatingPointSet ∧
    (cmd { opened with inlet := 301 } 0x0103 [(8, 3)]).passes 0 0 specOperatingPointSet ∧
    (deferred { opened with ramp := some ⟨3, true⟩ } .operatingPoint).findOpen (fun k => k == .operatingPoint) = some ⟨ticket, .operatingPoint⟩ ∧
    (deferred { opened with ramp := some ⟨3, true⟩ } .operatingPoint).ticketOk ticket := by
  unfold State.passes State.ticketOk; and_intros <;> decide +kernel

/-- Basin 7 comes to partition 7 with port 7, which is ONLINE, and the last peer context. -/
def opening (p : Byte) : State :=
  cmd (opened.modPort 7 fun x => { x with state := .online }) 0x0201 [(8, p), (9, 0x80), (10, 0x80), (12, 0xFF), (13, 0x3F), (14, 1)]

theorem test_hyp_PartitionOpens :
    ((opening 7).passes 0 0 specPartitionOpen ∧ (opening 7).shaped = true ∧ ((opening 7).partition 7).isOpen = false ∧
      (∀ b < 8, bit (fieldB ((opening 7).headCommand 0 0) 9 1) b = true →
        ((opening 7).basin b).state = .idle ∧ (opening 7).busyBasin b = false) ∧
      (∀ q < 8, bit (fieldB ((opening 7).headCommand 0 0) 10 1) q = true →
        ((opening 7).port q).state = .online ∧ (opening 7).holderOf q = none) ∧
      fieldB ((opening 7).headCommand 0 0) 12 2 + fieldB ((opening 7).headCommand 0 0) 14 2 = 16384 ∧
      ∀ y ∈ (opening 7).partitions, y.isOpen = true → ¬ 16383 < y.peerBase + y.peerCount) ∧
    ((opening 0).answers = true ∧ (opening 0).nextCommand = some (0, 0) ∧ fieldB ((opening 0).headCommand 0 0) 0 2 = 0x0201 ∧
      allZero (sliceB ((opening 0).headCommand 0 0) 4 4) = true ∧ ((opening 0).partition 0).isOpen = true) ∧
    (opening 8).passes 0 0 specPartitionOpen ∧
    ((deferred (opening 7) (.poolMode 7 1)).passes 0 0 specPartitionOpen ∧ (deferred (opening 7) (.poolMode 7 1)).busyBasin 7 = true) := by
  unfold State.passes; decide +kernel

theorem test_hyp_PartitionCloses :
    (cmd opened 0x0202 [(8, 8)]).passes 0 0 specPartitionClose ∧
    ((cmd (deferred opened (.poolMode 0 1)) 0x0202 []).passes 0 0 specPartitionClose ∧
      (deferred opened (.poolMode 0 1)).holdsBasin 0 0 = true ∧ (deferred opened (.poolMode 0 1)).busyBasin 0 = true) ∧
    ((cmd opened 0x0202 []).passes 0 0 specPartitionClose ∧ opened.switchOpen = false ∧
      ∀ b < 8, opened.holdsBasin 0 b = true → (opened.basin b).state ≠ .draining ∧ opened.busyBasin b = false) ∧
    (let s := deferred opened (.partitionClose 0 false);
      s.alive = true ∧ s.shaped = true ∧
      s.findOpen (fun k => match k with | .partitionClose q _ => q == 0 | _ => false) = some ⟨ticket, .partitionClose 0 false⟩ ∧
      (∀ x ∈ s.flights, s.holdsBasin 0 x.basin = false) ∧ (∀ y ∈ s.opens, y.kind = .partitionClose 0 false) ∧ s.ticketOk ticket) := by
  unfold State.passes State.ticketOk; and_intros <;> decide +kernel

/-! ### Witnesses: segments, cache, CXL ports, loads -/

/-- SEGMENT_SET with a buffer of 64 bytes at host address 0. -/
def setting (s : State) : State := cmd s 0x0302 [(24, 64)]

/-- Four absent records are legal. -/
theorem absent_legal (s : State) (i : Nat) (hi : i < 4) : LegalSegment s 0 (segRecAt (zeros 64) (16 * i)) i := by
  have h : ∀ i < 4, segRecAt (zeros 64) (16 * i) = {} := by decide +kernel
  rw [h i hi]; simp [LegalSegment]

theorem test_hyp_SegmentsSet :
    ((setting opened).passes 0 0 specSegmentSet ∧ (setting opened).shaped = true ∧
      bufferAt ((setting opened).headCommand 0 0) 16 = some (0, 64) ∧ ((setting opened).slot 0 0).isUsed = false ∧
      ∀ i < 4, fieldB (zeros 64) (16 * i + 6) 2 = 0 ∧ fieldB (zeros 64) (16 * i + 14) 1 < 4 ∧ fieldB (zeros 64) (16 * i + 15) 1 = 0 ∧
        LegalSegment (setting opened) 0 (segRecAt (zeros 64) (16 * i)) i) ∧
    ((setting (slotIn opened .halted)).passes 0 0 specSegmentSet ∧ ((setting (slotIn opened .halted)).slot 0 0).isUsed = true) ∧
    (cmd opened 0x0302 [(9, 16), (24, 64)]).passes 0 0 specSegmentSet ∧
    fieldB (zeros 6 ++ [1] ++ zeros 57) (16 * 0 + 6) 2 ≠ 0 := by
  refine ⟨⟨by unfold State.passes; decide +kernel, by decide +kernel, by decide +kernel, by decide +kernel, fun i hi => ?_⟩,
    by unfold State.passes; decide +kernel, by unfold State.passes; decide +kernel, by decide +kernel⟩
  have h : ∀ i < 4, fieldB (zeros 64) (16 * i + 6) 2 = 0 ∧ fieldB (zeros 64) (16 * i + 14) 1 < 4 ∧ fieldB (zeros 64) (16 * i + 15) 1 = 0 := by
    decide +kernel
  exact ⟨(h i hi).1, (h i hi).2.1, (h i hi).2.2, absent_legal _ i hi⟩

theorem test_hyp_PoolModeChanges :
    (∀ n ∈ [0, 4, 5], (cmd opened 0x0301 [(9, n)]).passes 0 0 specPoolModeSet) ∧ (opened.basin 0).cache.size = 0 ∧
    opened.opens = [] ∧ opened.switchOpen = false ∧
    (∀ x ∈ (opened.basin 0).slots, rangesMeet ((x.segs.getD 0 {}).base, (x.segs.getD 0 {}).size) (changedSections 0 0 4) = false ∧
      rangesMeet ((x.segs.getD 3 {}).base, (x.segs.getD 3 {}).size) (changedSections 0 0 4) = false) ∧
    (cmd (deferred opened (.poolMode 0 1)) 0x0301 [(9, 4)]).passes 0 0 specPoolModeSet ∧
    (let s := deferred opened (.poolMode 0 4);
      s.alive = true ∧ s.shaped = true ∧
      s.findOpen (fun k => match k with | .poolMode q _ => q == 0 | _ => false) = some ⟨ticket, .poolMode 0 4⟩ ∧ s.ticketOk ticket) := by
  unfold State.passes State.ticketOk; and_intros <;> decide +kernel

/-- Port 7 is in a state. -/
def port7 (x : CxlState) : State := opened.modPort 7 fun y => { y with state := x }

theorem test_hyp_CxlPortsAttach :
    ((cmd (port7 .present) 0x0303 [(8, 7), (9, 1)]).passes 0 0 specCxlPortAttach ∧ (port7 .present).portSegmented 7 = false ∧
      ((port7 .present).port 7).state = .present) ∧
    (cmd opened 0x0303 [(8, 8)]).passes 0 0 specCxlPortAttach ∧
    (∀ op ∈ [0x0303, 0x0304], (cmd opened op [(8, 7)]).answers = true ∧ (cmd opened op [(8, 7)]).nextCommand = some (0, 0) ∧
      allZero (sliceB ((cmd opened op [(8, 7)]).headCommand 0 0) 4 4) = true ∧ fieldB ((cmd opened op [(8, 7)]).headCommand 0 0) 0 2 = op ∧
      (opened.port 7).state = .absent) ∧
    (cmd opened 0x0304 [(8, 8)]).passes 0 0 specCxlPortDetach ∧
    ((cmd (port7 .online) 0x0304 [(8, 7)]).passes 0 0 specCxlPortDetach ∧ ((port7 .online).port 7).state = .online ∧
      (port7 .online).portSegmented 7 = false ∧ (port7 .online).holderOf 7 = none ∧ (port7 .online).switchOpen = false) ∧
    (let s := opened.modPort 0 fun y => { y with state := .online };
      (cmd s 0x0304 []).passes 0 0 specCxlPortDetach ∧ s.holderOf 0 ≠ none) ∧
    (let s := deferred (opened.modPort 7 fun y => { y with state := .detaching, linkUp := true }) (.cxlDetach 7);
      s.alive = true ∧ s.shaped = true ∧ s.findOpen (fun k => k == .cxlDetach 7) = some ⟨ticket, .cxlDetach 7⟩ ∧
      (s.port 7).state = .detaching ∧ (s.port 7).linkUp = true ∧ s.flights = [] ∧ s.ticketOk ticket) := by
  unfold State.passes State.ticketOk; and_intros <;> decide +kernel

/-- Slot (0, 15) has a stack segment of 1 MiB and nothing loaded. -/
def loading : State := opened.modSlot 0 15 fun x => { x with segs := [{}, ⟨0x20000000000, 0x100000, true, true⟩, {}, {}] }

theorem test_hyp_LoadsInstall :
    (∃ s : State, s = cmd loading 0x0401 [(9, 15), (32, 16)] ∧ s.passes 0 0 specProgramLoad ∧
      bufferAt (s.headCommand 0 0) 24 = some (0, 16) ∧ s.streamFits 0 15 0 16 = true ∧ (s.slot 0 15).isUsed = false ∧ s.switchOpen = false) ∧
    (∃ s : State, s = cmd opened 0x0401 [(9, 15), (32, 16)] ∧ s.passes 0 0 specProgramLoad ∧ s.streamFits 0 15 0 16 = false) ∧
    (∃ s : State, s = deferred loading (.programLoad 0 15 0 0x20000000000 (zeros 16)) ∧ s.alive = true ∧ s.shaped = true ∧ s.memoryOk = true ∧
      s.findOpen (fun y => match y with | .programLoad c j _ _ _ => c == 0 && j == 15 | _ => false) =
        some ⟨ticket, .programLoad 0 15 0 0x20000000000 (zeros 16)⟩ ∧
      windowBase 0 ≤ 0x20000000000 ∧ 0x20000000000 + (zeros 16).length ≤ windowBase 8 ∧ s.ticketOk ticket ∧ s.capturing = false) ∧
    (∃ s : State, s = cmd opened 0x0402 [(8, 1), (9, 7), (24, 0x40), (25, 0x60)] ∧ s.passes 0 0 specTableLoad ∧
      bufferAt (s.headCommand 0 0) 16 = some (0, 24640) ∧ s.switchOpen = false) ∧
    (∃ s : State, s = deferred opened (.tableLoad 1 7 [] false) ∧ s.alive = true ∧ s.shaped = true ∧
      s.opens = [] ++ ⟨ticket, .tableLoad 1 7 [] false⟩ :: [] ∧ s.flights = [] ∧ s.ticketOk ticket) := by
  refine ⟨⟨_, rfl, ?_⟩, ⟨_, rfl, ?_⟩, ⟨_, rfl, ?_⟩, ⟨_, rfl, ?_⟩, _, rfl, ?_⟩ <;> (try unfold State.passes) <;> (try unfold State.ticketOk) <;> decide +kernel

/-- A table record with Lo 0, Hi 1 and Scale 1 in the places of R114 and zeros elsewhere. -/
def tableRecord : Bytes := zeros 6 ++ [0x80, 0x3F] ++ zeros 2 ++ [0x80, 0x3F] ++ zeros 24628

theorem test_hyp_LoadsInstall_table : tableRecord.length = 24640 ∧ tableLegal tableRecord = true ∧ tableLegal (zeros 24640) = false := by
  decide +kernel

/-! ### Witnesses: stills, tables, groups, ports -/

/-- A context for device 5 of partition 0, with credit 1 in every class. -/
def peer : PeerCtx := { index := 15, peerId := 5, classes := List.replicate 4 { credit := 1, window := 4 } }

/-- Partition 0 reaches device 5. -/
def linked : State := { opened with contexts := [peer] }

/-- Bytes that are 0 but for the listed ones. -/
def bytesOf (n : Nat) (xs : List Host.Cell) : Bytes := memRead xs 0 n

/-- A slice of zeros is zeros. -/
theorem slice_zeros (n o k : Nat) : sliceB (zeros n) o k = zeros k := by
  simp only [sliceB, zeros, List.drop_replicate, List.take_replicate, List.length_replicate, List.replicate_append_replicate]
  congr 1; omega

/-- The plan of partition 0 has period 100 µs and its next still 1 ms ahead, with the pin as pulse source. -/
def planned (source : PulseSource) (next : Nat) : State :=
  opened.modPartition 0 fun x => { x with plan := { period := 600000000, next := next, source := source } }

theorem test_hyp_StillPlansSet :
    ((cmd opened 0x0501 []).passes 0 0 specStillPlan ∧ opened.shaped = true ∧ fieldB ((cmd opened 0x0501 []).headCommand 0 0) 12 4 = 0) ∧
    ((cmd opened 0x0501 [(12, 100), (16, 1)]).passes 0 0 specStillPlan ∧
      fieldB ((cmd opened 0x0501 [(12, 100), (16, 1)]).headCommand 0 0) 12 4 * 1000 = 100000 ∧
      fieldB ((cmd opened 0x0501 [(12, 100), (16, 1)]).headCommand 0 0) 16 8 = 1 ∧
      (opened.now 0).windowOpen 0 (opened.partition 0).ruling = false ∧ opened.pulsesCount 0 (opened.partition 0).plan = false) ∧
    ((cmd (planned .pin 500) 0x0501 [(12, 100), (17, 0x10)]).passes 0 0 specStillPlan ∧
      ((planned .pin 500).now 0).windowOpen 0 ((planned .pin 500).partition 0).ruling = true) ∧
    (cmd opened 0x0501 [(12, 99), (16, 1)]).passes 0 0 specStillPlan ∧
    ((cmd opened 0x0502 [(9, 1), (11, 0xFF), (12, 1)]).passes 0 0 specStillWindowSet ∧
      fieldB ((cmd opened 0x0502 [(9, 1), (11, 0xFF), (12, 1)]).headCommand 0 0) 12 2 * 1000 = 1000) ∧
    (cmd opened 0x0502 [(9, 2), (11, 0x80), (12, 1)]).passes 0 0 specStillWindowSet ∧
    (placed opened 1 3 0x0502 [(11, 0xFF), (12, 1)]).passes 1 3 specStillWindowSet := by
  unfold State.passes; decide +kernel

/-- PEER_TABLE_LOAD of one record for context 15. -/
def peering (s : State) : State := cmd s 0x0602 [(12, 15), (14, 1), (24, 32)]

/-- A record for device 6 with credit 256 for TC0 and 1 for the other classes. -/
def record : Bytes := bytesOf 32 [(0, 6), (2, 0x80), (5, 1), (6, 1), (8, 1), (10, 1)]

theorem test_hyp_RouteAndPeerTables :
    (∃ s : State, s = cmd opened 0x0601 [(24, 0x10), (25, 0x14)] ∧ s.passes 0 0 specRouteTableLoad ∧
      bufferAt (s.headCommand 0 0) 16 = some (0, 5136) ∧ (zeros 5136).length = 5136 ∧ fieldB (zeros 5136) 0 2 ≤ 16383 ∧
      allZero (sliceB (zeros 5136) 2 14) = true ∧ ∀ i < 320,
        (∀ j < 48, bit (fieldB (sliceB (zeros 5136) (16 + 16 * i) 16) 0 6) j = true ∨
          bit (fieldB (sliceB (zeros 5136) (16 + 16 * i) 16) 6 6) j = true → s.subExists j = true) ∧
        fieldB (sliceB (zeros 5136) (16 + 16 * i) 16) 12 1 % 128 = 0 ∧
        allZero (sliceB (sliceB (zeros 5136) (16 + 16 * i) 16) 13 3) = true) ∧
    (∀ s ∈ [peering opened, peering { opened with contexts := [{ peer with classes := [{ unacked := [⟨tc0 0 0 0 [], .none, 0⟩] }] }] }],
      s.answers = true ∧ s.shaped = true ∧ s.nextCommand = some (0, 0) ∧ fieldB (s.headCommand 0 0) 0 2 = (specPeerTableLoad s).opcode ∧
        s.gate 0 (specPeerTableLoad s) (s.headCommand 0 0) = none ∧ s.ownsContext 0 15 = true ∧
        bufferAt (s.headCommand 0 0) 16 = some (0, 32) ∧ record.length = 32 ∧ s.peerRecordLegal 0 record = true ∧
        ([record].filter recValid).map (fun r => fieldB r 0 2) = [6]) ∧
    (∃ s : State, s = peering { opened with contexts := [{ peer with classes := [{ unacked := [⟨tc0 0 0 0 [], .none, 0⟩] }] }] } ∧
      ∃ y ∈ s.contexts, y.index = 15 ∧ s.ctxBusy 0 y = true) := by
  refine ⟨⟨_, rfl, by unfold State.passes; decide +kernel, by decide +kernel, by decide +kernel, by decide +kernel, by rw [slice_zeros]; decide +kernel,
    fun i _ => ?_⟩, by decide +kernel, _, rfl, _, List.mem_singleton.2 rfl, by decide +kernel⟩
  rw [slice_zeros]
  refine ⟨fun j _ h => ?_, by decide +kernel, by decide +kernel⟩
  have h1 : fieldB (zeros 16) 0 6 = 0 := by decide +kernel
  have h2 : fieldB (zeros 16) 6 6 = 0 := by decide +kernel
  simp [h1, h2, bit] at h

/-- A group record with the single member 5 and MinJoin 1. -/
def group1 : Bytes := bytesOf 128 [(0, 1), (2, 1), (12, 1), (64, 5)]

/-- The same group is defined, and, if `busy`, an instance of it is in flight. -/
def grouped (busy : Bool) : State :=
  { linked.modPartition 0 fun x => { x with groups := [groupOf group1] } with
    instances := if busy then [{ part := 0, gid := 1, seq := 0, step := 0, root := some {} }] else [] }

/-- The bytes of a tree record in a command: tree 31, no parent, no child, height 1. -/
def treeArgs : List Host.Cell := (16, 31) :: (18, 0xFF) :: (19, 0xFF) :: ((List.range 24).map fun i => (24 + i, 0xFF)) ++ [(54, 1)]

/-- Tree 31 is defined, with a barrier outstanding. -/
def treed : State :=
  opened.modPartition 0 fun x => { x with trees := [{ treeOf (sliceB ((cmd opened 0x0605 treeArgs).headCommand 0 0) 16 40) with outstanding := some (0, 0, none) }] }

theorem test_hyp_GroupsAndTrees :
    (∀ busy, (cmd (grouped busy) 0x0603 [(24, 128)]).passes 0 0 specGroupDefine ∧ (grouped busy).shaped = true ∧
      bufferAt ((cmd (grouped busy) 0x0603 [(24, 128)]).headCommand 0 0) 16 = some (0, group1.length) ∧
      (grouped busy).groupLegal 0 group1 = true ∧ (grouped busy).groupLegal 0 (zeros 128) = false ∧ (grouped busy).groupBusy 0 1 = busy) ∧
    ((cmd (grouped false) 0x0604 [(9, 1), (16, 1)]).passes 0 0 specWeirSet ∧ (cmd (grouped false) 0x0604 [(9, 1), (16, 2)]).passes 0 0 specWeirSet ∧
      (cmd (grouped false) 0x0604 [(9, 2), (16, 1)]).passes 0 0 specWeirSet ∧
      ((grouped false).partition 0).groups.find? (fun h => h.gid == 1) = some (groupOf group1)) ∧
    (∀ s ∈ [opened, treed], (cmd s 0x0605 treeArgs).answers = true ∧ (cmd s 0x0605 treeArgs).nextCommand = some (0, 0) ∧
      (cmd s 0x0605 treeArgs).gate 0 specSyncTreeDefine ((cmd s 0x0605 treeArgs).headCommand 0 0) = none ∧
      s.treeLegal 0 (sliceB ((cmd s 0x0605 treeArgs).headCommand 0 0) 16 40) = true) ∧
    (∃ y ∈ (treed.partition 0).trees, y.treeId = 31 ∧ y.outstanding ≠ none) ∧ opened.treeLegal 0 (zeros 40) = false ∧
    (cmd opened 0x0606 []).passes 0 0 specGenerationCancel ∧
    ((cmd opened 0x0606 [(9, 1), (10, 1), (12, 0xFF), (13, 0xFF)]).passes 0 0 specGenerationCancel ∧ opened.holdsBasin 0 0 = true) := by
  unfold State.passes; decide +kernel

/-- The sub-ports of `opened` all have a state. -/
def subsIn (x : SubState) (n : Nat) : State := { opened with subPorts := List.replicate 48 { state := x, attempts := n } }

theorem test_hyp_PortCommands :
    ((cmd opened 0x0607 [(8, 11), (9, 2)]).passes 0 0 specPortModeSet ∧ 0 / 4 ≠ 11 ∧ (opened.sub 0).state = .training) ∧
    (∀ a ∈ [(11, 2), (11, 0), (12, 0), (11, 3)], (cmd (subsIn .up 0) 0x0607 [(8, a.1), (9, a.2)]).passes 0 0 specPortModeSet) ∧
    (∀ i < 48, (opened.sub i).state ≠ .retraining ∧ ((subsIn .up 0).sub i).state = .up) ∧
    (subsIn .up 0).portModes.getD 11 0 = 0 ∧ (subsIn .up 0).portFailed.getD 11 false = false ∧ (subsIn .up 0).switchOpen = false ∧
    (subsIn .up 0).portModes.length = 12 ∧ (subsIn .up 0).shaped = true ∧ (∀ i < 48, (subsIn .up 0).soundInput i) ∧
    (cmd { subsIn .up 0 with portFailed := List.replicate 12 true } 0x0607 [(8, 11), (9, 2)]).passes 0 0 specPortModeSet ∧
    (∀ i ∈ [44, 45, 48], (cmd (subsIn .up 0) 0x0608 [(8, i)]).passes 0 0 specPortRetrain) ∧ (cmd opened 0x0608 [(8, 44)]).passes 0 0 specPortRetrain ∧
    (∀ n ∈ [1, 2], (subsIn .retraining n).alive = true ∧ (subsIn .retraining n).shaped = true ∧ (subsIn .retraining n).subExists 44 = true ∧
      ((subsIn .retraining n).sub 44).state = .retraining ∧ (subsIn .retraining n).opens = [] ∧ ((subsIn .retraining n).sub 44).attempts = n) ∧
    (let s := deferred (subsIn .training 0) (.portRetrain 44);
      s.subExists 44 = true ∧ s.opens.filter (fun x => !(s.trainedBy x.kind).isEmpty) = [⟨ticket, .portRetrain 44⟩] ∧ s.ticketOk ticket) := by
  unfold State.passes State.ticketOk State.soundInput; simp only [List.forall_mem_cons]; and_intros <;> first | exact fun _ h => absurd h List.not_mem_nil | decide +kernel

/-! ### Witnesses: partners, notices, restores -/

/-- REFLECT_PAIR with device 5: part 7, region of 480 GiB from offset 0. -/
def pairing (s : State) : State := cmd s 0x0701 [(9, 1), (10, 5), (12, 7), (28, 0x78)]

theorem test_hyp_ReflectPairing :
    ((cmd linked 0x0701 [(9, 2)]).passes 0 0 specReflectPair ∧ linked.opens = [] ∧ (linked.partition 0).capture = none ∧
      ∀ i < 64, 10 ≤ i → fieldB ((cmd linked 0x0701 [(9, 2)]).headCommand 0 0) i 1 = 0) ∧
    ((pairing linked).passes 0 0 specReflectPair ∧ (pairing linked).reaches 0 5 0 peer ∧
      fieldB ((pairing linked).headCommand 0 0) 12 1 = 7 ∧ fieldB ((pairing linked).headCommand 0 0) 24 8 = 480 * 2 ^ 30 ∧
      (pairing linked).switchOpen = false) ∧
    (let s := pairing { linked with contexts := [{ peer with lost := true }] };
      s.passes 0 0 specReflectPair ∧ s.ctxFor 0 5 = some { peer with lost := true }) ∧
    (let s := deferred linked (.reflectPair 0 5 7 0 4096 true 3);
      s.alive = true ∧ 0 < s.partitions.length ∧
      s.findOpen (fun k => match k with | .reflectPair q .. => q == 0 | _ => false) = some ⟨ticket, .reflectPair 0 5 7 0 4096 true 3⟩ ∧
      s.ticketOk ticket) := by
  unfold State.passes State.ticketOk State.reaches; and_intros <;> decide +kernel

theorem test_hyp_FleetHealthCommands :
    (∀ p ∈ [0, 8], (cmd opened 0x0702 [(8, p), (12, 1)]).passes 0 0 specReflectIntervalSet) ∧
    (∃ q, ((opened.modPartition 0 fun x => { x with partner := some { id := 5, part := 0, regionOff := 0, regionSize := 0, coFed := false, measured := some 1 } }).partition
      0).partner = some q ∧ q.measured.isSome = true) ∧
    (∀ v ∈ [0, 1, 255], (cmd opened 0x0703 [(8, v)]).passes 0 0 specSoundingThresholdSet) ∧
    (∀ d ∈ [0x3F, 0x40], (cmd opened 0x0704 [(8, 0xFF), (9, d)]).passes 0 0 specFailureNotice) ∧ opened.instances = [] ∧ opened.shaped = true := by
  unfold State.passes
  refine ⟨?_, ⟨_, rfl, rfl⟩, ?_, ?_, ?_, ?_⟩ <;> decide +kernel

/-- RESTORE_BEGIN of the reflection image of device 5's partition 7 at step 1. -/
def restoring : State := cmd linked 0x0705 [(10, 5), (12, 7), (16, 1)]

/-- An answer with step 1 and a manifest of one page. -/
def answer : RestoreAnswer :=
  ⟨bytesOf 64 [(0, 1)], bytesOf 96 [(0, 1), (2, 1), (10, 1), (13, 2), (18, 1), (66, 2), (69, 2), (74, 1)]⟩

/-- REPLAY_VERIFY of slot (0, 0), with an offset in its pool segment of 4 KiB. -/
def replaying (x : SlotState) : State :=
  (cmd opened 0x0706 [(16, 0xFC), (17, 0x0F)]).modSlot 0 0 fun y => { y with state := x, segs := [⟨0, 0x1000, true, true⟩, {}, {}, {}] }

theorem test_hyp_RestoreAndReplay :
    (restoring.passes 0 0 (specRestoreBegin restoring) ∧ fieldB (restoring.headCommand 0 0) 12 1 = 7 ∧ restoring.anyRunning 0 = false ∧
      (restoring.partition 0).restore = none ∧ restoring.reaches 0 5 0 peer ∧ restoring.answerFits 0 1 answer = true ∧
      restoring.switchOpen = false ∧ (restoring.partition 0).capture = none ∧ (restoring.partition 0).checkpoint = none) ∧
    ∀ x ∈ [SlotState.finished, SlotState.running], (replaying x).passes 0 0 specReplayVerify ∧ (replaying x).holdsBasin 0 0 = true ∧
      fieldB ((replaying x).headCommand 0 0) 16 6 + 4 = ((replaying x).seg 0 0 0).size ∧ ((replaying x).slot 0 0).state = x := by
  unfold State.passes State.reaches; and_intros <;> decide +kernel

/-! ### Witnesses: reports, keys, imports -/

theorem test_hyp_AttestationReports :
    (∀ p ∈ [0, 8, 255], (cmd opened 0x0801 [(8, p), (24, 8)]).passes 0 0 specAttestReport) ∧
    (bufferAt ((cmd opened 0x0801 [(24, 8)]).headCommand 0 0) 16 = some (0, 8) ∧ opened.chain.length = 0 ∧ opened.switchOpen = false) ∧
    bufferAt ((cmd opened 0x0801 []).headCommand 0 0) 16 = none ∧
    bufferAt ((cmd opened 0x0801 [(26, 0x10)]).headCommand 0 0) 16 = some (0, 2 ^ 20) ∧
    (zeros 32).length = 32 ∧
    (let s := deferred opened (.attest (some 7) 0 []);
      s.answers = true ∧ s.shaped = true ∧
      s.findOpen (fun k => match k with | .attest .. => true | _ => false) = some ⟨ticket, .attest (some 7) 0 []⟩ ∧ s.ticketOk ticket) := by
  unfold State.passes State.ticketOk; and_intros <;> decide +kernel

/-- A report of any partition takes less than 2^20 bytes with an empty chain. -/
theorem attest_room : (opened.reportBody (some 0) (zeros 32)).length + 64 + opened.chain.length ≤ 2 ^ 20 ∧
    8 < (opened.reportBody (some 0) (zeros 32)).length + 64 + opened.chain.length := by decide +kernel

/-- A weight key for the report whose digest is 0. -/
def plainKey : Bytes := zeros 64

/-- The same key, wrapped for the private key 1 with the ephemeral scalar 1. -/
def wrappedKey : Bytes :=
  [0x04] ++ toBE 32 sm2G.1 ++ toBE 32 sm2G.2 ++ sm3 (toBE 32 sm2G.1 ++ plainKey ++ toBE 32 sm2G.2) ++
    xorB plainKey (sm3Kdf (toBE 32 sm2G.1 ++ toBE 32 sm2G.2) 64)

/-- Partition 0 has the private key 1 and reported the digest 0. -/
def keyed : State := linked.modPartition 0 fun x => { x with ephemeral := 1, reportDigests := [zeros 32] }

/-- An unlock of the device with serial number 0 in boot 0, signed with the private key 1. -/
def unlock : Bytes := bytesOf 32 [(0, 1), (2, 1)] ++ sm2Sign 1 2 (bytesOf 32 [(0, 1), (2, 1)])

/-- The vendor's key is the public key of the private key 1. -/
def vendored : State := { State.reset with imageA := { present := true, vendorKey := sm2G } }

theorem test_hyp_KeysAndUnlock :
    (∀ r ∈ [0, 1, 255], (cmd keyed 0x0802 [(12, r), (24, 161)]).passes 0 0 specKeyAccept ∧
      bufferAt ((cmd keyed 0x0802 [(12, r), (24, 161)]).headCommand 0 0) 16 = some (0, 161)) ∧
    (wrappedKey.length = 161 ∧ keyed.unwrap 0 0 wrappedKey = some plainKey ∧ keyed.unwrap 0 0 (zeros 161) = none ∧
      keyed.keyInUse 0 255 = false) ∧
    ({ keyed with contexts := [{ peer with encrypt := true, keyRef := 255 }] } : State).keyInUse 0 255 = true ∧
    ((cmd vendored 0x0804 [(24, 96)]).passes 0 0 specDebugUnlock ∧
      bufferAt ((cmd vendored 0x0804 [(24, 96)]).headCommand 0 0) 16 = some (0, 96) ∧
      unlock.length = 96 ∧ vendored.unlockVerifies unlock = true ∧ vendored.unlockVerifies (zeros 96) = false ∧
      fieldB (bytesOf 96 [(8, 1)]) 8 8 ≠ vendored.serial) := by
  unfold State.passes; and_intros <;> decide +kernel

/-- Partition 0 has a weight key at KeyRef 1; slot (0, 15) has a stack segment of 1 MiB; a CXL port is plain. -/
def importing (lost plain : Bool) : State :=
  { (loading.modPartition 0 fun x => { x with keys := [⟨1, 0, zeros 16, []⟩] }).modPort 0 fun x => { x with plain := plain } with
    contexts := [{ peer with lost := lost }] }

/-- WEIGHTS_IMPORT of the whole segment from device 5 with a KeyRef. -/
def importCmd (s : State) (ref : Byte) : State := cmd s 0x0803 [(10, 15), (11, 1), (12, ref), (26, 0x10), (32, 5)]

/-- Device 5 sends bytes for an open import of 64 bytes, at an offset. -/
def arriving (o n : Nat) : State :=
  let s := importing false false
  { s.modPartition 0 fun x => { x with imports := [{ basin := 0, slot := 15, seg := 1, keyRef := 1, dstOff := 0, length := 64, source := 5 }] } with
    router := { inbox := [(0, 15, { dst := 0xFFFF, src := 5, cls := 2, type := 0x38, place := o, payload := zeros n })] } }

theorem test_hyp_WeightImports :
    (∀ lost, ∀ r ∈ [1, 2], (importCmd (importing lost false) r).passes 0 0 specWeightsImport ∧
      (importing lost false).holdsBasin 0 0 = true ∧
      (importing lost false).accessCause 0 15 { field := 16, seg := 1, off := 0, len := 0x100000, write := true, reach := .any } = none ∧
      fieldB ((importCmd (importing lost false) r).headCommand 0 0) 24 8 = 0x100000 ∧
      (importing lost false).meetsPlain ((importing lost false).segAddr 0 15 1 0, 0x100000) = false ∧
      ((importing lost false).keyAt 0 1 0).isSome = true ∧ (importing lost false).keyAt 0 2 0 = none ∧
      ((importing lost false).partition 0).imports = [] ∧ (importing lost false).importOf 0 5 = none ∧
      (importing lost false).ctxFor 0 5 = some { peer with lost := lost } ∧ (importing lost false).switchOpen = false) ∧
    (let s := cmd (((importing false true).modPort 0 fun x => { x with mapped := 64 }).modSlot 0 15 fun x =>
        { x with segs := [{}, {}, ⟨cxlBase 0, 4096, true, true⟩, {}] }) 0x0803 [(10, 15), (11, 2), (12, 1), (24, 64), (32, 5)];
      s.passes 0 0 specWeightsImport ∧
      s.accessCause 0 15 { field := 16, seg := 2, off := 0, len := 64, write := true, reach := .any } = none ∧
      s.meetsPlain (s.segAddr 0 15 2 0, 64) = true) ∧
    (∀ x ∈ [(0, 64), (4096, 64), (0, 65)], (arriving x.1 x.2).alive = true ∧ (arriving x.1 x.2).capturing = false ∧
      0x80000000 ≤ (arriving x.1 x.2).segAddr 0 15 1 0 ∧ (arriving x.1 x.2).segAddr 0 15 1 0 + 64 ≤ 0x100000000000 ∧ (arriving x.1 x.2).shaped = true ∧
      (arriving x.1 x.2).inboxFind (fun m => m.cls == 2 && m.type == 0x38) =
        some (0, 15, { dst := 0xFFFF, src := 5, cls := 2, type := 0x38, place := x.1, payload := zeros x.2 }) ∧
      ((arriving x.1 x.2).importOf 0 5).isSome = true ∧ ({ dst := 0xFFFF, src := 5, cls := 2, type := 0x38, place := x.1 } : Msg).place44 = x.1) := by
  unfold State.passes; and_intros <;> decide +kernel

/-! ### Witnesses: telemetry, service, firmware -/

/-- TELEMETRY_READ of an item and index with a buffer of `n` bytes. -/
def telemetry (item i n : Byte) : State := cmd opened 0x0901 [(8, item), (10, i), (24, n)]

/-- COUNTER_READ of a scope, set and index with a buffer of 65,536 bytes. -/
def counting (scope set i : Byte) : State := cmd opened 0x0902 [(8, scope), (9, set), (10, i), (26, 1)]

theorem test_hyp_TelemetryAndCounters :
    (∀ x ∈ [(4, 47, 8), (4, 48, 8), (4, 0, 7), (2, 0, 32)], (telemetry x.1 x.2.1 x.2.2).passes 0 0 (specTelemetryRead (telemetry x.1 x.2.1 x.2.2)) ∧
      bufferAt ((telemetry x.1 x.2.1 x.2.2).headCommand 0 0) 16 = some (0, x.2.2.toNat)) ∧
    (itemCount 4 = 48 ∧ itemCount 2 = 1 ∧ ((telemetry 4 47 8).itemBytes 0 4 47).length = 8 ∧ (telemetry 2 0 32).junction.length = 8 ∧ (telemetry 2 0 32).ramp = none ∧
      (telemetry 2 0 32).datapathCut = false ∧ ({ telemetry 2 0 32 with powerRecord := { point := opened.point } } : State).powerRecord.point = (telemetry 2 0 32).point) ∧
    (∀ x ∈ [(1, 0, 7), (1, 0, 8), (5, 1, 0), (1, 2, 0), (1, 1, 0), (2, 2, 7)], (counting x.1 x.2.1 x.2.2).passes 0 0 (specCounterRead (counting x.1 x.2.1 x.2.2)) ∧
      bufferAt ((counting x.1 x.2.1 x.2.2).headCommand 0 0) 16 = some (0, 65536)) ∧
    (scopeCount 1 = 8 ∧ 8 * scopeSize 1 ≤ 65536 ∧ opened.scopePartition 1 0 = some 0 ∧ opened.answers = true) := by
  unfold State.passes; simp only [List.forall_mem_cons]; and_intros <;> first | exact fun _ h => absurd h List.not_mem_nil | decide +kernel

/-- Basin 0 is DRAINING since time 0 with a slot stopped, and a collective of it is in flight or not. -/
def draining (busy : Bool) : State :=
  { deferred opened (.drain 0 0) with
    basins := { state := .draining, slots := { state := .running, clearing := true } :: List.replicate 15 {} } :: List.replicate 7 {}
    flights := if busy then [{ id := 3, unit := .collective, basin := 0, slot := 0, setCell := none, writes := [], basins := [0], step := 0, isPlace := false, lateFault := none }] else []
    instances := if busy then [{ part := 0, gid := 1, seq := 0, step := 0, member := some { basin := 0, slot := 0, flight := 3, desc := [] } }] else [] }

theorem test_hyp_BasinDrains :
    (cmd opened 0x0A01 [(8, 8)]).passes 0 0 specBasinDrain ∧
    ((cmd opened 0x0A01 []).passes 0 0 specBasinDrain ∧ opened.shaped = true ∧ opened.busyBasin 0 = false ∧ opened.switchOpen = false ∧
      (opened.basin 0).mere.staged = none ∧ ∀ p < 8, (opened.partition p).imports = []) ∧
    ((cmd (deferred opened (.taskStop 0 0)) 0x0A01 []).passes 0 0 specBasinDrain ∧ (deferred opened (.poolMode 0 1)).busyBasin 0 = true) ∧
    ((draining false).alive = true ∧ (draining false).shaped = true ∧ (draining false).drainOf 0 = some ⟨ticket, .drain 0 0⟩ ∧
      (draining false).basinInUse 0 = false ∧ (draining false).ticketOk ticket) ∧
    ((draining true).alive = true ∧ (draining true).drainOf 0 = some ⟨ticket, .drain 0 0⟩ ∧ 0 + 100000000 ≤ max (draining true).time 100000000 ∧
      ((draining true).flights.filter fun f => f.unit == .collective && f.basin == 0) = (draining true).flights ∧
      (draining true).flights.length = 1 ∧
      ((draining true).instances.find? (fun i => i.member.any fun m => m.flight == 3)).isSome = true) := by
  unfold State.passes State.ticketOk; and_intros <;> decide +kernel

/-- Every basin but 7 is in a state, basin 7 in SERVICE. -/
def serviced (x : BasinState) : State :=
  { opened with basins := List.replicate 7 { state := x } ++ [{ state := .service }] }

theorem test_hyp_BasinService :
    ((cmd opened 0x0A02 [(8, 7)]).passes 0 0 specBasinService ∧ opened.shaped = true ∧ opened.busyBasin 7 = false) ∧
    ((cmd (deferred opened (.poolMode 7 1)) 0x0A02 [(8, 7)]).passes 0 0 specBasinService ∧ (deferred opened (.poolMode 7 1)).busyBasin 7 = true) ∧
    ((cmd (serviced .active) 0x0A03 [(8, 7)]).passes 0 0 specBasinReturn ∧ (serviced .active).shaped = true ∧
      ((serviced .active).basin 7).needsCalibration = false ∧ (serviced .active).busyBasin 7 = false) ∧
    (let s := cmd ((serviced .active).modBasin 7 fun x => { x with needsCalibration := true }) 0x0A03 [(8, 7)];
      s.passes 0 0 specBasinReturn ∧ (s.basin 7).needsCalibration = true) ∧
    (∀ x ∈ [BasinState.active, .retired], (cmd (serviced x) 0x0A04 [(8, 7)]).answers = true ∧
      (cmd (serviced x) 0x0A04 [(8, 7)]).nextCommand = some (0, 0) ∧
      (cmd (serviced x) 0x0A04 [(8, 7)]).gate 0 specBasinRetire ((cmd (serviced x) 0x0A04 [(8, 7)]).headCommand 0 0) = none ∧
      (∀ e < 8, e ≠ 7 → ((serviced x).basin e).state = x)) ∧
    (∀ i ∈ [0, 3], (cmd (serviced .active) 0x0A05 [(8, 7), (9, i)]).passes 0 0 specCalibrate) ∧
    (let s := deferred (serviced .active) (.calibrate 7 true true);
      s.alive = true ∧ s.shaped = true ∧
      s.findOpen (fun k => match k with | .calibrate c _ _ => c == 7 | _ => false) = some ⟨ticket, .calibrate 7 true true⟩ ∧
      s.ticketOk ticket ∧ (s.basin 7).state ≠ .retired ∧ 23 / 3 = 7) := by
  unfold State.passes State.ticketOk; and_intros <;> decide +kernel

/-- The first 128 bytes of an image of 256 bytes with version 0, under the public key of the private key 1. -/
def imageHead : Bytes := bytesOf 16 [(13, 1)] ++ toLE 32 sm2G.1 ++ toLE 32 sm2G.2 ++ zeros 48

/-- The image, signed. -/
def image : Bytes := imageHead ++ sm2Sign 1 2 imageHead ++ sm2Sign 1 2 imageHead

/-- The mask ROM holds the digest of that key. -/
def fused : State := { State.reset with vendorDigest := sm3 (toLE 32 sm2G.1 ++ toLE 32 sm2G.2) }

/-- A FIRMWARE_SWITCH is open, with a planned partition whose last still ended at a time. -/
def switching (x : Option Nat) (late : Bool) : State :=
  deferred (opened.modPartition 0 fun y => { y with lastStillEnd := x, plan := { period := 10000000, next := 9000000 } })
    (.firmwareSwitch false 0 late)

theorem test_hyp_FirmwareChanges :
    ((cmd fused 0x0A06 [(25, 1)]).passes 0 0 specFirmwareStage ∧ bufferAt ((cmd fused 0x0A06 [(25, 1)]).headCommand 0 0) 16 = some (0, 256) ∧
      fieldB (sliceB image 0 256) 12 4 = 256 ∧ fused.firmwareBusy = false ∧ fused.imageVerifies (sliceB image 0 256) = true ∧
      State.reset.imageVerifies (sliceB image 0 256) = false ∧ fieldB (zeros 256) 12 4 ≠ 256) ∧
    ((cmd (deferred fused (.firmwareStage 1 image)) 0x0A06 [(25, 1)]).passes 0 0 specFirmwareStage ∧
      (deferred fused (.firmwareStage 1 image)).firmwareBusy = true) ∧
    ((deferred fused (.firmwareStage 1 image)).alive = true ∧
      (deferred fused (.firmwareStage 1 image)).findOpen (fun k => match k with | .firmwareStage .. => true | _ => false) =
        some ⟨ticket, .firmwareStage 1 image⟩ ∧ (deferred fused (.firmwareStage 1 image)).ticketOk ticket) ∧
    (∀ r ∈ [0, 1], ∀ s ∈ [State.reset, { State.reset with staged := some {}, imageB := { present := true } },
        deferred { State.reset with staged := some {}, imageB := { present := true } } .operatingPoint],
      (cmd s 0x0A07 [(8, r)]).answers = true ∧ (cmd s 0x0A07 [(8, r)]).nextCommand = some (0, 0) ∧
        (cmd s 0x0A07 [(8, r)]).gate 0 specFirmwareSwitch ((cmd s 0x0A07 [(8, r)]).headCommand 0 0) = none) ∧
    (State.reset.otherImage.present = false ∧ State.reset.staged = none ∧ State.reset.opens = [] ∧ State.reset.pulseOnly = false) ∧
    (∀ late, (switching none late).alive = true ∧ (switching none late).shaped = true ∧
      (switching none late).switchOf = some ⟨ticket, .firmwareSwitch false 0 late⟩ ∧ (switching none late).ticketOk ticket ∧
      ((switching none late).now 5).handoverMay late = false) ∧
    ∀ late, (switching (some 5) late).alive = true ∧ (switching (some 5) late).shaped = true ∧
      (switching (some 5) late).switchOf = some ⟨ticket, .firmwareSwitch false 0 late⟩ ∧ (switching (some 5) late).ticketOk ticket ∧
      ((switching (some 5) late).now 5).handoverMay late = true := by
  unfold State.passes State.ticketOk; and_intros <;> decide +kernel

/-! ### Witnesses: management -/

theorem test_hyp_ManagementReads : State.reset.power ≠ .off ∧ State.reset.junction.length = 8 := by decide +kernel

theorem test_hyp_EmergencyStop :
    State.reset.power ≠ .off ∧ State.reset.stopArmed = none ∧ State.reset.shaped = true ∧
    (∃ a, ({ State.reset with stopArmed := some 0 } : State).stopArmed = some a ∧ max State.reset.time 1000000000 ≤ a + 1000000000 ∧
      a + 1000000000 < max State.reset.time 1000000001) ∧
    ({ State.reset with stopArmed := some 0 } : State).shaped = true := by
  refine ⟨by decide +kernel, by decide +kernel, by decide +kernel, ⟨0, ?_⟩, ?_⟩ <;> decide +kernel

theorem test_hyp_DebugPortClock : ({ State.reset with power := .off } : State).power = .off ∧ State.reset.power ≠ .off ∧
    State.reset.debugUnlocked = false := by decide +kernel

/-! ### Witnesses: descriptors -/

/-- The descriptor `d` stands at the head of slot (0, 0), whose pool segment is the first MiB of the pools. -/
def heading (d : Bytes) : State :=
  { opened.modSlot 0 0 fun x => { x with
      state := .running, length := d.length, streamOff := 0x1000
      segs := [⟨0, 0x100000, true, true⟩, ⟨0x20000000000, 0x100000, true, true⟩, {}, {}] } with
    mem := memWrite [] 0x20000001000 d, contexts := [peer] }

/-- The slot is in a frozen weight-gradient region. -/
def frozen (s : State) : State := s.modSlot 0 0 fun x => { x with regionPart := 2, regionFrozen := true }

/-- A vector descriptor of one FP32 element: A at 0, B at 0x100, D at 0x200. -/
def vectorDesc (op : Nat) : Bytes :=
  bytesOf 48 ([(0, 3), (1, BitVec.ofNat 8 op), (4, 1)] ++ (if vectorNoB op then [] else [(17, 1)]) ++ [(25, 2)])

/-- A table descriptor of one element, with the saved tensor at 0x300. -/
def tableDesc (op : Nat) : Bytes :=
  bytesOf 64 ([(0, 4), (1, BitVec.ofNat 8 op), (4, 1)] ++ (if tableMaskA op then [(14, 0x0F)] else []) ++
    (if tableReadsB op then [(17, 1)] else []) ++ [(25, 2)] ++ if tableSaves op then [(33, 3)] else [])

/-- A move of one row of 64 bytes to 0x1000. -/
def moveDesc (op : Byte) : Bytes := bytesOf 48 [(0, 5), (1, op), (2, 2), (4, 1), (17, 0x10), (24, 1)]

/-- A mere pass of one row, one column and depth 1, in BF16 to FP32, from zero. -/
def passDesc : Bytes := bytesOf 96 [(0, 1), (2, 1), (3, 1), (6, 1), (8, 1), (10, 1), (12, 2), (25, 1), (41, 2)]

theorem test_hyp_DescriptorHeads :
    (∀ d ∈ [[0xFF], vectorDesc 1, bytesOf 48 [(0, 3), (1, 1)], bytesOf 64 [(0, 4), (1, 1)], bytesOf 48 [(0, 5), (1, 1)],
        bytesOf 16 [(0, 6), (1, 1)], bytesOf 96 [(0, 1), (1, 1)]],
      (heading d).shaped = true ∧ (heading d).slotIssues 0 0 = true ∧ ((heading d).slot 0 0).mailboxOk ∧
        ((heading d).head 0 0 = .illegal ↔ d = [0xFF]) ∧ (((heading d).slot 0 0).skips d = false) ∧ (heading d).capturing = false ∧
        (heading d).spmmNext 0 0 = none) ∧
    (vectorIllegal (bytesOf 48 [(0, 3), (1, 1)]) = some 4 ∧ tableIllegal (bytesOf 64 [(0, 4), (1, 1)]) = some 4 ∧
      moveIllegal (bytesOf 48 [(0, 5), (1, 1)]) = some 2 ∧ syncIllegal (bytesOf 16 [(0, 6), (1, 1)]) = some 6 ∧
      passIllegal 0 (bytesOf 96 [(0, 1), (1, 1)]) = some 6) ∧
    (let d := bytesOf 48 [(0, 3), (1, 1), (4, 1), (17, 1), (26, 0x10)];
      (heading d).headIs 0 0 d ∧ vectorIllegal d = none ∧ ((heading d).firstFault 0 0 (vectorAccesses 0 d)).isSome = true) ∧
    ((frozen (heading (vectorDesc 1))).slotIssues 0 0 = true ∧ (frozen (heading (vectorDesc 1))).head 0 0 = .desc (vectorDesc 1) ∧
      ((frozen (heading (vectorDesc 1))).slot 0 0).skips (vectorDesc 1) = true) ∧
    (∀ n ∈ [0, 1], ((heading []).slot 0 0).repeatCount = 0 ∧ (heading []).head 0 0 = .atEnd ∧ (heading []).alive = true ∧
      (let s := (heading []).modSlot 0 0 fun x => { x with repeatCount := 1, runsDone := n };
        s.shaped = true ∧ (s.slot 0 0).state = .running ∧ (s.slot 0 0).clearing = false ∧ s.slotFlights 0 0 = [] ∧ (s.slot 0 0).mailboxOk)) := by
  unfold State.headIs Slot.mailboxOk; and_intros <;> decide +kernel

theorem test_hyp_VectorOperations :
    ∀ op ∈ vectorOps, (heading (vectorDesc op)).shaped = true ∧ (heading (vectorDesc op)).headIs 0 0 (vectorDesc op) ∧
      (heading (vectorDesc op)).segsAligned 0 0 ∧ dClass (vectorDesc op) = 3 ∧ dOp (vectorDesc op) = op ∧
      vectorIllegal (vectorDesc op) = none ∧ (heading (vectorDesc op)).mayAccess 0 0 (vectorAccesses 0 (vectorDesc op)) ∧
      (heading (vectorDesc op)).countsAllow ((heading (vectorDesc op)).writeRanges 0 0 (vectorAccesses 0 (vectorDesc op))) = true ∧
      (heading (vectorDesc op)).hasTurn 0 0 .vector 0 (fun u => u.vectorIssue 0 []) := by
  unfold State.headIs State.segsAligned State.mayAccess State.hasTurn; decide +kernel

/-- The table descriptor stands at the head, and table slot 0 holds a pair. -/
def tabled (op : Nat) : State := (heading (tableDesc op)).modBasin 0 fun x => { x with tables := some [] :: List.replicate 7 none }

theorem test_hyp_TableOperations :
    ∀ op ∈ [1, 2, 3, 4, 5, 6, 7, 8], (tabled op).shaped = true ∧ (tabled op).headIs 0 0 (tableDesc op) ∧ (tabled op).segsAligned 0 0 ∧
      dClass (tableDesc op) = 4 ∧ dOp (tableDesc op) = op ∧ tableIllegal (tableDesc op) = none ∧ (tabled op).tableReady 0 (tableDesc op) = true ∧
      (tabled op).mayAccess 0 0 (tableAccesses 0 (tableDesc op)) ∧
      (tabled op).countsAllow ((tabled op).writeRanges 0 0 (tableAccesses 0 (tableDesc op))) = true ∧
      ((tabled op).writeRanges 0 0 (tableAccesses 0 (tableDesc op))).Pairwise (fun r q => rangesMeet r q = false) ∧
      (tabled op).hasTurn 0 0 .table 0 (fun u => u.tableIssue 0 []) := by
  unfold State.headIs State.segsAligned State.mayAccess State.hasTurn; decide +kernel

/-- An operation of a unit of basin 0 is in flight, with the last cell as SetCell. -/
def flying (u : UnitKind) : Flight :=
  { id := 0, unit := u, basin := 0, slot := 0, setCell := some 255, writes := [], basins := [0], step := 0, isPlace := false, lateFault := none }

/-- The rows of the move below stand. -/
theorem test_rowStands (s : State) : s.rowStands 0x1000 64 ∧ s.rowStands 0 64 :=
  ⟨show 0x1000 + 64 ≤ 0x100000000000 by decide, show 0 + 64 ≤ 0x100000000000 by decide⟩

theorem test_hyp_MovesAndCompletions :
    (∀ op ∈ [1, 2], let d := moveDesc op
      (heading d).shaped = true ∧ (heading d).headIs 0 0 d ∧ dClass d = 5 ∧ moveIllegal d = none ∧ (heading d).unitBusy 0 .move = false ∧
      (heading d).mayAccess 0 0 (moveOf d).accesses ∧ (heading d).moveOverlaps 0 0 (moveOf d) = false ∧
      (heading d).accessesWait 0 0 (moveOf d).accesses = false ∧ (heading d).capturing = false ∧ (heading d).moveUnaligned 0 0 (moveOf d) = false ∧
      (heading d).hasTurn 0 0 .move 0 (fun u => u.moveAt 0 []) ∧ (heading d).segAddr 0 0 0 0x1000 = 0x1000 ∧
      (heading d).segAddr 0 0 0 0 = 0 ∧
      (heading d).countsAllow ((heading d).writeRanges 0 0 (moveOf d).accesses) = true ∧ (heading d).flights = [] ∧ (moveOf d).rows = 1 ∧
      (moveOf d).len = 64) ∧
    (∀ u ∈ [UnitKind.move, .vector, .table, .tarn], let s : State := { opened with flights := [flying u] }
      s.alive = true ∧ s.shaped = true ∧ (flying u).lateFault = none ∧ s.spmmDone 0 0 = true ∧
        (s.flights.filter fun g => g.basin == 0 && g.unit == u)[0]? = some (flying u)) ∧
    (let s : State := { opened with flights := [flying .mere] };
      s.alive = true ∧ s.shaped = true ∧ (s.passesOn 0).head? = some (flying .mere) ∧
        ∀ m ∈ (flying .mere).basins, ((s.passesOn m).head?.map (·.id)) = some (flying .mere).id) := by
  unfold State.headIs State.mayAccess State.hasTurn; and_intros <;> decide +kernel

/-! ### Witnesses: meres, tarns, routes -/

/-- The pass is staged on basin 0. -/
def stagedPass : State := (heading passDesc).modBasin 0 fun x => { x with mere := { x.mere with staged := some ⟨0, 0, passDesc, 1, none⟩ } }

theorem test_hyp_MerePasses :
    ((heading passDesc).shaped = true ∧ (heading passDesc).alive = true ∧ (heading passDesc).nextPass 0 0 = some (passDesc, none) ∧
      ((heading passDesc).now 0).stageGranted 0 false 0 = true ∧ ({ heading [] with time := 0 } : State).stageGranted 0 false 0 = false ∧
      (heading passDesc).gangMissing 0 (((passOf passDesc).members 0).map (·.1)) = 0 ∧
      (heading passDesc).mayAccess 0 0 ((passOf passDesc).accesses 0) ∧ (heading passDesc).passNotNear 0 0 (passOf passDesc) = none ∧
      (heading passDesc).accessesWait 0 0 (((passOf passDesc).members 0).flatMap fun x => (passOf passDesc).loads 0 x.1 x.2) = false ∧
      (passOf passDesc).transB = false ∧ (passOf passDesc).nm = 0 ∧ (heading passDesc).damagedUnits = []) ∧
    (stagedPass.shaped = true ∧ stagedPass.alive = true ∧ (stagedPass.basin 0).mere.staged = some ⟨0, 0, passDesc, 1, none⟩ ∧ stagedPass.slotIssues 0 0 = true ∧
      stagedPass.passResident 0 0 (passOf passDesc) (stagedPass.spmmFlight 0 ⟨0, 0, passDesc, 1, none⟩) = true ∧
      stagedPass.countsAllow (stagedPass.passRanges 0 0 (passOf passDesc) [40]) = true ∧ (passOf passDesc).gang = 1 ∧
      (passOf passDesc).tiledA = false ∧ (∀ r ∈ stagedPass.passRanges 0 0 (passOf passDesc) [40], r.1 + r.2 ≤ 0x40000000) ∧
      (passOf passDesc).transA = false ∧ (passOf passDesc).skipEn = false ∧ (passOf passDesc).fmtA.isMX = false ∧
      ctlRound (passOf passDesc).ctl = 0 ∧ (passOf passDesc).rows ≤ 1) := by
  unfold State.mayAccess; and_intros <;> decide +kernel

/-- A tarn descriptor of each operation of Table 6.5, with one row, index, stream or tile. -/
def tarnDesc : Nat → Bytes
  | 1 => bytesOf 64 [(0, 2), (1, 1), (4, 1), (14, 1), (17, 0x20), (22, 1), (25, 0x30), (42, 1), (44, 1), (54, 1)]
  | 2 => bytesOf 64 [(0, 2), (1, 2), (4, 1), (25, 2), (33, 1), (58, 1)]
  | 3 => bytesOf 64 [(0, 2), (1, 3), (4, 1), (25, 2), (33, 1), (42, 1), (54, 1)]
  | 4 => bytesOf 64 [(0, 2), (1, 4), (4, 1), (25, 2), (33, 0x10)]
  | n => bytesOf 64 [(0, 2), (1, BitVec.ofNat 8 n), (3, 8), (4, 1), (14, 1), (25, 0x30), (44, 1), (46, 1)]

/-- The descriptor stands at the head, and at address 0 lies a tile of BF16 zeros. -/
def tarned (d : Bytes) : State := (heading d).write 0 (buildTile .bf16 0 (List.replicate 64 (List.replicate 32 0)) false) false

/-- What TarnOperations asks of each operation. -/
def tarnMay (d : Bytes) : Prop :=
  (tarned d).shaped = true ∧ (tarned d).poolSegment 0 0 ∧ (tarned d).hasTurn 0 0 .tarn 0 (fun u => u.weaveIssue 0 []) ∧ (tarned d).headIs 0 0 d ∧ dClass d = 2 ∧ tarnIllegal d = none ∧ (tarned d).unitBusy 0 .tarn = false ∧
    (tarned d).mayAccess 0 0 (tarnAccesses 0 d) ∧ (tarned d).countsAllow ((tarned d).writeRanges 0 0 (tarnAccesses 0 d)) = true

theorem test_hyp_TarnOperations :
    (∀ op ∈ [1, 2, 3, 4, 5, 6], tarnMay (tarnDesc op) ∧ dOp (tarnDesc op) = op) ∧
    (tEngine (tarnDesc 1) = 0 ∧ ((tarned (tarnDesc 1)).readTile [] [] .bf16 0 0).headerBad = false ∧
      ((tarned (tarnDesc 1)).readTile [] [] .bf16 0 0).poisoned = false ∧ 4 * fieldB (tarnDesc 1) 42 2 ≤ tStridePart (tarnDesc 1)) ∧
    (leNat ((tarned (tarnDesc 2)).read 0x100 4) = 0 ∧
      (tarned (tarnDesc 2)).firstFault 0 0 [⟨8, 0, 0, tRowBytes (tarnDesc 2), false, .pools [0]⟩] = none ∧
      (tarned (tarnDesc 2)).accessesWait 0 0 [⟨8, 0, 0, tRowBytes (tarnDesc 2), false, .pools [0]⟩] = false) ∧
    ((tarned (tarnDesc 3)).firstFault 0 0 [⟨24, 0, 0x200, 4, true, .pools [0]⟩, ⟨24, 0, 0x200, 4, false, .pools [0]⟩] = none ∧
      (tarned (tarnDesc 3)).poisoned 0x100 4 = false ∧ tGenEn (tarnDesc 3) = false ∧ 4 ≤ tStridePart (tarnDesc 3)) ∧
    (let d := bytesOf 64 [(0, 2), (1, 3), (4, 1), (25, 2), (33, 1), (39, 8), (42, 1), (54, 1), (56, 7)];
      tarnMay d ∧ tGenEn d = true ∧ (tarned d).hasRetired 0 7 = false ∧
      ((tarned d).modBasin 0 fun x => { x with generations := { retired := [7] } }).hasRetired 0 7 = true) ∧
    (tCombine (tarnDesc 4) = false ∧ streamEntry ((tarned (tarnDesc 4)).read 0x1000 16) = (0, 0, true) ∧
      (tarned (tarnDesc 4)).mayAccess 0 0 [⟨24, 0, 0x200, 64, true, .pools [0]⟩]) ∧
    (fieldB (tarnDesc 5) 32 6 = 0 ∧ ((tarned (tarnDesc 6)).readTile [] [] .bf16 0 0).poisoned = false ∧ 64 ≤ tStride (tarnDesc 6)) := by
  unfold tarnMay State.headIs State.mayAccess State.poolSegment State.hasTurn; and_intros <;> decide +kernel

/-- A route descriptor of each operation of Table 7.1, with one token, record or row. -/
def routeDesc : Nat → Bytes
  | 1 => bytesOf 64 [(0, 8), (1, 1), (4, 1), (22, 1), (25, 2)]
  | 2 => bytesOf 64 [(0, 8), (1, 2), (4, 1), (25, 2), (33, 0x10), (45, 0x40), (53, 0x80)]
  | 3 => bytesOf 64 [(0, 8), (1, 3), (4, 1), (17, 0x10), (22, 1), (25, 2), (33, 3)]
  | 4 => bytesOf 64 [(0, 8), (1, 4)]
  | 5 => bytesOf 64 [(0, 8), (1, 5), (4, 1), (22, 64), (25, 0x10), (33, 0x20), (60, 64)]
  | _ => bytesOf 64 [(0, 8), (1, 6), (4, 1), (22, 1), (25, 2), (33, 1)]

/-- What RouteOperations asks of each operation. -/
def routeMay (op : Nat) : Prop :=
  let d := routeDesc op
  let s := heading d
  let xs := routeAccesses 0 (if op = 2 then (s.quotas 0x1000).sum else 0) d
  s.shaped = true ∧ s.headIs 0 0 d ∧ s.poolSegment 0 0 ∧ s.hasTurn 0 0 .tarn 0 (fun u => u.weaveIssue 0 []) ∧ dClass d = 8 ∧ dOp d = op ∧ routeIllegal d = none ∧ s.unitBusy 0 .tarn = false ∧ s.mayAccess 0 0 xs ∧
    (s.writeRanges 0 0 xs).Pairwise (fun r q => rangesMeet r q = false) ∧ s.countsAllow (s.writeRanges 0 0 xs) = true

theorem test_hyp_RouteOperations :
    (∀ op ∈ [1, 2, 3, 4, 5, 6], routeMay op) ∧
    ((heading (routeDesc 2)).generationFits 0 0 = true ∧
      ((heading (routeDesc 2)).modBasin 0 fun x => { x with generations := { outstanding := [4096] } }).generationFits 0 0 = false) ∧
    (rK (routeDesc 3) = 1 ∧ (∀ x ∈ routeAccesses 0 0 (routeDesc 3), x.write = false → x.field = 8 ∨ x.field = 16 →
      ∀ q ∈ (heading (routeDesc 3)).writeRanges 0 0 (routeAccesses 0 0 (routeDesc 3)), rangesMeet (x.off, x.len) q = false)) ∧
    (sequenceBad 64 0 0 [(fieldB ((heading (routeDesc 5)).read 0 8) 0 4, fieldB ((heading (routeDesc 5)).read 0 8) 4 4)] = some 0 ∧
      ((heading (routeDesc 5)).slot 0 0).mailboxOk) ∧
    (let s := (heading (routeDesc 5)).write 4 [64] false;
      s.headIs 0 0 (routeDesc 5) ∧ sequenceBad 64 0 0 [(fieldB (s.read 0 8) 0 4, fieldB (s.read 0 8) 4 4)] = none) := by
  unfold routeMay State.headIs State.mayAccess State.poolSegment State.hasTurn Slot.mailboxOk; and_intros <;> decide +kernel

/-! ### Witnesses: sync operations and their messages -/

/-- A sync descriptor with Cell 255. -/
def syncDesc (op : Byte) (xs : List Host.Cell) : Bytes := bytesOf 16 ([(0, 6), (1, op), (2, 255)] ++ xs)

/-- Tree 31 of partition 0. -/
def tree31 (parent : Option Nat) (children : List Nat) (o : Option (Nat × Nat × Option Nat)) : TreeRec :=
  { treeId := 31, parent := parent, parentPart := 7, children := children, childParts := children.map fun _ => 0, height := 1, record := []
    outstanding := o }

/-- A tree is defined. -/
def withTree (s : State) (r : TreeRec) : State := s.modPartition 0 fun x => { x with trees := [r] }

/-- What SyncOperations asks of a descriptor. -/
def syncMay (d : Bytes) : Prop := (heading d).shaped = true ∧ (heading d).headIs 0 0 d ∧ dClass d = 6 ∧ syncIllegal d = none

theorem test_hyp_SyncOperations :
    (∀ d ∈ [syncDesc 1 [(6, 0xFF), (7, 0xFF)], syncDesc 2 [(3, 0x3F), (4, 5), (6, 1)], syncDesc 2 [(3, 0x3F), (4, 6), (6, 1)], syncDesc 3 [(6, 1)],
        syncDesc 4 [], syncDesc 5 [(6, 31)], syncDesc 6 [(3, 0x38), (4, 5)], bytesOf 16 [(0, 6), (1, 7), (8, 1)], bytesOf 16 [(0, 6), (1, 0x40), (4, 5)]],
      syncMay d ∧ ((heading d).slot 0 0).mailboxOk) ∧
    (∀ d ∈ [syncDesc 2 [(3, 0x3F), (4, 5), (6, 1)], syncDesc 6 [(3, 0x38), (4, 5)]],
      (heading d).reaches 0 5 0 peer ∧ (heading d).flights = [] ∧ (heading d).ctxFor 0 6 = none ∧
        ({ heading d with contexts := [{ peer with lost := true }] } : State).ctxFor 0 5 = some { peer with lost := true }) ∧
    (let s := heading (syncDesc 5 [(6, 31)]);
      s.tree 0 31 = none ∧ (withTree s (tree31 none [] none)).tree 0 31 = some (tree31 none [] none) ∧
        (withTree s (tree31 none [] none)).headIs 0 0 (syncDesc 5 [(6, 31)]) ∧ (withTree s (tree31 none [5] none)).peerLive 0 5 = true ∧
        (withTree s (tree31 none [] (some (0, 0, none)))).tree 0 31 = some (tree31 none [] (some (0, 0, none))) ∧
        (withTree s (tree31 (some 5) [] none)).reaches 0 5 0 peer) := by
  unfold syncMay State.headIs State.reaches Slot.mailboxOk; and_intros <;> decide +kernel

/-- A TC0 message of a type from device 5 has arrived: tree 31 or basin 0, number 0 or value 1. -/
def arrived (s : State) (type : Nat) (rest : Bytes) : State :=
  { s with router := { inbox := [(0, 15, { tc0 type 0 0 rest with src := 5 })] } }

theorem test_hyp_SyncMessages :
    (∀ type ∈ [0x10, 0x11, 0x12, 0x13], linked.inboxFind (fun m => m.cls == 0 && m.type == type) = none) ∧
    (∀ b ∈ [0, 1], let s := arrived linked 0x10 (toLE 1 b ++ [255] ++ toLE 2 1)
      s.alive = true ∧ s.shaped = true ∧ (s.inboxFind fun m => m.cls == 0 && m.type == 0x10).isSome = true ∧ s.holdsBasin 0 b = (b == 0)) ∧
    (let s := arrived linked 0x11 (barrierRest 31 0);
      (s.inboxFind fun m => m.cls == 0 && m.type == 0x11).isSome = true ∧ s.tree 0 31 = none ∧
        ∀ o ∈ [none, some (0, 0, some 255)], ∀ cs ∈ [[], [5]], (withTree s (tree31 none cs o)).tree 0 31 = some (tree31 none cs o) ∧
          (5, 0) ∈ (tree31 none cs o).arrivals ++ [(5, 0)] ∧ (withTree s (tree31 none cs o)).shaped = true) ∧
    (let s := arrived linked 0x12 (barrierRest 31 0);
      (s.inboxFind fun m => m.cls == 0 && m.type == 0x12).isSome = true ∧
        ∀ o ∈ [none, some (0, 0, some 255)], ∀ q ∈ [none, some 5], (withTree s (tree31 q [] o)).tree 0 31 = some (tree31 q [] o)) ∧
    (let s := arrived linked 0x13 (barrierRest 0 0);
      (s.inboxFind fun m => m.cls == 0 && m.type == 0x13).isSome = true ∧ s.ctx 15 = some peer ∧ peer.pairOut = [] ∧
        ({ s with contexts := [{ peer with pairOut := [(0, 0, some 255, 0)] }] } : State).ctx 15 =
          some { peer with pairOut := [(0, 0, some 255, 0)] }) := by
  and_intros <;> decide +kernel

/-! ### Witnesses: collectives -/

/-- A group of ranks 0 (device 6) and 1 (device 5) over tree 31; this device has rank 0. -/
def pairGroup (late : Bool) : GroupRec :=
  { gid := 1, hasMap := false, weirFromStill := false, lateAdd := late, algorithm := 0, members := [6, 5], ownRank := 0, inner := 0, weir := 0
    minJoin := 1, headroom := 0, tree := 31, map := [], record := [] }

/-- The group is defined in partition 0, its tree with the parent. -/
def coll (s : State) (parent : Option Nat) (late : Bool) : State :=
  (withTree s (tree31 parent [] none)).modPartition 0 fun x => { x with groups := [pairGroup late] }

/-- A collective of group 1, Seq 0: 64 elements, one unit, entry or token, from 0 to 0x1000. -/
def collDesc (op : Nat) : Bytes :=
  bytesOf 96 ((0, 7) :: (1, BitVec.ofNat 8 op) :: (if op = 3 then [] else [(4, if op ≤ 2 then 64 else 1)]) ++
    (if op = 4 then [(23, 1), (25, 2)] else [(17, 0x10), (23, 1)]) ++ (if op = 5 then [(25, 2), (33, 3), (45, 4), (60, 1)] else if op = 6 then [(25, 2), (33, 3), (45, 4), (53, 5), (60, 1), (62, 1), (70, 1)] else []))

/-- A member's part of basin 0 with the descriptor. -/
def memberOf (op : Nat) : MemberPart := { basin := 0, slot := 0, flight := 0, desc := collDesc op }

/-- The instance of group 1, Seq 0, at step 0. -/
def instOf (m : Option MemberPart) (r : Option RootPart) : Inst := { part := 0, gid := 1, seq := 0, step := 0, member := m, root := r }

/-- What CollectivesIssue asks of a legal collective. -/
def collMay (op : Nat) (parent : Option Nat) : Prop :=
  let d := collDesc op
  let s := coll (heading d) parent false
  s.shaped = true ∧ s.headIs 0 0 d ∧ s.capturing = false ∧ dClass d = 7 ∧ collIllegal d = none ∧ s.instances = [] ∧
    s.group 0 1 = some (pairGroup false) ∧ collGroupIllegal (pairGroup false) d = none ∧ s.tree 0 31 = some (tree31 parent [] none) ∧
    s.mayAccess 0 0 (s.collAccesses 0 0 (pairGroup false) false d) ∧ s.accessesWait 0 0 (s.collAccesses 0 0 (pairGroup false) false d) = false ∧
    s.countsAllow (s.writeRanges 0 0 (s.collAccesses 0 0 (pairGroup false) false d)) = true

theorem test_hyp_CollectivesIssue :
    (∀ op ∈ [1, 2, 3], collMay op none) ∧ (∀ op ∈ [4, 5], collMay op none) ∧ collMay 6 none ∧ collMay 3 (some 5) ∧ (coll (heading (collDesc 1)) (some 5) false).reaches 0 5 0 peer ∧
    (heading (collDesc 1)).group 0 1 = none ∧ ((heading (collDesc 1)).slot 0 0).mailboxOk := by
  unfold collMay State.headIs State.mayAccess State.reaches Slot.mailboxOk; and_intros <;> decide +kernel

theorem test_hyp_CollectivesIssue_held :
    (frozen (coll (heading (collDesc 1)) none false)).headIs 0 0 (collDesc 1) ∧
    ((frozen (coll (heading (collDesc 1)) none false)).slot 0 0).regionPart = 2 ∧
    ({ heading (collDesc 1) with instances := [instOf (some (memberOf 1)) none] } : State).headIs 0 0 (collDesc 1) ∧
    ([instOf (some (memberOf 1)) none].filter fun (i : Inst) => i.member.isSome) = [instOf (some (memberOf 1)) none] := by
  unfold State.headIs; and_intros <;> decide +kernel

/-- A TC0 message of the instance has arrived from device 5. -/
def sentTo (s : State) (type : Nat) (rest : Bytes) : State :=
  { s with router := { inbox := [(0, 15, { tc0 type 0 (collPlace 1 0 0) rest with src := 5 })] } }

/-- Its JOIN of rank 1. -/
def joining (s : State) : State := sentTo s 0x20 (joinRest 1 false 0)

/-- The root's part of the instance. -/
def rooted (s : State) (r : RootPart) : State := { s with instances := [instOf none (some r)] }

theorem test_hyp_JoinsAndStarts :
    (linked.alive = true ∧ linked.shaped = true ∧ linked.capturing = false ∧ linked.inboxFind (fun m => m.cls == 0 && m.type == 0x20) = none) ∧
    ((joining linked).group 0 1 = none ∧ 5 ≠ (joining linked).deviceId ∧
      ((joining linked).inboxFind fun m => m.cls == 0 && m.type == 0x20) = (joining linked).router.inbox[0]?) ∧
    (∀ q ∈ [none, some 5], let s := joining (coll linked q false)
      s.alive = true ∧ s.shaped = true ∧ s.capturing = false ∧ s.group 0 1 = some (pairGroup false) ∧ s.tree 0 31 = some (tree31 q [] none) ∧
        s.findInst 0 1 0 (fun i => i.step == 0) = none ∧ s.memberLost 0 (pairGroup false) 6 = false) ∧
    (∀ r ∈ [({ joins := [(1, false)] } : RootPart), { joins := [(0, false)], started := true }, { joins := [(0, false)] }],
      let s := rooted (joining (coll linked none false)) r
      s.alive = true ∧ s.shaped = true ∧ s.findInst 0 1 0 (fun i => i.step == 0) = some (instOf none (some r)) ∧
        (∀ y < 2, y = 1 ∨ r.joins.any (fun j => j.1 == y) = true ∨ r.joins = [(1, false)]) ∧ ∀ y < 2, s.memberLost 0 (pairGroup false) ([6, 5].getD y 0xFFFF) = false) ∧
    (let s : State := { rooted (joining (coll linked none false)) { joins := [(0, false)] } with contexts := [{ peer with lost := true }] };
      s.memberLost 0 (pairGroup false) 5 = true) ∧
    (∀ m ∈ [1, 2], let r : RootPart := { joins := [(0, false)], weir := 1, minJoin := m }
      let s := rooted (coll linked none false) r
      (s.findInst 0 1 0 fun i => match i.root with | some r => !r.started && (s.now 5000).weirClosed i r | none => false) = some (instOf none (some r)) ∧
        (s.findInst 0 1 0 fun i => match i.root with | some r => !r.started && (s.now 5).weirClosed i r | none => false) = none ∧
        sortRanks 2 (r.joins.map (·.1)) = [0]) ∧
    (∀ rest ∈ startRests 2 0 [] ++ startRests 1 0 [1] ++ startRests 1 0 [], let s : State := { sentTo (coll linked (some 5) false) 0x21 rest with instances := [instOf (some (memberOf 1)) none] }
      s.alive = true ∧ s.shaped = true ∧ (s.inboxFind fun m => m.cls == 0 && m.type == 0x21).isSome = true ∧ s.group 0 1 = some (pairGroup false)) ∧
    (∀ st ∈ [0, 1], let s : State := { sentTo (coll linked (some 5) false) 0x22 (toLE 2 0) with instances := [{ instOf (some (memberOf 1)) none with step := st }] }
      s.alive = true ∧ s.shaped = true ∧ (s.inboxFind fun m => m.cls == 0 && m.type == 0x22).isSome = true ∧
        (s.findInst 0 1 0 fun i => match i.member with | some m => !m.started && !m.excluded | none => false).isSome = true ∧
        (s.partition 0).step = 0 ∧ (s.partition 0).stillPhase = .idle ∧ s.ctxLost 0 5 = false ∧
        ({ s with contexts := [{ peer with lost := true }] } : State).ctxLost 0 5 = true) := by
  and_intros <;> decide +kernel

/-- A data message of the instance's item 0 has arrived from device 5, and the member's part is `m`. -/
def dataTo (cls type : Nat) (pay : Bytes) (m : MemberPart) : State :=
  { coll (heading m.desc) (some 5) false with
    router := { inbox := [(0, 15, { dataMsg cls type 0 (collPlace 1 0 0) pay 0 with src := 5 })] }, instances := [instOf (some m) none] }

/-- The started member of both ranks. -/
def running (op : Nat) : MemberPart := { memberOf op with started := true, joinedCount := 2, joined := [0, 1] }

/-- What CollectiveMessages asks of a data message that a member takes. -/
def takes (s : State) (m : MemberPart) : Prop :=
  s.alive = true ∧ s.shaped = true ∧ s.capturing = false ∧ s.instances = [instOf (some m) none] ∧
    (s.router.inbox.map fun x => s.taker x.1 x.2.2) = [some (some (instOf (some m) none, m, pairGroup false))]

/-- The entry of Table 7.5 for an expert, weight 1.0. -/
def choiceEntry : Bytes := [1, 0, 0, 0, 0, 0, 0x80, 0x3F]

theorem test_hyp_CollectiveMessages :
    (∀ q ∈ [none, some 5], let s := sentTo (coll linked q false) 0x23 (toLE 2 1)
      let r : RootPart := { started := true, joined := [0, 1], dones := [0] }
      (s.inboxFind fun m => m.cls == 0 && m.type == 0x23).isSome = true ∧ s.group 0 1 = some (pairGroup false) ∧
        s.tree 0 31 = some (tree31 q [] none) ∧ (rooted s r).findInst 0 1 0 (fun i => i.rootRuns) = some (instOf none (some r))) ∧
    (let s := sentTo (coll linked (some 5) false) 0x24 [];
      (s.inboxNext fun x => x.2.2.cls == 0 && x.2.2.type == 0x24 && !s.dataWaiting x.1 x.2.2.gid x.2.2.seqNo).isSome = true ∧
        ({ s with instances := [instOf (some { running 1 with doneSent := true }) none] } : State).findInst 0 1 0
          (fun i => match i.member with | some m => m.doneSent | none => false) = some (instOf (some { running 1 with doneSent := true }) none)) ∧
    (∀ q ∈ [none, some 5], let s : State := { sentTo (coll linked q false) 0x25 [] with instances := [instOf (some (running 1)) (some {})] }
      (s.inboxFind fun m => m.cls == 0 && m.type == 0x25).isSome = true ∧ s.deviceId ≠ 5 ∧ s.findInst 0 1 0 Inst.rootOpen = s.instances[0]? ∧
        5 ∉ (tree31 q [] none).children) ∧
    (∀ y ∈ [0x28, 0x29, 0x2A, 0x2B], let s : State := { dataTo 1 y [] (memberOf 1) with instances := [] }
      (s.router.inbox.find? fun x => x.2.2.cls != 0 && x.2.2.type == y && s.taker x.1 x.2.2 != some none).isSome = true ∧
        (s.router.inbox.map fun x => s.taker x.1 x.2.2) = [none]) ∧
    (∀ y ∈ [0x28, 0x29, 0x2B], takes (dataTo 1 y [] { memberOf 1 with excluded := true }) { memberOf 1 with excluded := true }) ∧
    (takes (dataTo 1 0x28 (zeros 130) (running 1)) (running 1) ∧
      (let s := dataTo 1 0x28 (zeros 130) (running 1)
       let q := s.ringJob (instOf (some (running 1)) none) (running 1) (pairGroup false);
       0 < q.total ∧ q.bf = false ∧ q.inner 0 = q.x ∧ q.shard 0 = (pairGroup false).shardOf q.x ∧ cMean (running 1).desc = false ∧
        ctlRound (cCtl (running 1).desc) = 0 ∧ q.inner 1 ≠ q.x ∧ s.reaches 0 (q.dev ((pairGroup false).nextOf q.js q.x (q.rev 1))) 1 peer)) ∧
    (takes (dataTo 1 0x29 [0] (running 1)) (running 1) ∧ cPre (running 1).desc = false) ∧
    (takes (dataTo 1 0x2A (zeros 4) (running 3)) (running 3) ∧ dOp (running 3).desc = 3) ∧
    (takes (dataTo 1 0x2B (zeros 64) (running 2)) (running 2) ∧
      0 + 1 ≤ 2 * ((dataTo 1 0x2B (zeros 64) (running 2)).ringJob (instOf (some (running 2)) none) (running 2) (pairGroup false)).units) ∧
    (∀ g ∈ [0, 3], takes (dataTo 1 0x2B (toLE 6 0x3000 ++ toLE 2 g ++ zeros 64) (running 4)) (running 4) ∧
      ((dataTo 1 0x2B [] (running 4)).accessCause 0 0 ⟨0, g, 0x3000, 64, true, .any⟩).isSome = (g == 3)) ∧
    (takes (dataTo 2 0x2C (zeros 72) (running 5)) (running 5) ∧ cRow (running 5).desc = 64 ∧
      (dataTo 2 0x2C (zeros 72) (running 5)).accessCause 0 0 ⟨16, 0, 0x1000, 64, true, .any⟩ = none ∧
      (dataTo 2 0x2C (zeros 72) (running 5)).accessCause 0 0 ⟨44, 0, 0x400, 8, true, .any⟩ = none) ∧
    (let s := (dataTo 2 0x2D (zeros 72) (running 6)).write 0x200 choiceEntry false
     let t := s.modBasin 0 fun x => { x with generations := { outstanding := [0] } };
      takes s (running 6) ∧ takes t (running 6) ∧ cDet (running 6).desc = false ∧ s.outstanding 0 0 = false ∧ t.outstanding 0 0 = true ∧
        s.holdsBasin 0 0 = true ∧ s.holdsBasin 0 7 = false ∧ 0 < cK (running 6).desc ∧ 0 < cCount (running 6).desc ∧
        fieldB (t.read (t.segAddr 0 0 (cSegAux (running 6).desc) (cAux (running 6).desc)) 8) 0 2 ≠ 0xFFFF) := by
  unfold takes State.reaches; and_intros <;> decide +kernel

/-! ### Witnesses: stills -/

/-- Partition 0 has a plan of 600 ms, next still at 0, from a pulse source, and its still stands in a phase. -/
def stillAt (source : PulseSource) (phase : StillPhase) (queued : Bool) : State :=
  (withTree linked (tree31 (some 5) [] none)).modPartition 0 fun x =>
    { x with plan := { period := 600000000, next := 0, source := source }, stillPhase := phase, stillQueued := queued }

theorem test_hyp_StillsStartAndRun :
    (∀ y ∈ [PulseSource.off, .pin, .tree 31], ∀ f ∈ [StillPhase.idle, .waitingPlace], ∀ q ∈ [true, false], let s := stillAt y f q
      s.alive = true ∧ s.shaped = true ∧ (s.partition 0).isOpen = true ∧ s.pulsesCount 0 (s.partition 0).ruling = (y != .off) ∧
        (s.partition 0).ruling.period ≠ 0 ∧ (s.partition 0).ruling.next + (s.partition 0).ruling.window ≤ 10000000000 ∧
        (s.now 0).windowOpen 0 (s.partition 0).ruling = (y != .off) ∧ (s.now 10000000000).windowOpen 0 (s.partition 0).ruling = false ∧
        (s.partition 0).stillQueued = q ∧ (s.partition 0).stillPhase = f ∧ s.placesOpen 0 = false ∧
        ({ s with flights := [{ flying .tarn with isPlace := true }] } : State).placesOpen 0 = true) ∧
    (∀ q < 8, q ≠ 0 → ((stillAt .pin .idle false).partition q).isOpen = false) ∧
    (∀ r ∈ [tree31 none [] none, tree31 (some 5) [] none], let s := withTree (arrived (stillAt (.tree 31) .idle false) 0x14 [31]) r
      (s.inboxFind fun m => m.cls == 0 && m.type == 0x14) = s.router.inbox[0]? ∧ s.tree 0 31 = some r ∧
        (s.router.inbox.map fun x => fieldB x.2.2.payload 6 1 % 32) = [31]) := by
  and_intros <;> decide +kernel

/-! ### Witnesses: links -/

/-- A CRC-32 has 32 bits. -/
theorem crc32_lt (bs : Bytes) : crc32 bs < 2 ^ 32 := by
  have step (n c : Nat) (h : c < 2 ^ 32) : crcBits 0xEDB88320 n c < 2 ^ 32 := by
    induction n generalizing c with
    | zero => exact h
    | succ n ih => exact ih _ (by split <;> first | exact Nat.xor_lt_two_pow (by omega) (by decide) | omega)
  have run (c : Nat) (h : c < 2 ^ 32) : crcBytes 0xEDB88320 bs c < 2 ^ 32 := by
    induction bs generalizing c with
    | nil => exact h
    | cons b bs ih => exact ih _ (step _ _ (Nat.xor_lt_two_pow h (by have := b.isLt; omega)))
  exact Nat.xor_lt_two_pow (run _ (by decide)) (by decide)

/-- Whether a frame of 638 bytes and a CRC-32 passes it. -/
theorem crcOk_append (b : Bytes) (v : Nat) (hb : b.length = 638) (hv : v < 2 ^ 32) : crcOk (b ++ toLE 4 v) = (v == crc32 b) := by
  have h1 : sliceB (b ++ toLE 4 v) 0 638 = b := by simp [sliceB, ← hb, zeros]
  have h2 : fieldB (b ++ toLE 4 v) 638 4 = v := by simp [fieldB, ← hb, toLE, leNat]; omega
  rw [crcOk, h1, h2]

/-- The first 638 bytes of a frame of a kind with sequence number `seq` and no payload. -/
def frameHead (kind seq : Nat) : Bytes := toLE 8 (frameHeader seq 4095 kind 0 0 0x3FF 0 0) ++ zeros 630

/-- Every kind of frame with a header that passes; it passes the CRC-32 with its own and fails with the next number. -/
theorem test_hyp_FramesOfALink_received :
    (∀ k ∈ [0, 1, 2, 3], ∀ n ∈ [0, 7], let h := fieldB (frameHead k n) 0 8
      headerOk (frameHead k n) = true ∧ bits h 39 38 = k ∧ bits h 63 52 = n) ∧
    headerOk ((frameHead 0 0).set 0 0xFF) = false ∧
    ∀ k n, crcOk (frameHead k n ++ toLE 4 (crc32 (frameHead k n))) = true ∧
      crcOk (frameHead k n ++ toLE 4 ((crc32 (frameHead k n) + 1) % 2 ^ 32)) = false := by
  refine ⟨by decide +kernel, by decide +kernel, fun k n => ?_⟩
  have hl : (frameHead k n).length = 638 := by rw [frameHead, List.length_append, zeros, List.length_replicate]; rfl
  have hc := crc32_lt (frameHead k n)
  rw [crcOk_append _ _ hl hc, crcOk_append _ _ hl (Nat.mod_lt _ (by decide))]
  refine ⟨beq_self_eq_true _, beq_false_of_ne ?_⟩
  omega

/-- Sub-port 0 of `opened` is UP, and otherwise as `x`. -/
def linkUp (x : SubPort) : State := { opened with subPorts := { x with state := .up } :: List.replicate 47 {} }

/-- A message of a class waits at a sub-port. -/
def waitingAt (c : Nat) : PortMsg := { msg := { tc0 0x10 0 0 [] with cls := c }, vc := 0, routerVc := 0, excess := false, toSend := 32 }

theorem test_hyp_FramesOfALink :
    (∀ n ∈ [0, 255], (linkUp { framesSent := n }).alive = true ∧ (linkUp { framesSent := n }).shaped = true ∧
      ((linkUp { framesSent := n }).sub 0).state = .up ∧ ((linkUp { framesSent := n }).sub 0).rxNext = 0 ∧
      ((linkUp { framesSent := n }).sub 0).crcTimes = [] ∧ ((linkUp { framesSent := n }).sub 0).arbitrate = none ∧
      ((linkUp { framesSent := n }).sub 1).state ≠ .up) ∧
    ((linkUp { crcFails := 3 }).sub 0).crcFails = 3 ∧
    (let f : SentFrame := ⟨0, 0, 0, 0, [], 1⟩
     let x : SubPort := { replay := [f], resendFrom := some 0 };
      ((linkUp x).sub 0).replay.find? (fun f => f.seq == 0) = some f) ∧
    ((linkUp { outgoing := [waitingAt 3] }).sub 0).arbitrate = some (3, 0) ∧
    ((linkUp { outgoing := [waitingAt 3, waitingAt 0] }).sub 0).arbitrate = some (0, 0) := by
  and_intros <;> decide +kernel

/-- A message waits at the local port. -/
def local_ (s : State) (m : Msg) : State := { s with router := { s.router with localQueue := [m] } }

/-- Every route goes to sub-port 0, which is UP. -/
def routed : State :=
  { linkUp {} with contexts := [peer], deviceId := 0
                   router := { groupTable := List.replicate 256 { stay := 1, up := 1, valid := true }, memberTable := List.replicate 64 { stay := 1, up := 1, valid := true } } }

/-- The bytes of one message at the head of a receive stream. -/
def streaming (m : Msg) : State := linkUp { rx := { bytes := m.bytes } :: List.replicate 7 {} }

theorem test_hyp_RoutingAndDelivery :
    (routed.alive = true ∧ routed.shaped = true ∧ routed.router.localQueue = [] ∧ (routed.sub 1).state ≠ .up ∧ routed.router.waiting = [] ∧
      routed.inboxFind (fun m => !typeDefined m.cls m.type) = none) ∧
    (let m : Msg := { tc0 0x10 0 0 [] with dst := 5 };
      (local_ routed m).router.takeLocal.map (·.1) = some m ∧ ((local_ routed m).routeFor 5).isSome = true ∧ (local_ opened m).routeFor 5 = none ∧
        (((local_ routed m).routeFor 5).map fun e => (local_ routed m).candidates e 0) = some [(0, 0)] ∧
        ((({ local_ routed m with subPorts := opened.subPorts } : State).routeFor 5).map fun e =>
          ({ local_ routed m with subPorts := opened.subPorts } : State).candidates e 0) = some []) ∧
    (∀ n ∈ [0, 2 ^ 32 - 1], let m : Msg := { tc0 0x10 0 0 [] with src := 5, peerSeq := n }
      let s := local_ routed m
      s.router.takeLocal.map (·.1) = some m ∧ s.ctxFor 0 5 = some peer ∧ s.ctx 15 = some peer ∧ s.ctxFor 0 6 = none ∧
        ({ s with contexts := [{ peer with lost := true }] } : State).ctxFor 0 5 = some { peer with lost := true } ∧
        (m.peerSeq = (peer.cls 0).expected % 2 ^ 32 ∨ serialDiff 32 m.peerSeq ((peer.cls 0).expected % 2 ^ 32) ≥ max (peer.cls 0).window (2 ^ 31))) ∧
    (let s := streaming { tc0 0x10 0 0 [0, 0, 0, 0] with dst := 5, src := 6, hops := 15 };
      (((s.sub 0).rx.getD (streamIx 0 0) {}).front.map fun x => (x.1.map (·.hops), x.2.2.2)) = some (some 15, false)) ∧
    (let s : State := { linked with router := { waiting := [⟨tc0 0x10 0 0 [], 0, 0, none⟩], inbox := [(0, 15, { tc0 0x3F 0 0 [] with src := 5 })] } };
      s.router.waiting.length = 1 ∧ (s.inboxFind fun m => !typeDefined m.cls m.type) = s.router.inbox[0]?) := by
  and_intros <;> decide +kernel

/-- The context for device 5 has a message unacknowledged, a return to send and `probes` open, `missed` before them. -/
def waitingPeer (probes : List Nat) (missed : Nat) (lost : Bool) : PeerCtx :=
  { peer with classes := { unacked := [⟨tc0 0x10 0 0 [], .none, 0⟩] } :: List.replicate 3 {}, needReturn := true, peerPart := some 0
              probes := probes, probesMissed := missed, lost := lost }

theorem test_hyp_ReturnsAndProbes :
    (linked.inboxFind (fun m => m.cls == 0 && m.type == 1) = none ∧ linked.inboxFind (fun m => m.cls == 0 && m.type == 2) = none ∧
      linked.ctx 15 = some peer ∧ peer.needReturn = false ∧ linked.partOfCtx 15 = some 0) ∧
    (∀ y ∈ [1, 2], let s : State := { linked with contexts := [waitingPeer [] 0 false], router := { inbox := [(0, 15, { tc0 y 0 0 (zeros 40) with src := 5 })] } }
      s.alive = true ∧ s.shaped = true ∧ (s.inboxFind fun m => m.cls == 0 && m.type == y) = s.router.inbox[0]? ∧
        s.ctx 15 = some (waitingPeer [] 0 false) ∧ s.instances = [] ∧ s.flights = [] ∧
        (∀ p < 8, (s.partition p).capture = none ∧ (s.partition p).checkpoint = none)) ∧
    (∀ l ∈ [true, false], let c := waitingPeer [0] 3 l
      c.needReturn = true ∧ c.lost = l ∧ c.lastReturn = none ∧ c.peerPart = some 0 ∧ c.classes.length = 4 ∧ (∀ j < 4, (c.cls j).queue = []) ∧
        ((c.cls 0).unacked.filter fun a => a.lastSent + 100000 ≤ 100000).length = 1 ∧
        ((c.cls 0).unacked.filter fun a => a.lastSent + 100000 ≤ 0) = [] ∧ c.probesMissed = 3 ∧ 0 + 100000 ≤ max linked.time 100000) ∧
    (waitingPeer [0] 2 false).probesMissed < 3 := by
  and_intros <;> decide +kernel

/-! ### Witnesses: CXL ports, stacks, images, power -/

/-- CXL port 0 of `opened` is as `c`. -/
def ported (c : CxlPort) : State := { opened with cxl := c :: List.replicate 7 {} }

theorem test_hyp_CxlPortsAndStacks :
    (∀ c ∈ [({} : CxlPort), { failed := true }, { state := .present }, { state := .online, linkUp := true, mapped := 0x10000000 },
        { state := .online, downSince := some 0 }, { state := .lost }, { state := .lost, acked := true }],
      (ported c).alive = true ∧ (ported c).shaped = true ∧ (ported c).port 0 = c ∧ ((ported c).now 0).cxlPerst 0 = true ∧
        placeOf (cxlBase 0) = .cxl 0 0 ∧ (ported c).cached (cxlBase 0) = false) ∧
    (let s := State.reset;
      s.shaped = true ∧ (s.basin 0).wiping = false ∧ (s.hbm.getD 0 {}).patrol < stackUnits ∧ (s.now 0).stackWornOut 0 = false ∧
        s.storedPoison (stackUnitAddr 0 (s.hbm.getD 0 {}).patrol) 64 = false ∧ (opened.basin 0).state = .active ∧
        (opened.hbm.getD 0 {}).lastRecal + 128000000 ≤ max opened.time 128000000 ∧ (opened.basin 1).state ≠ .active ∧
        (opened.basin 1).state ≠ .draining ∧ (opened.basin 0).state ≠ .retired) ∧
    (let s : State := { State.reset with power := .held, basins := { state := .service } :: { state := .idle, wiping := true } :: List.replicate 6 { state := .retired } };
      s.power = .held ∧ s.faultCause = none ∧ s.shaped = true ∧ (s.basin 0).state = .service ∧ (s.basin 1).wiping = true ∧ (s.basin 2).state = .retired) := by
  and_intros <;> decide +kernel

/-- A message of device 5 has come to partition 0, with the place and payload bytes after it. -/
def imageMsg (s : State) (cls type place : Nat) (rest : Bytes) : State :=
  { s with router := { inbox := [(0, 15, { (if cls = 0 then tc0 type 0 place rest else dataMsg cls type 0 place rest 0) with src := 5 })] } }

/-- The region of 32 KiB at offset 0 of partition 0's stacks that holds images of device 5's partition 0. -/
def heldRegion : HeldRegion := { part := 0, source := 5, sourcePart := 0, off := 0, size := 0x8000, coFed := false }

/-- An image in it whose pages come to offset 0x1000, with its record at 0x100. -/
def heldImage (ck : Bool) : HeldImage :=
  { part := 0, source := 5, sourcePart := 0, isCheckpoint := ck, slot := 0, step := 0, regionOff := 0, recordOff := 0x100, imageOff := 0x1000
    imageSize := 0x2000, filling := true }

/-- The bytes of IMAGE_BEGIN of that image after Place. -/
def beginRest (ck : Bool) : Bytes := [0, if ck then 4 else 0] ++ zeros 8 ++ toLE 8 0 ++ toLE 8 0x1000 ++ toLE 8 0x2000 ++ [0]

/-- The partition holds the region and the image. -/
def holding (s : State) (ck : Bool) : State := { s with regions := [heldRegion], images := [heldImage ck] }

/-- A capture of a reflection to device 5 that has begun, or not. -/
def capturing (begun sent : Bool) : State :=
  linked.modPartition 0 fun x => { x with capture := some {
    kind := .reflection, startTime := 0, step := 0, holder := 5, holderPart := 0, slot := 0, regionOff := 0, recordOff := 0, imageOff := 0, imageSize := 0
    flags := 0, pageCount := 0, front := [], pages := [], unread := [], shadowBase := 0, shadowPages := 0, digest := [], onTC2 := false, begun := begun, commitSent := sent } }

theorem test_hyp_ImagesFeedsAndRestores :
    (∀ ck, let s := imageMsg (holding (heading []) ck) 0 0x30 0x100 (beginRest ck)
      s.alive = true ∧ s.shaped = true ∧ s.capturing = false ∧ (s.inboxFind fun m => m.cls == 0 && m.type == 0x30) = s.router.inbox[0]? ∧
        s.regionFor 0 5 0 = some heldRegion) ∧
    (∀ n ∈ [0, 0x1000], let s := imageMsg (holding (heading []) true) 1 0x31 n (zeros 4)
      (s.inboxFind fun m => m.cls != 0 && m.type == 0x31) = s.router.inbox[0]? ∧
        (s.images.find? fun y => y.part == 0 && y.source == 5 && y.filling && y.imageOff ≤ n && n + 4 ≤ y.imageOff + y.imageSize) =
          (if n = 0 then none else some (heldImage true)) ∧ (n = 0 ∨ n + 4 ≤ spanLength (s.regionSpans 0 0))) ∧
    (∀ n ∈ [0x100, 0x200], let s := imageMsg (holding (heading []) false) 0 0x32 n (zeros 56)
      (s.inboxFind fun m => m.cls == 0 && m.type == 0x32) = s.router.inbox[0]? ∧
        (s.images.any fun y => y.recordOff == n && y.filling && y.sourcePart == fieldB (zeros 24) 9 1 % 8 && y.isCheckpoint == bit (fieldB (zeros 24) 8 1) 2) = (n == 0x100)) ∧
    (∀ b ∈ [(false, false), (true, false), (true, true)], let s := capturing b.1 b.2
      s.alive = true ∧ s.shaped = true ∧ (s.captureOf 0 false).isSome = true ∧ s.captureOf 0 true = none ∧ s.owes (.capture 0 false) = false ∧
        s.capturing = false ∧ s.ctxFor 0 5 = some peer ∧ s.ctx 15 = some peer) := by
  and_intros <;> decide +kernel

theorem test_hyp_ImagesFeedsAndRestores_asked :
    (∀ n ∈ [0, 1], let s := deferred (imageMsg (heading []) 0 0x33 0 ([n, 3] ++ toLE 8 0 ++ toLE 8 0x8000)) (.reflectAsk 0 5 0 0 0x8000 false)
      (s.inboxFind fun m => m.cls == 0 && m.type == 0x33) = s.router.inbox[0]? ∧ s.regionFits 0 0 0x8000 = true ∧ s.regionFits 0 0 0x1000000 = false ∧
        s.ticketOk ticket ∧ s.opens.length = 1 ∧ s.feed ≠ 3 ∧ linked.findOpen (fun k => match k with | .reflectAsk .. => true | _ => false) = none) ∧
    ((imageMsg (heading []) 0 0x34 0 []).inboxFind fun m => m.cls == 0 && m.type == 0x34).isSome = true ∧
    (let s := imageMsg (heading []) 0 0x35 0 (zeros 10);
      (s.inboxFind fun m => m.cls == 0 && m.type == 0x35).isSome = true ∧ s.askedImage 0 5 0 false 0 = none ∧
        (({ s.write 0x20000000140 [0xDE, 0xC0] false with images := [{ heldImage false with filling := false }] } : State).askedImage 0 5 0 false 0).isSome = true) ∧
    (let s := deferred (imageMsg ((heading []).modPartition 0 fun x => { x with restore := some {} }) 1 0x36 0x20000 (zeros 4096)) (.restore 0 5 [] []);
      s.capturing = false ∧ (s.inboxFind fun m => m.cls != 0 && m.type == 0x36).isSome = true ∧ (zeros 4096).length = 4096 ∧ (s.partition 0).restore = some {} ∧
        (s.findOpen fun k => match k with | .restore q h _ _ => q == 0 && h == 5 | _ => false).isSome = true) := by
  unfold State.ticketOk; and_intros <;> decide +kernel

/-- The device works at the point, with a ramp. -/
def working (point : Nat) (r : Option Ramp) : State := { opened with point := point, ramp := r }

theorem test_hyp_SensorsAndFaults :
    (∀ p ∈ [1, 3], ∀ r ∈ [none, some { target := 2, byHost := true }, some { target := 2, byHost := false }], let s := working p r
      s.shaped = true ∧ s.alive = true ∧ s.answers = true ∧ s.datapathCut = false ∧ s.faultCause = none ∧ s.point = p ∧ s.ramp = r ∧
        s.power ≠ .off ∧ s.portFailed.length = 12) ∧
    (({ opened with datapathCut := true } : State).datapathCut = true ∧ ({ opened with power := .off } : State).power = .off) ∧
    (∀ n ∈ [true, false], let s : State := { working 3 none with
        milliVolts := 800, monitors := List.replicate 8 { rate := if n then 2700 else 2699 }, powerRecord := { point := 3, mean := 0, idle := opened.idlePower } }
      s.nextTrim ≤ 5 ∧ ((∀ m ∈ s.monitors, 2700 ≤ m.rate) ↔ n = true) ∧ s.powerRecord.point = s.point ∧ s.powerRecord.idle = s.idlePower ∧
        s.powerRecord.mean ≤ s.powerLimit) ∧
    (let rs := List.replicate 8 (⟨103, 100, 50, 50⟩ : MonitorReading);
      rs.length = 8 ∧ ¬ 3 * min 103 100 < 100 * (max 103 100 - min 103 100)) ∧ 3 * min 104 100 < 100 * (max 104 100 - min 104 100) := by
  and_intros <;> decide +kernel

/-- The device is in BOOT with power good and PERST_L as said, and with the module store's records. -/
def booting (perst : Bool) : State :=
  { State.reset with power := .boot, pwrGood := true, perst := perst, imageA := { present := true } }

theorem test_hyp_PowerAndBoot :
    (∀ y ∈ [Power.off, .up], let s : State := { State.reset with power := y }; s.shaped = true ∧ s.power = y) ∧
    (∀ perst, (booting perst).shaped = true ∧ (booting perst).power = .boot ∧ (booting perst).perst = perst ∧ (booting perst).pwrGood = true ∧
      (booting perst).faultCause = none ∧ ((booting perst).recordOf 1).isSome = true ∧ ((booting perst).recordOf 3).isSome = true ∧
      ((booting perst).bootSlot ⟨true, true, true, false, false, []⟩).2.isSome = true ∧ ((booting perst).bootSlot ⟨true, true, false, false, false, []⟩).2.isSome = false ∧
      (booting perst).mapRetired 0 = false ∧ ((booting perst).basin 0).state ≠ .retired) ∧
    ({ booting false with store := [] } : State).recordOf 1 = none := by
  and_intros <;> decide +kernel

end Sys2Proof.Tests
end

/-! ## Every unit is there after reset and after every step (R9)

One lemma for each function of the model says that the state it gives has every unit when the state it is given has. A lemma
bears its function's name, so that its proof follows the function's body: a chain of updates is the chain of their lemmas, `ite`
takes the two branches, `foldl` the body of a fold, and `frame` what leaves the lists of units alone. -/

namespace Sys2Proof.Machine

-- The lemmas are checked one after the other, as the tests are.
set_option Elab.async false

/-! ### What it is to have every unit -/

/-- A function has 4 mailboxes and 17 alert registers (R305, R325). -/
structure Func.HasUnits (f : Func) : Prop where
  mailboxes : f.mailboxes.length = 4
  alerts : f.alerts.length = 17

/-- A basin has 16 task slots, 256 sync cells, 8 table slots and 16 expert counter sets (Table 1.2, R114, R166). -/
structure Basin.HasUnits (x : Basin) : Prop where
  slots : x.slots.length = 16
  cells : x.cells.length = 256
  tables : x.tables.length = 8
  experts : x.experts.length = 16

/-- The lists of units of the device, apart from the state that holds them (Tables 1.2, 1.3). -/
structure Units (fs : List Func) (bs : List Basin) (ps : List Partition) (cs : List CxlPort) (ss : List SubPort)
    (hs : List Stack) : Prop where
  funcs : fs.length = 9
  funcsHave : ∀ f ∈ fs, f.HasUnits
  basins : bs.length = 8
  basinsHave : ∀ x ∈ bs, x.HasUnits
  partitions : ps.length = 8
  cxl : cs.length = 8
  subPorts : ss.length = 48
  hbm : hs.length = 24

/-- The device has every unit: what `State.shaped` tests. -/
def State.HasUnits (s : State) : Prop := Units s.funcs s.basins s.partitions s.cxl s.subPorts s.hbm

theorem Func.shaped_iff {f : Func} : f.shaped = true ↔ f.HasUnits := by
  simp only [Func.shaped, Bool.and_eq_true, beq_iff_eq]
  exact ⟨fun ⟨h1, h2⟩ => ⟨h1, h2⟩, fun h => ⟨h.mailboxes, h.alerts⟩⟩

theorem Basin.shaped_iff {x : Basin} : x.shaped = true ↔ x.HasUnits := by
  simp only [Basin.shaped, Bool.and_eq_true, beq_iff_eq]
  exact ⟨fun ⟨⟨⟨h1, h2⟩, h3⟩, h4⟩ => ⟨h1, h2, h3, h4⟩, fun h => ⟨⟨⟨h.slots, h.cells⟩, h.tables⟩, h.experts⟩⟩

theorem State.shaped_iff {s : State} : s.shaped = true ↔ s.HasUnits := by
  simp only [State.shaped, Bool.and_eq_true, beq_iff_eq, List.all_eq_true, Func.shaped_iff, Basin.shaped_iff]
  constructor
  · rintro ⟨⟨⟨⟨⟨⟨⟨h1, h2⟩, h3⟩, h4⟩, h5⟩, h6⟩, h7⟩, h8⟩
    exact ⟨h1, h2, h3, h4, h5, h6, h7, h8⟩
  · rintro ⟨h1, h2, h3, h4, h5, h6, h7, h8⟩
    exact ⟨⟨⟨⟨⟨⟨⟨h1, h2⟩, h3⟩, h4⟩, h5⟩, h6⟩, h7⟩, h8⟩

/-- A property of every element is one of every element after an update of one place that keeps it. -/
theorem forall_mem_modify {α : Type} {P : α → Prop} {l : List α} {i : Nat} {f : α → α} (h : ∀ x ∈ l, P x)
    (hf : ∀ x, P x → P (f x)) : ∀ x ∈ l.modify i f, P x := by
  intro x hx
  obtain ⟨j, hj⟩ := List.mem_iff_getElem?.1 hx
  rw [List.getElem?_modify] at hj
  obtain ⟨y, hy, e⟩ := Option.map_eq_some_iff.1 hj
  have hm := h y (List.mem_of_getElem? hy)
  subst e
  split
  · exact hf y hm
  · exact hm

namespace Units

variable {fs : List Func} {bs : List Basin} {ps : List Partition} {cs : List CxlPort} {ss : List SubPort}
  {hs : List Stack}

theorem setFuncs {l : List Func} (h : Units fs bs ps cs ss hs) (hl : l.length = 9) (hu : ∀ f ∈ l, f.HasUnits) :
    Units l bs ps cs ss hs := { h with funcs := hl, funcsHave := hu }

theorem setBasins {l : List Basin} (h : Units fs bs ps cs ss hs) (hl : l.length = 8) (hu : ∀ x ∈ l, x.HasUnits) :
    Units fs l ps cs ss hs := { h with basins := hl, basinsHave := hu }

theorem setPartitions {l : List Partition} (h : Units fs bs ps cs ss hs) (hl : l.length = 8) : Units fs bs l cs ss hs :=
  { h with partitions := hl }

theorem setPorts {l : List CxlPort} (h : Units fs bs ps cs ss hs) (hl : l.length = 8) : Units fs bs ps l ss hs :=
  { h with cxl := hl }

theorem setSubs {l : List SubPort} (h : Units fs bs ps cs ss hs) (hl : l.length = 48) : Units fs bs ps cs l hs :=
  { h with subPorts := hl }

theorem setStacks {l : List Stack} (h : Units fs bs ps cs ss hs) (hl : l.length = 24) : Units fs bs ps cs ss l :=
  { h with hbm := hl }

theorem mapBasins {f : Basin → Basin} (h : Units fs bs ps cs ss hs) (hf : ∀ x, x.HasUnits → (f x).HasUnits) :
    Units fs (bs.map f) ps cs ss hs :=
  h.setBasins (List.length_map f |>.trans h.basins) (List.forall_mem_map.2 fun x hx => hf x (h.basinsHave x hx))

theorem mapPartitions {f : Partition → Partition} (h : Units fs bs ps cs ss hs) : Units fs bs (ps.map f) cs ss hs :=
  h.setPartitions (List.length_map f |>.trans h.partitions)

theorem mapPorts {f : CxlPort → CxlPort} (h : Units fs bs ps cs ss hs) : Units fs bs ps (cs.map f) ss hs :=
  h.setPorts (List.length_map f |>.trans h.cxl)

theorem mapSubs {f : SubPort → SubPort} (h : Units fs bs ps cs ss hs) : Units fs bs ps cs (ss.map f) hs :=
  h.setSubs (List.length_map f |>.trans h.subPorts)

end Units

namespace State.HasUnits

variable {s : State}

/-- A change of anything but the lists of units. -/
theorem congr {u : State} (e : (u.funcs, u.basins, u.partitions, u.cxl, u.subPorts, u.hbm) =
    (s.funcs, s.basins, s.partitions, s.cxl, s.subPorts, s.hbm)) (h : s.HasUnits) : u.HasUnits := by
  simp only [Prod.mk.injEq] at e
  obtain ⟨e1, e2, e3, e4, e5, e6⟩ := e
  unfold State.HasUnits
  rw [e1, e2, e3, e4, e5, e6]
  exact h

/-- `congr` behind a chain of updates. -/
theorem frame {u : State} (h : s.HasUnits)
    (e : (u.funcs, u.basins, u.partitions, u.cxl, u.subPorts, u.hbm) =
      (s.funcs, s.basins, s.partitions, s.cxl, s.subPorts, s.hbm) := by rfl) : u.HasUnits := congr e h

theorem ite {a b : State} {c : Prop} [Decidable c] (ha : a.HasUnits) (hb : b.HasUnits) :
    (if c then a else b).HasUnits := by
  split
  · exact ha
  · exact hb

theorem foldl {α : Type} {l : List α} {f : State → α → State} (h : s.HasUnits)
    (hf : ∀ u a, u.HasUnits → (f u a).HasUnits) : (l.foldl f s).HasUnits := by
  induction l generalizing s with
  | nil => exact h
  | cons a l ih => exact ih (hf s a h)

/-! ### The named updates -/

theorem mapBasins {f : Basin → Basin} (h : s.HasUnits)
    (hf : ∀ x, x.HasUnits → (f x).HasUnits := by exact fun _ hx => { hx with }) :
    ({ s with basins := s.basins.map f } : State).HasUnits := Units.mapBasins h hf

theorem mapPartitions {f : Partition → Partition} (h : s.HasUnits) :
    ({ s with partitions := s.partitions.map f } : State).HasUnits := Units.mapPartitions h

theorem mapPorts {f : CxlPort → CxlPort} (h : s.HasUnits) : ({ s with cxl := s.cxl.map f } : State).HasUnits :=
  Units.mapPorts h

theorem mapSubs {f : SubPort → SubPort} (h : s.HasUnits) :
    ({ s with subPorts := s.subPorts.map f } : State).HasUnits :=
  Units.mapSubs h

theorem modBasin {b : Nat} {f : Basin → Basin} (h : s.HasUnits)
    (hf : ∀ x, x.HasUnits → (f x).HasUnits := by exact fun _ hx => { hx with }) : (s.modBasin b f).HasUnits :=
  h.setBasins (List.length_modify .. |>.trans h.basins) (forall_mem_modify h.basinsHave hf)

theorem modFunc {n : Nat} {f : Func → Func} (h : s.HasUnits)
    (hf : ∀ x, x.HasUnits → (f x).HasUnits := by exact fun _ hx => { hx with }) : (s.modFunc n f).HasUnits :=
  h.setFuncs (List.length_modify .. |>.trans h.funcs) (forall_mem_modify h.funcsHave hf)

theorem modSlot {b k : Nat} {f : Slot → Slot} (h : s.HasUnits) : (s.modSlot b k f).HasUnits :=
  h.modBasin fun _ hx => { hx with slots := (List.length_modify ..).trans hx.slots }

theorem modCell {b c : Nat} {f : SyncCell → SyncCell} (h : s.HasUnits) : (s.modCell b c f).HasUnits :=
  h.modBasin fun _ hx => { hx with cells := (List.length_modify ..).trans hx.cells }

theorem modMailbox {n m : Nat} {f : Mailbox → Mailbox} (h : s.HasUnits) : (s.modMailbox n m f).HasUnits :=
  h.modFunc fun _ hx => { hx with mailboxes := (List.length_modify ..).trans hx.mailboxes }

theorem modPartition {p : Nat} {f : Partition → Partition} (h : s.HasUnits) : (s.modPartition p f).HasUnits :=
  h.setPartitions ((List.length_modify ..).trans h.partitions)

theorem modPort {p : Nat} {f : CxlPort → CxlPort} (h : s.HasUnits) : (s.modPort p f).HasUnits :=
  h.setPorts ((List.length_modify ..).trans h.cxl)

theorem modSub {i : Nat} {f : SubPort → SubPort} (h : s.HasUnits) : (s.modSub i f).HasUnits :=
  h.setSubs ((List.length_modify ..).trans h.subPorts)

theorem modStack {i : Nat} {f : Stack → Stack} (h : s.HasUnits) : (s.modStack i f).HasUnits :=
  h.setStacks ((List.length_modify ..).trans h.hbm)

end State.HasUnits

/-- Every next state that an outcome gives has every unit. -/
def NextHasUnits (o : Host.Outcome State Fault Refusal) : Prop := ∀ u, o = .next u → u.HasUnits

namespace State.HasUnits

/-! ### The state at reset and the free values -/

section

variable {s : State}

theorem reset : State.reset.HasUnits := State.shaped_iff.1 (by decide +kernel)

end

/-! ### Memory, counters, alerts and the mailboxes' responses -/

section

variable {s : State} {b f k p n a pos : Nat}

theorem freeNat (h : s.HasUnits) : s.freeNat.2.HasUnits := h.frame

theorem random (h : s.HasUnits) : s.random.2.HasUnits := h.frame

theorem sealPort {q : Nat} (h : s.HasUnits) : (s.sealPort q).HasUnits := h.modPort

theorem drawKeys {q : Nat} (h : s.HasUnits) : (s.drawKeys q).HasUnits := h.random.random.modPort

theorem writeBytes {bs : Bytes} (h : s.HasUnits) : (s.writeBytes a bs).HasUnits := by
  unfold State.writeBytes
  extract_lets
  split
  · exact h.modPort.mapPartitions
  · exact h.frame
  · exact h.mapPartitions.frame

theorem markStored {mark : Bool} (h : s.HasUnits) : (s.markStored a n mark).HasUnits := by
  unfold State.markStored
  split
  · exact h.modPort
  · exact h.frame

theorem writeBack {l : CacheLine} (h : s.HasUnits) : (s.writeBack l).HasUnits :=
  .ite h.markStored (h.foldl fun _ _ hu => hu.frame.writeBytes)

theorem touchLine {line : Nat} {x : LineAccess} (h : s.HasUnits) : (s.touchLine b line x).HasUnits := by
  unfold State.touchLine
  split
  extract_lets
  split
  · exact h.modBasin.writeBack
  · exact h.modBasin

theorem touchCache (h : s.HasUnits) : (s.touchCache a n).HasUnits := by
  unfold State.touchCache
  split
  · exact h.foldl fun _ _ hu => hu.touchLine
  · exact h

theorem mark {mark : Bool} (h : s.HasUnits) : (s.mark a n mark).HasUnits := by
  unfold State.mark
  split
  · exact h.foldl fun _ _ hu => hu.touchLine
  · exact h.markStored

theorem markRange (h : s.HasUnits) : (s.markRange a n).HasUnits := h.mark

theorem write {bs : Bytes} {poison : Bool} (h : s.HasUnits) : (s.write a bs poison).HasUnits := h.mark.writeBytes

theorem flushLines {p : CacheLine → Bool} (h : s.HasUnits) : (s.flushLines b p).HasUnits :=
  h.modBasin.foldl fun _ _ hu => hu.writeBack

theorem flushCache (h : s.HasUnits) : (s.flushCache b).HasUnits := h.flushLines.modBasin

theorem flushPortLines (h : s.HasUnits) : (s.flushPortLines p).HasUnits := h.flushLines

theorem zeroRange (h : s.HasUnits) : (s.zeroRange a n).HasUnits := h.frame

theorem zeroPools (h : s.HasUnits) : (s.zeroPools b).HasUnits := h.zeroRange

theorem wipeWindow (h : s.HasUnits) : (s.wipeWindow b).HasUnits := h.zeroRange

theorem startWipe (h : s.HasUnits) : (s.startWipe b).HasUnits := h.wipeWindow.modBasin

theorem bump {scope idx : Nat} (h : s.HasUnits) : (s.bump scope idx pos n).HasUnits := .ite h (.ite h.frame h.frame)

theorem pollCounter {scope idx : Nat} (h : s.HasUnits) : (s.pollCounter scope idx pos).HasUnits := h.frame

theorem bumpDevice (h : s.HasUnits) : (s.bumpDevice pos).HasUnits := h.bump

theorem bumpBasin (h : s.HasUnits) : (s.bumpBasin b pos n).HasUnits := h.bump

theorem bumpSlot (h : s.HasUnits) : (s.bumpSlot b k pos n).HasUnits := h.bump

theorem bumpFolham (h : s.HasUnits) : (s.bumpFolham p pos n).HasUnits := h.bump

theorem signal {v : Nat} (h : s.HasUnits) : (s.signal f v).HasUnits := .ite h.frame h.modFunc

theorem raiseIn {d : Nat} (h : s.HasUnits) : (s.raiseIn a d f).HasUnits := by
  refine .ite ?_ h
  extract_lets s1
  have h1 : s1.HasUnits := h.modFunc fun _ hx => { hx with alerts := (List.length_modify ..).trans hx.alerts }
  exact .ite h1.frame h1.frame.signal

theorem raise {d : Nat} (h : s.HasUnits) : (s.raise a d).HasUnits := by
  unfold State.raise
  extract_lets s1
  have h1 : s1.HasUnits := h.foldl fun _ _ hu => hu.raiseIn
  exact .ite h1 h1.frame

theorem post {m : Nat} {r : EventRec} (h : s.HasUnits) : (s.post f m r).HasUnits :=
  h.modMailbox.foldl fun _ _ hu => hu.signal

theorem postSlot {kind code d0 d1 d2 d3 : Nat} (h : s.HasUnits) : (s.postSlot b k kind code d0 d1 d2 d3).HasUnits :=
  h.post

theorem halt {c : FaultCode} {d0 d1 d2 d3 : Nat} (h : s.HasUnits) : (s.halt b k c d0 d1 d2 d3).HasUnits :=
  .ite h.postSlot.modSlot h

theorem addCell {c v : Nat} (h : s.HasUnits) : (s.addCell b c v).HasUnits := .ite h.modCell.bumpBasin h.modCell

theorem lowerCounts {xs : List (Nat × Nat)} (h : s.HasUnits) : (s.lowerCounts xs).HasUnits := h.frame

theorem addFlight {f : Flight} (h : s.HasUnits) : (s.addFlight f).HasUnits := h.frame

theorem dropFlight {id : Nat} (h : s.HasUnits) : (s.dropFlight id).HasUnits := h.frame

theorem completeFlight {f : Flight} (h : s.HasUnits) : (s.completeFlight f).HasUnits := by
  unfold State.completeFlight
  extract_lets
  split
  · split
    · exact h.dropFlight.addCell
    · exact h.dropFlight
  · extract_lets s1
    have h1 : s1.HasUnits := .ite (by split; exact h.dropFlight.addCell; exact h.dropFlight) h.dropFlight
    exact .ite (.modSlot (.postSlot (.ite h1 h1.modSlot))) h1

theorem respond {t : Ticket} {st : Status} {result : Bytes} (h : s.HasUnits) : (s.respond t st result).HasUnits :=
  .ite h h.modMailbox.signal

theorem refreshOldest {m : Nat} (h : s.HasUnits) : (s.refreshOldest f m).HasUnits := h.modMailbox

theorem openCommand {t : Ticket} {k : OpenKind} (h : s.HasUnits) : (s.openCommand t k).HasUnits :=
  h.frame.refreshOldest

theorem finish {o : OpenCmd} {st : Status} {result : Bytes} (h : s.HasUnits) : (s.finish o st result).HasUnits :=
  h.frame.respond.refreshOldest

theorem failAll (h : s.HasUnits) : s.failAll.HasUnits := .ite (h.foldl fun _ _ hu => hu.finish) h

theorem enterFault {cause : Nat} (h : s.HasUnits) : (s.enterFault cause).HasUnits := .ite h h.frame.raise.failAll

end

/-! ### What a descriptor reads and writes -/

section

variable {s : State} {b k p n i a pos t : Nat} {d : Bytes} {errs : List CheckErr}

theorem next (h : s.HasUnits) : NextHasUnits (.next s) := by
  rintro _ ⟨⟩
  exact h

theorem run {f : State → State} (h : s.HasUnits) (hf : ∀ u, u.HasUnits → (f u).HasUnits) :
    NextHasUnits (s.run t f) :=
  .next (.congr rfl (hf _ h.frame))

theorem runAlive {f : State → State} (h : s.HasUnits) (hf : ∀ u, u.HasUnits → (f u).HasUnits) :
    NextHasUnits (s.runAlive t f) :=
  h.run fun _ hu => .ite (hf _ hu) hu

theorem advance (h : s.HasUnits) : (s.advance b k n).HasUnits := h.modSlot

theorem setCellIf {c : Option Nat} (h : s.HasUnits) : (s.setCellIf b c).HasUnits := by
  unfold State.setCellIf
  split
  · exact h.addCell
  · exact h

theorem haltIllegal {off : Nat} (h : s.HasUnits) : (s.haltIllegal b k off).HasUnits := h.halt

theorem atHead {cls : Nat} {isOp : Nat → Bool} {illegal : Bytes → Option Nat} {go : Bytes → State}
    (h : s.HasUnits) (hgo : ∀ x0, (go x0).HasUnits) :
    (s.atHead b k cls isOp illegal go).HasUnits :=
  .ite (by split; exact .ite (by split; exact h.haltIllegal; exact .ite (hgo _) h) h; exact h) h

theorem haltSegment {x : Access} {c : SegCause} (h : s.HasUnits) : (s.haltSegment b k x c).HasUnits := h.halt

theorem checked {xs : List Access} {go : State} (hs : s.HasUnits) (hgo : go.HasUnits) :
    (s.checked b k xs go).HasUnits := by
  unfold State.checked
  split
  · exact hs.haltSegment
  · split
    · exact hs.halt
    · exact hgo

theorem bumpStack (h : s.HasUnits) : (s.bumpStack i pos).HasUnits := h.bump

theorem stackUncorrectable (h : s.HasUnits) : (s.stackUncorrectable i a).HasUnits :=
  h.frame.modStack.bumpStack.raise

theorem stackCorrected (h : s.HasUnits) : (s.stackCorrected i n pos).HasUnits := h.modStack.frame.bumpStack

theorem stackGarbled (h : s.HasUnits) : (s.stackGarbled a).HasUnits := .ite h.modBasin h.frame.frame

theorem stackRead {symbols : Nat} (h : s.HasUnits) : (s.stackRead a symbols pos).HasUnits := by
  unfold State.stackRead
  split
  · exact .ite h (.ite h.stackCorrected (.ite h.stackUncorrectable h.stackGarbled))
  · exact h

theorem noteErr {e : CheckErr} (h : s.HasUnits) : (State.noteErr b s e).HasUnits := by
  unfold State.noteErr
  split
  · exact h.bumpBasin
  · exact h.bumpBasin.raise
  · exact h.bumpBasin
  · exact h.bumpBasin.raise
  · exact h.bumpBasin
  · exact h.bumpBasin.raise
  · exact h.frame.bumpBasin
  · exact h.bumpBasin.raise
  · exact .ite h h.stackRead
  · split
    · exact h.bump.raise
    · exact h

theorem noteErrs (h : s.HasUnits) : (s.noteErrs b errs).HasUnits := h.foldl fun _ _ hu => hu.noteErr

theorem markRanges {rs : List Range} (h : s.HasUnits) : (s.markRanges rs).HasUnits :=
  h.foldl fun _ _ hu => hu.markRange

theorem markFailedChunks {writes : List Range} (h : s.HasUnits) : (s.markFailedChunks errs writes).HasUnits :=
  h.foldl fun _ _ hu => by split; exact hu.foldl fun _ _ hv => .ite hv.markRange hv; exact hu

theorem markOutputs {rs : List Range} (h : s.HasUnits) : (s.markOutputs b k rs).HasUnits :=
  .ite h h.markRanges.bumpSlot

theorem put {bs : Bytes} {poison : Bool} (h : s.HasUnits) : (s.put a bs poison).HasUnits := by
  unfold State.put
  split
  · exact .ite h.bump h.write
  · exact h.write

theorem noteLostReads (h : s.HasUnits) : (s.noteLostReads a n).HasUnits := by
  unfold State.noteLostReads
  split
  · exact .ite (h.foldl fun _ _ hu => hu.bump.raise) h
  · exact h

theorem copyTouched {u : State} (h : s.HasUnits) : (u.copyTouched s p).HasUnits := by
  unfold State.copyTouched
  extract_lets
  split
  · exact .modPartition (h.foldl fun _ _ hu => hu.put)
  · exact h

theorem guarded {f : State → State} (h : s.HasUnits) (hf : ∀ u, u.HasUnits → (f u).HasUnits) :
    (s.guarded f).HasUnits :=
  .ite (hf _ h) (.ite h (.foldl (hf _ h) fun _ _ hu => hu.copyTouched))

theorem runWriter {f : State → State} (h : s.HasUnits) (hf : ∀ u, u.HasUnits → (f u).HasUnits) :
    NextHasUnits (s.runWriter t f) :=
  h.runAlive fun _ hu => hu.guarded hf

theorem putRanges {rs : List (Nat × Bytes)} (h : s.HasUnits) : (s.putRanges rs).HasUnits :=
  h.foldl fun _ _ hu => hu.write

theorem putStored {xs : List Stored} (h : s.HasUnits) : (s.putStored b k errs xs).HasUnits :=
  .bumpSlot (.markFailedChunks (.markOutputs (h.foldl fun _ _ hu => hu.putRanges)))

theorem touchAccesses {xs : List Access} (h : s.HasUnits) : (s.touchAccesses b k xs).HasUnits :=
  h.foldl fun _ _ hu => .ite hu hu.touchCache

theorem inTurn {u : UnitKind} {step : Nat → State} (h : s.HasUnits) (hstep : ∀ x0, (step x0).HasUnits) :
    (s.inTurn b u k step).HasUnits :=
  .ite (.ite (.modBasin (hstep _)) h) (hstep _)

theorem issued {u : UnitKind} {writes : List Range} {bs : List Nat} {isPlace : Bool} {late : Option LateFault}
    (h : s.HasUnits) :
    (s.issued b k d u writes bs isPlace late).HasUnits :=
  h.addFlight.advance

theorem completeNth {u : UnitKind} (h : s.HasUnits) : (s.completeNth b u n).HasUnits := by
  unfold State.completeNth
  split
  · exact h.completeFlight
  · exact h

end

/-! ### Messages between devices -/

section

variable {s : State} {p i : Nat} {m : Msg}

theorem modCtx {f : PeerCtx → PeerCtx} (h : s.HasUnits) : (s.modCtx i f).HasUnits := h.frame

theorem toRouter (h : s.HasUnits) : (s.toRouter m).HasUnits := h.frame

theorem sendOne {cls : Nat} (h : s.HasUnits) : (s.sendOne i cls).HasUnits := by
  unfold State.sendOne
  split
  · exact h
  · extract_lets
    split
    · exact h
    · exact .ite h h.modCtx.toRouter

theorem sendQueued {cls : Nat} (h : s.HasUnits) : (s.sendQueued i cls).HasUnits := by
  unfold State.sendQueued
  split
  · exact h
  · exact h.foldl fun _ _ hu => hu.sendOne

theorem sendVia {o : MsgOwner} (h : s.HasUnits) : (s.sendVia i m o).HasUnits := by
  unfold State.sendVia
  split
  · exact h
  · exact .ite h h.modCtx.sendOne

theorem sendTo {dev : Nat} {o : MsgOwner} (h : s.HasUnits) : (s.sendTo p dev m o).HasUnits := by
  unfold State.sendTo
  split
  · exact h.sendVia
  · exact h

theorem completeRemote (h : s.HasUnits) : s.completeRemote.HasUnits := h.foldl fun _ _ hu => hu.completeFlight

theorem sendUnnumbered {c : PeerCtx} (h : s.HasUnits) : (s.sendUnnumbered c m).HasUnits := h.toRouter

theorem peerPartOf {c : PeerCtx} (h : s.HasUnits) : (s.peerPartOf c).2.HasUnits := by
  unfold State.peerPartOf
  split
  · exact h
  · exact h.freeNat

theorem sendReturn (h : s.HasUnits) : (s.sendReturn i).HasUnits := by
  unfold State.sendReturn
  split
  · exact h
  · exact .ite h h.peerPartOf.sendUnnumbered.modCtx

theorem sendProbe (h : s.HasUnits) : (s.sendProbe i).HasUnits := by
  unfold State.sendProbe
  split
  · exact h
  · exact .ite h h.peerPartOf.sendUnnumbered.modCtx

theorem resend {cls : Nat} (h : s.HasUnits) : (s.resend i cls).HasUnits := by
  unfold State.resend
  split
  · exact h
  · exact .ite h (.sendProbe (h.modCtx.foldl fun _ _ hu => hu.frame.bumpDevice.toRouter))

theorem toInbox {ms : List Msg} (h : s.HasUnits) : (s.toInbox p i ms).HasUnits := h.frame

theorem deliver (h : s.HasUnits) : (s.deliver m).HasUnits := by
  unfold State.deliver
  split
  · exact h.bumpDevice
  · refine .ite h.bumpDevice ?_
    refine .ite h.toInbox ?_
    refine .ite ?_ (.ite h.bumpDevice.modCtx h.bumpDevice)
    exact .ite h.bumpDevice.modCtx (by split; exact h; extract_lets; split; exact h.modCtx.toInbox)

theorem take {x : Nat × Nat × Msg} {credit : Bool} (h : s.HasUnits) : (s.take x credit).HasUnits :=
  .ite h.frame.modCtx h.frame

theorem onMessage {isCls : Nat → Bool} {type : Nat} {go : State → Nat → Nat → Msg → State}
    (h : s.HasUnits) (hgo : ∀ u x1 x2 x3, u.HasUnits → (go u x1 x2 x3).HasUnits) :
    (s.onMessage isCls type go).HasUnits := by
  unfold State.onMessage
  split
  · exact h
  · exact hgo _ _ _ _ h.take

theorem onReturn (h : s.HasUnits) : (s.onReturn i m).HasUnits := by
  unfold State.onReturn
  extract_lets _ s1
  have h1 : s1.HasUnits := h.foldl fun _ _ hu => hu.modCtx
  exact .completeRemote (.foldl (.ite h1.modCtx h1.modCtx.bumpDevice) fun _ _ hu => hu.sendQueued)

end

/-! ### The Sync class and the end of a task -/

section

variable {s : State} {b k p i t ctx : Nat} {m : Msg} {d : Bytes}

theorem syncStep {isOp : Nat → Bool} {go : Bytes → State} (h : s.HasUnits) (hgo : ∀ x0, (go x0).HasUnits) :
    (s.syncStep b k isOp go).HasUnits :=
  h.atHead hgo

theorem modTree {f : TreeRec → TreeRec} (h : s.HasUnits) : (s.modTree p t f).HasUnits := h.modPartition

theorem sendRelease {t : TreeRec} (h : s.HasUnits) : (s.sendRelease p t).HasUnits := h.foldl fun _ _ hu => hu.sendTo

theorem setWaited {cell : Option Nat} (h : s.HasUnits) : (s.setWaited b cell).HasUnits := by
  unfold State.setWaited
  split
  · exact h.addCell
  · exact h

theorem releaseTree {t : TreeRec} (h : s.HasUnits) : (s.releaseTree p t).HasUnits := by
  unfold State.releaseTree
  extract_lets
  split
  · exact h.sendRelease.modTree.setWaited.bumpBasin
  · exact h.sendRelease.modTree

theorem barrierStep (h : s.HasUnits) : (s.barrierStep p i).HasUnits := by
  unfold State.barrierStep
  split
  · exact h
  · exact .ite h (by split; exact h.releaseTree; exact .ite h.releaseTree (.ite h h.sendTo.modTree))

theorem syncRecheck (h : s.HasUnits) : (s.syncRecheck p).HasUnits := h.foldl fun _ _ hu => hu.barrierStep

theorem losePairs (h : s.HasUnits) : (s.losePairs i).HasUnits := by
  unfold State.losePairs
  split
  · exact h
  · exact .modCtx (h.foldl fun _ _ hu => hu.setWaited.bumpBasin)

theorem setRemote (h : s.HasUnits) : (s.setRemote b k d).HasUnits := by
  unfold State.setRemote
  extract_lets
  split
  · exact h.halt
  · exact h.addFlight.sendVia.advance.completeRemote

theorem barrier (h : s.HasUnits) : (s.barrier b k d).HasUnits := by
  unfold State.barrier
  extract_lets
  split
  · exact h.halt
  · exact .ite h h.modTree.advance.barrierStep

theorem pair (h : s.HasUnits) : (s.pair b k d).HasUnits := by
  unfold State.pair
  extract_lets
  split
  · exact h.halt
  · refine .ite h.advance.addCell.bumpBasin ?_
    exact .ite h.advance.sendVia.modCtx.modCtx.addCell h.advance.sendVia.modCtx.modCtx

theorem layerMark (h : s.HasUnits) : (s.layerMark b k d).HasUnits := h.modSlot.advance

theorem onSyncSet (h : s.HasUnits) : (s.onSyncSet p ctx m).HasUnits := .ite h.addCell h.bumpBasin

theorem onArrive (h : s.HasUnits) : (s.onArrive p ctx m).HasUnits := by
  unfold State.onArrive
  extract_lets
  split
  · exact h
  · exact .ite h.modTree.barrierStep h

theorem onRelease (h : s.HasUnits) : (s.onRelease p ctx m).HasUnits := by
  unfold State.onRelease
  split
  · exact h
  · exact .ite h.releaseTree h

theorem onPairArrive {q : Nat} (h : s.HasUnits) : (s.onPairArrive q i m).HasUnits := by
  unfold State.onPairArrive
  extract_lets
  split
  · exact h
  · split
    · exact h.modCtx.setWaited
    · exact h.modCtx

theorem dropStaged (h : s.HasUnits) : (s.dropStaged b k).HasUnits := by
  refine h.mapBasins fun _ hx => ?_
  split
  · exact { hx with }
  · exact hx

theorem stopSlot (h : s.HasUnits) : (s.stopSlot b k).HasUnits := h.modSlot.dropStaged

theorem abandonBarriers (h : s.HasUnits) : (s.abandonBarriers b k).HasUnits := h.mapPartitions.frame

theorem freeCells (h : s.HasUnits) : (s.freeCells b k).HasUnits :=
  h.modBasin fun _ hx => { hx with cells := (List.length_map _).trans hx.cells }

theorem clearUnits (h : s.HasUnits) : (s.clearUnits b).HasUnits := h.modBasin

theorem clearSlot (h : s.HasUnits) : (s.clearSlot b k).HasUnits := h.clearUnits.freeCells.abandonBarriers.modSlot

theorem clearingDone (h : s.HasUnits) : (s.clearingDone b k).HasUnits :=
  .ite (h.clearSlot.foldl fun _ _ hu => hu.finish) h

theorem runEnd (h : s.HasUnits) : (s.runEnd b k).HasUnits := .ite h.modSlot h

theorem taskFinish (h : s.HasUnits) : (s.taskFinish b k).HasUnits := .ite h.postSlot.modSlot h

theorem skipDescriptor (h : s.HasUnits) : (s.skipDescriptor b k).HasUnits :=
  .ite (by split; exact .ite h.setCellIf.advance h; exact h) h

theorem unknownClass (h : s.HasUnits) : (s.unknownClass b k).HasUnits := .ite h.haltIllegal h

theorem execSyncSetCell (h : s.HasUnits) : NextHasUnits (execSyncSetCell t b k s) :=
  h.runAlive fun _ hu => hu.syncStep fun _ => hu.addCell.advance

theorem execSetRemote (h : s.HasUnits) : NextHasUnits (execSetRemote t b k s) :=
  h.runAlive fun _ hu => hu.syncStep fun _ => hu.setRemote

theorem execArm (h : s.HasUnits) : NextHasUnits (execArm t b k s) :=
  h.runAlive fun _ hu => hu.syncStep fun _ => hu.modCell.advance

theorem execWait (h : s.HasUnits) : NextHasUnits (execWait t b k s) :=
  h.runAlive fun _ hu => hu.syncStep fun _ => .ite hu.advance hu

theorem execBarrier (h : s.HasUnits) : NextHasUnits (execBarrier t b k s) :=
  h.runAlive fun _ hu => hu.syncStep fun _ => hu.barrier

theorem execPair (h : s.HasUnits) : NextHasUnits (execPair t b k s) :=
  h.runAlive fun _ hu => hu.syncStep fun _ => hu.pair

theorem execWaitStep (h : s.HasUnits) : NextHasUnits (execWaitStep t b k s) :=
  h.runAlive fun _ hu => hu.syncStep fun _ => .ite hu.advance hu

theorem execLayerMark (h : s.HasUnits) : NextHasUnits (execLayerMark t b k s) :=
  h.runAlive fun _ hu => hu.syncStep fun _ => hu.layerMark

theorem execSkippedDescriptor (h : s.HasUnits) : NextHasUnits (execSkippedDescriptor t b k s) :=
  h.runAlive fun _ hu => hu.skipDescriptor

theorem execUnknownClassDescriptor (h : s.HasUnits) : NextHasUnits (execUnknownClassDescriptor t b k s) :=
  h.runAlive fun _ hu => hu.unknownClass

theorem execTaskRunEnd (h : s.HasUnits) : NextHasUnits (execTaskRunEnd t b k s) := h.runAlive fun _ hu => hu.runEnd

theorem execTaskFinish (h : s.HasUnits) : NextHasUnits (execTaskFinish t b k s) :=
  h.runAlive fun _ hu => hu.taskFinish

theorem execClearingComplete (h : s.HasUnits) : NextHasUnits (execClearingComplete t b k s) :=
  h.runAlive fun _ hu => hu.clearingDone

theorem execSyncSet (h : s.HasUnits) : NextHasUnits (execSyncSet t s) :=
  h.runAlive fun _ hu => hu.onMessage fun _ _ _ _ hv => hv.onSyncSet

theorem execArrive (h : s.HasUnits) : NextHasUnits (execArrive t s) :=
  h.runAlive fun _ hu => hu.onMessage fun _ _ _ _ hv => hv.onArrive

theorem execRelease (h : s.HasUnits) : NextHasUnits (execRelease t s) :=
  h.runAlive fun _ hu => hu.onMessage fun _ _ _ _ hv => hv.onRelease

theorem execPairArrive (h : s.HasUnits) : NextHasUnits (execPairArrive t s) :=
  h.runAlive fun _ hu => hu.onMessage fun _ _ _ _ hv => hv.onPairArrive

end

/-! ### The Vector class -/

section

variable {s : State} {b k n t : Nat} {errs : List CheckErr}

theorem vectorIssue (h : s.HasUnits) : (s.vectorIssue b errs k).HasUnits :=
  h.atHead fun _ => h.checked (.ite h.noteErrs.putStored.issued h)

theorem vectorStep {isOp : Nat → Bool} (h : s.HasUnits) : (s.vectorStep b k errs isOp).HasUnits :=
  .ite (h.inTurn fun _ => h.vectorIssue) h

theorem execAdd (h : s.HasUnits) : NextHasUnits (execAdd t b k errs s) := h.runAlive fun _ hu => hu.vectorStep

theorem execMul (h : s.HasUnits) : NextHasUnits (execMul t b k errs s) := h.runAlive fun _ hu => hu.vectorStep

theorem execFma (h : s.HasUnits) : NextHasUnits (execFma t b k errs s) := h.runAlive fun _ hu => hu.vectorStep

theorem execAxpy (h : s.HasUnits) : NextHasUnits (execAxpy t b k errs s) := h.runAlive fun _ hu => hu.vectorStep

theorem execScale (h : s.HasUnits) : NextHasUnits (execScale t b k errs s) := h.runAlive fun _ hu => hu.vectorStep

theorem execConvert (h : s.HasUnits) : NextHasUnits (execConvert t b k errs s) :=
  h.runAlive fun _ hu => hu.vectorStep

theorem execMax2 (h : s.HasUnits) : NextHasUnits (execMax2 t b k errs s) := h.runAlive fun _ hu => hu.vectorStep

theorem execMin2 (h : s.HasUnits) : NextHasUnits (execMin2 t b k errs s) := h.runAlive fun _ hu => hu.vectorStep

theorem execDiv (h : s.HasUnits) : NextHasUnits (execDiv t b k errs s) := h.runAlive fun _ hu => hu.vectorStep

theorem execSqrt (h : s.HasUnits) : NextHasUnits (execSqrt t b k errs s) := h.runAlive fun _ hu => hu.vectorStep

theorem execRsqrt (h : s.HasUnits) : NextHasUnits (execRsqrt t b k errs s) := h.runAlive fun _ hu => hu.vectorStep

theorem execSum (h : s.HasUnits) : NextHasUnits (execSum t b k errs s) := h.runAlive fun _ hu => hu.vectorStep

theorem execSumsq (h : s.HasUnits) : NextHasUnits (execSumsq t b k errs s) := h.runAlive fun _ hu => hu.vectorStep

theorem execMax (h : s.HasUnits) : NextHasUnits (execMax t b k errs s) := h.runAlive fun _ hu => hu.vectorStep

theorem execMin (h : s.HasUnits) : NextHasUnits (execMin t b k errs s) := h.runAlive fun _ hu => hu.vectorStep

theorem execArgmax (h : s.HasUnits) : NextHasUnits (execArgmax t b k errs s) := h.runAlive fun _ hu => hu.vectorStep

theorem execMeanVar (h : s.HasUnits) : NextHasUnits (execMeanVar t b k errs s) :=
  h.runAlive fun _ hu => hu.vectorStep

theorem execMeanVarMerge (h : s.HasUnits) : NextHasUnits (execMeanVarMerge t b k errs s) :=
  h.runAlive fun _ hu => hu.vectorStep

theorem execVectorOperationComplete (h : s.HasUnits) : NextHasUnits (execVectorOperationComplete t b n s) :=
  h.runAlive fun _ hu => hu.completeNth

end

/-! ### The ring of a reduce-scatter -/

section

variable {s : State} {n o : Nat} {q : RingJob} {r : RingRun}

theorem ringIte {r₁ r₂ : RingRun} {c : Prop} [Decidable c] (h₁ : r₁.s.HasUnits) (h₂ : r₂.s.HasUnits) :
    (if c then r₁ else r₂).s.HasUnits := by
  split
  · exact h₁
  · exact h₂

theorem ringFinal {vs : List Val} {y : Block} (h : r.s.HasUnits) : (r.final q o vs y).s.HasUnits := by
  unfold RingRun.final
  extract_lets _ _ s1 s2
  have h1 : s1.HasUnits := by
    unfold s1
    split
    · exact h
    · exact .ite h.put.markRange h.put
  have h2 : s2.HasUnits := .ite h1.bumpBasin h1
  split
  · exact h2
  · refine List.foldlRecOn (motive := fun r : RingRun => r.s.HasUnits) _ _ h2 fun _ hr _ _ => ?_
    exact .ringIte hr hr

theorem ringJoin {level : Nat} {y z : Block} (h : r.s.HasUnits) : (r.join q o level y z).2.s.HasUnits := by
  unfold RingRun.join
  split
  · split
    · exact h.ringFinal
    · exact h
  · dsimp only
    split
    · exact h.ringFinal
    · exact h

theorem ringOuter {level : Nat} {y : Block} (h : r.s.HasUnits) : (RingRun.outer q o n level y r).s.HasUnits := by
  induction n generalizing level y r with
  | zero => exact h
  | succ n ih =>
    unfold RingRun.outer
    refine .ringIte ?_ ?_
    · split
      · exact .ringIte h.ringFinal (ih h)
      · split
        · exact h
        · exact .ringIte (.ringJoin h) (ih (.ringJoin h))
    · split <;> exact h

theorem ringHop {y : Block} (h : r.s.HasUnits) : (r.hopHere q o y).s.HasUnits :=
  .ringIte h.ringFinal (.ringIte h (.ringIte h.ringOuter h.ringFinal))

theorem ringBegin {known : Option Nat} (h : r.s.HasUnits) : (r.begin q o known).s.HasUnits := by
  refine .ringIte (.ringHop h) ?_
  split
  · exact .ringHop h
  · exact .ringIte (.ringHop h.bumpBasin) (.ringHop h)

theorem ringStart (h : r.s.HasUnits) : (r.start q).s.HasUnits := by
  refine List.foldlRecOn (motive := fun r : RingRun => r.s.HasUnits) _ _ h fun _ hr _ _ => ?_
  exact .ringIte (.ringIte (.ringIte hr.ringBegin hr) hr) (.ringIte hr.ringBegin hr)

theorem ringArrive {x : Nat} {y : Block} (h : r.s.HasUnits) : (r.arrive q x o y).s.HasUnits := by
  refine .ringIte h (.ringIte (.ringHop h) ?_)
  dsimp only
  split
  · exact h
  · exact .ringIte (.ringJoin h) (.ringOuter (.ringJoin h))

theorem ringScale {v : Nat} (h : r.s.HasUnits) : (r.scale q o v).s.HasUnits :=
  .ringIte h (.ringIte (.ringIte (.ringBegin (.ringIte h h)) (.ringIte h h)) h)

theorem ringFlush (h : r.s.HasUnits) : (r.flush q).1.HasUnits :=
  .foldl (h.foldl fun _ _ hu => hu.sendTo) fun _ _ hu => hu.sendTo

end

/-! ### Tiles -/

section

variable {s : State} {b : Nat}

theorem noteTile {r : TileRead} (h : s.HasUnits) : (s.noteTile b r).HasUnits := .ite h.noteErr h

end

/-! ### The meres -/

section

variable {s : State} {b k t : Nat} {d : Bytes} {errs : List CheckErr}

theorem stageLoad {item : Option SpmmItem} (h : s.HasUnits) : (s.stageLoad b k errs d item).HasUnits :=
  .modBasin (h.noteErrs.foldl fun _ _ hu => by extract_lets; split; exact .modBasin (.ite hu.touchAccesses hu))

theorem stagePass {lanesFree : Bool} (h : s.HasUnits) : (s.stagePass b k lanesFree errs).HasUnits := by
  unfold State.stagePass
  split
  · exact h.atHead fun _ => h
  · exact .ite h (.ite h.stageLoad (.ite h.halt (h.checked (by split; exact h.haltIllegal; exact .ite h h.stageLoad))))

theorem countMarked {st : StagedPass} {marks : Bool} (h : s.HasUnits) : (s.countMarked b k st marks).HasUnits :=
  .ite h (by split; exact .ite h h.bumpSlot.modBasin; exact h.bumpSlot)

theorem putPass {st : StagedPass} {xs : List Stored} (h : s.HasUnits) : (s.putPass b k errs st xs).HasUnits :=
  .bumpSlot (.markFailedChunks (.countMarked (.markRanges (h.foldl fun _ _ hu => hu.putRanges))))

theorem passIssued {st : StagedPass} {w : List Range} {ms : List Nat} (h : s.HasUnits) :
    (s.passIssued b k st w ms).HasUnits :=
  .ite h.addFlight h.issued

theorem issuePass {ready : Bool} (h : s.HasUnits) : (s.issuePass b ready errs).HasUnits := by
  unfold State.issuePass
  split
  · exact h
  · refine .ite ?_ h
    extract_lets
    split
    exact .passIssued (.foldl (.putPass (h.noteErrs.foldl fun _ _ hu => hu.noteTile)) fun _ _ hu => hu.modBasin)

theorem completePass (h : s.HasUnits) : (s.completePass b).HasUnits := by
  unfold State.completePass
  split
  · exact h
  · exact .ite h.completeFlight h

theorem execMerePassIssue {ready : Bool} {lowered : List (Nat × Nat)} (h : s.HasUnits) :
    NextHasUnits (execMerePassIssue t b ready lowered errs s) :=
  h.runAlive fun _ hu => hu.lowerCounts.issuePass

theorem execMerePassComplete (h : s.HasUnits) : NextHasUnits (execMerePassComplete t b s) :=
  h.runAlive fun _ hu => hu.completePass

end

/-! ### The tarns -/

section

variable {s : State} {b k a t : Nat} {d : Bytes} {errs : List CheckErr}

theorem tarnIssued {w : List Range} {late : Option LateFault} {lanes : List (List InletEntry)} (h : s.HasUnits) :
    (s.tarnIssued b k d w late lanes).HasUnits :=
  h.issued.modBasin

theorem spmm (h : s.HasUnits) : (s.spmm b k errs d).HasUnits := by
  unfold State.spmm
  extract_lets
  split
  · exact h.haltIllegal
  · split
    · exact h.halt
    · exact .ite (.modBasin (.tarnIssued (.putStored (h.noteErrs.foldl fun _ _ hu => hu.noteTile)))) h

theorem gatherRow {bad : List Range} {rb dst : Nat} {src : Option Nat} {poison : Bool} (h : s.HasUnits) :
    (s.gatherRow bad rb dst src poison).1.HasUnits := by
  unfold State.gatherRow
  split
  · exact h.write
  · exact h.touchCache.write

theorem gather (h : s.HasUnits) : (s.gather b k errs d).HasUnits := by
  refine .ite (.tarnIssued (.markFailedChunks (.bumpSlot ?_))) h
  exact List.foldlRecOn (motive := fun y : State × Bool => y.1.HasUnits) _ _ h.noteErrs fun _ hu _ _ => hu.gatherRow

theorem addRow {bad : List Range} {fd fa : Fmt} {w : Val} {row : List Nat} {poison : Bool} (h : s.HasUnits) :
    (s.addRow bad fd fa w a row poison).HasUnits :=
  .ite h.write.markRange h.write

theorem scatterAdd (h : s.HasUnits) : (s.scatterAdd b k errs d).HasUnits := by
  unfold State.scatterAdd
  extract_lets
  split
  refine .ite ?_ h
  exact .tarnIssued (.markFailedChunks (.bumpSlot (.bumpSlot (.bumpBasin (h.noteErrs.foldl fun _ _ hu => hu.addRow)))))

theorem mergeOp (h : s.HasUnits) : (s.mergeOp b k errs d).HasUnits :=
  .ite h.haltIllegal (h.checked (.ite (by extract_lets; split; exact h.noteErrs.putStored.tarnIssued) h))

theorem tilePack (h : s.HasUnits) : (s.tilePack b k errs d).HasUnits :=
  .ite h.noteErrs.putStored.bumpSlot.tarnIssued h

theorem tileUnpack (h : s.HasUnits) : (s.tileUnpack b k errs d).HasUnits :=
  .ite (.tarnIssued (.putStored (h.noteErrs.foldl fun _ _ hu => hu.noteTile))) h

theorem tarnOp (h : s.HasUnits) : (s.tarnOp b k errs d).HasUnits := by
  unfold State.tarnOp
  split
  · exact h.spmm
  · exact h.gather
  · exact h.scatterAdd
  · exact h.mergeOp
  · exact h.tilePack
  · exact h.tileUnpack

theorem tarnIssue (h : s.HasUnits) : (s.tarnIssue b errs k).HasUnits :=
  h.atHead fun _ => .ite h (h.checked h.tarnOp)

theorem tarnComplete (h : s.HasUnits) : (s.tarnComplete b).HasUnits := by
  unfold State.tarnComplete
  split
  · exact h
  · exact .ite h.completeFlight.modBasin h

theorem execTarnOperationComplete (h : s.HasUnits) : NextHasUnits (execTarnOperationComplete t b s) :=
  h.runAlive fun _ hu => hu.tarnComplete

end

/-! ### The Route class -/

section

variable {s : State} {b k t : Nat} {d : Bytes} {errs : List CheckErr}

theorem rankOp (h : s.HasUnits) : (s.rankOp b k errs d).HasUnits := .ite h.noteErrs.putStored.tarnIssued h

theorem placeOp (h : s.HasUnits) : (s.placeOp b k errs d).HasUnits := by
  refine .ite h (.tarnIssued (.putStored (.bumpBasin (h.noteErrs.modBasin fun _ hx => ?_))))
  exact { hx with experts := (List.length_modify ..).trans hx.experts }

theorem combineOp (h : s.HasUnits) : (s.combineOp b k errs d).HasUnits := by
  refine .ite (.tarnIssued (.bumpBasin (.markFailedChunks (.markOutputs ?_)))) h
  refine .ite (.markRange (.write ?_)) (.write ?_)
  all_goals
    exact List.foldlRecOn (motive := fun y : State × List (Nat × CombineRow) => y.1.HasUnits) _ _ h.noteErrs
      fun _ hu _ _ => hu.write

theorem retireOp (h : s.HasUnits) : (s.retireOp b k errs d).HasUnits := h.noteErrs.modBasin.tarnIssued

theorem maskBuildOp (h : s.HasUnits) : (s.maskBuildOp b k errs d).HasUnits := by
  unfold State.maskBuildOp
  extract_lets
  split
  · exact h.halt
  · exact .ite h.noteErrs.putStored.tarnIssued h

theorem maskApplyOp (h : s.HasUnits) : (s.maskApplyOp b k errs d).HasUnits := .ite h.noteErrs.putStored.tarnIssued h

theorem routeOp (h : s.HasUnits) : (s.routeOp b k errs d).HasUnits := by
  unfold State.routeOp
  split
  · exact h.rankOp
  · exact h.placeOp
  · exact h.combineOp
  · exact h.retireOp
  · exact h.maskBuildOp
  · exact h.maskApplyOp

theorem routeIssue (h : s.HasUnits) : (s.routeIssue b errs k).HasUnits :=
  h.atHead fun _ => .ite h (h.checked h.routeOp)

theorem weaveIssue (h : s.HasUnits) : (s.weaveIssue b errs k).HasUnits := .ite h.tarnIssue h.routeIssue

theorem weaveStep {cls : Nat} {isOp : Nat → Bool} (h : s.HasUnits) : (s.weaveStep b k errs cls isOp).HasUnits :=
  .ite (h.inTurn fun _ => h.weaveIssue) h

theorem execSpmm (h : s.HasUnits) : NextHasUnits (execSpmm t b k errs s) := h.runAlive fun _ hu => hu.weaveStep

theorem execScatterAdd (h : s.HasUnits) : NextHasUnits (execScatterAdd t b k errs s) :=
  h.runAlive fun _ hu => hu.weaveStep

theorem execMerge (h : s.HasUnits) : NextHasUnits (execMerge t b k errs s) := h.runAlive fun _ hu => hu.weaveStep

theorem execTilePack (h : s.HasUnits) : NextHasUnits (execTilePack t b k errs s) :=
  h.runAlive fun _ hu => hu.weaveStep

theorem execTileUnpack (h : s.HasUnits) : NextHasUnits (execTileUnpack t b k errs s) :=
  h.runAlive fun _ hu => hu.weaveStep

theorem execRank (h : s.HasUnits) : NextHasUnits (execRank t b k errs s) := h.runAlive fun _ hu => hu.weaveStep

theorem execPlace (h : s.HasUnits) : NextHasUnits (execPlace t b k errs s) := h.runAlive fun _ hu => hu.weaveStep

theorem execCombine (h : s.HasUnits) : NextHasUnits (execCombine t b k errs s) :=
  h.runAlive fun _ hu => hu.weaveStep

theorem execRetire (h : s.HasUnits) : NextHasUnits (execRetire t b k errs s) := h.runAlive fun _ hu => hu.weaveStep

theorem execMaskBuild (h : s.HasUnits) : NextHasUnits (execMaskBuild t b k errs s) :=
  h.runAlive fun _ hu => hu.weaveStep

theorem execMaskApply (h : s.HasUnits) : NextHasUnits (execMaskApply t b k errs s) :=
  h.runAlive fun _ hu => hu.weaveStep

end

/-! ### Collectives -/

section

variable {s : State} {b k p n a t ctx : Nat} {m msg : Msg} {q : RingJob} {d : Bytes} {errs : List CheckErr}
  {g : GroupRec}

theorem modInst {i : Inst} {f : Inst → Inst} (h : s.HasUnits) : (s.modInst i f).HasUnits := h.frame

theorem modMember {i : Inst} {f : MemberPart → MemberPart} (h : s.HasUnits) : (s.modMember i f).HasUnits :=
  h.modInst

theorem modRoot {i : Inst} {f : RootPart → RootPart} (h : s.HasUnits) : (s.modRoot i f).HasUnits := h.modInst

theorem sweepInsts (h : s.HasUnits) : s.sweepInsts.HasUnits := h.frame

theorem sendSelf (h : s.HasUnits) : (s.sendSelf p m).HasUnits := h.toInbox

theorem sendMember {dev : Nat} {o : MsgOwner} (h : s.HasUnits) : (s.sendMember p dev m o).HasUnits :=
  .ite h.sendSelf h.sendTo

theorem sendUp {type place : Nat} {rest : Bytes} (h : s.HasUnits) : (s.sendUp p g type place rest).HasUnits := by
  unfold State.sendUp
  split
  · exact h
  · split
    · exact h.sendSelf
    · exact h.sendTo

theorem clearTags (h : s.HasUnits) : (s.clearTags b k g d).HasUnits :=
  h.foldl fun _ _ hu => hu.foldl fun _ _ hv => hv.put

theorem collIssue (h : s.HasUnits) : (State.collIssue errs s b k d).HasUnits := by
  refine .ite h ?_
  split
  · exact h.halt
  · split
    · exact h.haltIllegal
    · split
      · exact h.halt
      · refine h.checked (.ite h ?_)
        extract_lets _ s1 _ s2
        have h1 : s1.HasUnits := h.touchAccesses.foldl fun _ _ hu => hu.noteLostReads
        have h2 : s2.HasUnits := .ite h1.noteErrs.clearTags h1.noteErrs
        exact .sendUp (.advance (.ite h2.addFlight.modInst h2.frame))

theorem collStep {isOp : Nat → Bool} (h : s.HasUnits) : (s.collStep b k errs isOp).HasUnits :=
  h.atHead fun _ => h.collIssue

theorem completeMember {i : Inst} {m : MemberPart} {st : CollStatus} (h : s.HasUnits) :
    (s.completeMember i m st).HasUnits := by
  unfold State.completeMember
  extract_lets flight _ _ _ _ _ _ s1
  have h1 : s1.HasUnits :=
    .sweepInsts (.modInst (.ite h.markFailedChunks.put.markRange.bumpSlot h.markFailedChunks.put))
  clear_value flight
  split
  · exact h1.completeFlight
  · exact h1

theorem dropOrphans {i : Inst} (h : s.HasUnits) : (s.dropOrphans i).HasUnits := h.frame

theorem unfold {i : Inst} (h : s.HasUnits) : (s.unfold i).HasUnits := h.modPartition

theorem scramble (h : s.HasUnits) : (s.scramble a n).HasUnits := by
  dsimp only [State.scramble, State.freeBytes]
  split
  · exact .ite h.frame h.frame.writeBytes
  · exact h.frame.writeBytes

theorem scrambleOutputs {i : Inst} {m : MemberPart} (h : s.HasUnits) : (s.scrambleOutputs i m g).HasUnits :=
  .ite (.foldl (h.foldl fun _ _ hu => hu.scramble) fun _ _ hu => hu.scramble) h

theorem breakMember {i : Inst} (h : s.HasUnits) : (s.breakMember i).HasUnits := by
  unfold State.breakMember
  split
  · exact h
  · extract_lets s1
    have h1 : s1.HasUnits := by
      unfold s1
      split
      · exact h.scrambleOutputs
      · exact h
    exact h1.unfold.bumpBasin.completeMember.dropOrphans

theorem rootBreak {i : Inst} (h : s.HasUnits) : (s.rootBreak i).HasUnits := by
  unfold State.rootBreak
  split
  · exact h
  · exact .sweepInsts (.modInst (h.foldl fun _ _ hu => hu.sendMember))

theorem memberGivesUp {i : Inst} (h : s.HasUnits) : (s.memberGivesUp i).HasUnits := by
  unfold State.memberGivesUp
  split
  · exact h.breakMember
  · exact .ite (by split; exact h.rootBreak.breakMember; exact h.breakMember) h.sendUp.breakMember

theorem rootCheck {i : Inst} (h : s.HasUnits) : (s.rootCheck i).HasUnits := by
  unfold State.rootCheck
  split
  · refine .ite h ?_
    extract_lets _ _ _ _ s1
    have h1 : s1.HasUnits := by
      refine .foldl ?_ fun _ _ hu => hu.foldl fun _ _ hv => hv.sendMember
      exact .ite h.modRoot (by split; exact h.modRoot.bumpBasin; exact h.modRoot)
    exact .ite h1.rootBreak h1
  · exact h

theorem excludeLate {i : Inst} {r : RootPart} {rank : Nat} (h : s.HasUnits) :
    (s.excludeLate i g r rank).HasUnits := by
  unfold State.excludeLate
  extract_lets _ adopter
  clear_value adopter
  split <;> exact h.sendMember.sendMember

theorem rootJoin {seq step rank : Nat} {held : Bool} (h : s.HasUnits) :
    (s.rootJoin p g seq step rank held).HasUnits := by
  unfold State.rootJoin
  extract_lets _ _ s1
  have h1 : s1.HasUnits := by
    unfold s1
    split
    · exact h.frame
    · exact .ite h.modInst h
  split
  · exact h1
  · exact .ite h1 (.ite h1.excludeLate (by split; exact h1.modRoot.rootCheck; exact h1.modRoot))

theorem climb (h : s.HasUnits) : (s.climb p g m).HasUnits := h.sendUp

theorem onJoin (h : s.HasUnits) : (s.onJoin p ctx m).HasUnits := by
  unfold State.onJoin
  split
  · exact h.sendMember
  · exact .ite h.rootJoin h.climb.modPartition

theorem settleJoins {gid seq : Nat} (h : s.HasUnits) : (s.settleJoins p gid seq).HasUnits := h.modPartition

theorem breakDown {seq : Nat} (h : s.HasUnits) : (s.breakDown p g seq).HasUnits := by
  unfold State.breakDown
  split
  · exact h
  · exact .settleJoins (h.foldl fun _ _ hu => hu.sendTo)

theorem weirClose {gid seq : Nat} (h : s.HasUnits) : (s.weirClose p gid seq).HasUnits := by
  unfold State.weirClose
  split
  · exact h.rootCheck
  · exact h

theorem onDone (h : s.HasUnits) : (s.onDone p ctx m).HasUnits := by
  unfold State.onDone
  split
  · exact h
  · exact .ite h.climb (by split; exact h; exact .ite (h.modRoot.modRoot.foldl fun _ _ hu => hu.sendMember) h.modRoot)

theorem breakOwn {gid seq : Nat} (h : s.HasUnits) : (s.breakOwn p gid seq).HasUnits := by
  unfold State.breakOwn
  split
  · exact h.breakMember
  · exact h

theorem onBreak (h : s.HasUnits) : (s.onBreak p ctx m).HasUnits := by
  unfold State.onBreak
  split
  · exact h
  · exact .ite h.breakOwn (.ite (by split; exact h.rootBreak; exact h) (.ite h.climb h.breakDown.breakOwn))

theorem collLost {dev : Nat} (h : s.HasUnits) : (s.collLost p dev).HasUnits := by
  refine h.foldl fun _ _ hu => ?_
  split
  · exact hu
  · extract_lets _ s1
    have h1 : s1.HasUnits := by
      unfold s1
      split
      · exact .ite hu.rootCheck (.ite hu.rootBreak hu)
      · exact hu
    split
    · exact h1
    · exact .ite (.ite h1.memberGivesUp h1) (.ite (.ite h1.completeMember h1) (.ite h1.breakMember h1))

theorem sendUnits {xs : List (Nat × Nat × Bytes × Bool)} (h : s.HasUnits) : (s.sendUnits q xs).HasUnits :=
  h.foldl fun _ _ hu => hu.sendTo

theorem placeUnits {us : List (Nat × Bytes × Bool)} (h : s.HasUnits) : (s.placeUnits q us).HasUnits := by
  unfold State.placeUnits
  extract_lets
  split
  · exact h
  · exact h.put.markRanges

theorem gatherStart {i : Inst} (h : s.HasUnits) : (s.gatherStart q i).HasUnits :=
  h.placeUnits.modMember.foldl fun _ _ hu => hu.sendUnits

theorem gatherUnits {i : Inst} (h : s.HasUnits) : (s.gatherUnits q i m).HasUnits :=
  h.placeUnits.modMember.foldl fun _ _ hu => hu.sendUnits

theorem reshardStart (h : s.HasUnits) : (s.reshardStart q).HasUnits :=
  h.foldl fun _ _ hu => .ite hu (hu.foldl fun _ _ hv => hv.foldl fun _ _ hw => hw.sendMember)

theorem reshardBytes {i : Inst} (h : s.HasUnits) : (s.reshardBytes q i m).HasUnits := by
  unfold State.reshardBytes
  extract_lets
  split
  · exact h.bumpBasin
  · exact .modMember (h.put.foldl fun _ _ hu => .ite hu.markRange hu)

theorem normStart {root : Nat} (h : s.HasUnits) : (s.normStart q root).HasUnits := h.sendMember

theorem onNormValue {i : Inst} (h : s.HasUnits) : (s.onNormValue i g msg).HasUnits :=
  .ite (.ite h.modRoot (h.modRoot.foldl fun _ _ hu => hu.sendMember)) (by split; exact h; exact h.put.modMember)

theorem sendRow {type rank item : Nat} {tag : Bytes} {tagBad : Bool} (h : s.HasUnits) :
    (s.sendRow q type rank item tag tagBad a n).HasUnits :=
  h.foldl fun _ _ hu => by split; exact hu.sendMember

theorem dispatchStart {i : Inst} (h : s.HasUnits) : (s.dispatchStart q i).HasUnits := by
  refine h.foldl fun _ _ hu => ?_
  extract_lets
  split
  · exact hu.bumpBasin.modMember
  · exact .modMember (.bumpBasin (hu.foldl fun _ _ hv => .ite hv.sendRow hv))

theorem returnStart (h : s.HasUnits) : (s.returnStart q).HasUnits :=
  h.foldl fun _ _ hu => hu.foldl fun _ _ hv => .ite hv hv.sendRow

theorem dispatchRow {i : Inst} {ms : List Msg} (h : s.HasUnits) : (s.dispatchRow q i ms).HasUnits := by
  unfold State.dispatchRow
  split
  · exact h
  · extract_lets
    split
    exact .ite h.bumpBasin h.put.markRanges.put.modMember

theorem returnRow {i : Inst} {flight : Nat} {ms : List Msg} (h : s.HasUnits) :
    (s.returnRow q i flight ms).HasUnits := by
  unfold State.returnRow
  split
  · exact h
  · extract_lets
    split
    refine .ite h.modMember.freeNat.bumpSlot.frame ?_
    refine .ite h.modMember.bumpBasin ?_
    refine .ite h.modMember.bumpBasin ?_
    refine .ite h.modMember.bumpBasin ?_
    refine .ite (.ite h.modMember.bumpBasin h.modMember.put.put.modMember) ?_
    exact .ite h.modMember.bumpBasin h.modMember.addRow.modMember

theorem adopt {i : Inst} (h : s.HasUnits) : (s.adopt q i).HasUnits :=
  h.frame.foldl fun _ _ hu => .ite hu.frame.bumpBasin.modMember hu.frame

theorem startData {i : Inst} {m : MemberPart} (h : s.HasUnits) : (s.startData i m g).HasUnits := by
  unfold State.startData
  extract_lets _ s1 s2
  have h1 : s1.HasUnits := h.modPartition
  split
  · have h2 : s2.HasUnits := h1.adopt
    split
    · exact .modMember (.ringFlush (.ringStart h2))
    · exact h2
  · exact h1.gatherStart
  · exact h1.normStart
  · exact h1.reshardStart
  · exact h1.dispatchStart
  · exact h1.returnStart

theorem onStart (h : s.HasUnits) : (s.onStart p ctx msg).HasUnits := by
  unfold State.onStart
  split
  · exact h
  · split
    · extract_lets _ _ _ _ _ s1
      have h1 : s1.HasUnits := h.modMember.settleJoins
      exact .ite h1 (.ite h1.memberGivesUp h1.startData)
    · exact h

theorem answerOrphan {o : Orphan} (h : s.HasUnits) : (s.answerOrphan o).HasUnits :=
  .ite h.sendMember (.ite h.sendMember (.ite (h.foldl fun _ _ hu => hu.sendMember) h.frame))

theorem excludedSelf {facts : ExcludedFacts} {i : Inst} {m : MemberPart} (h : s.HasUnits) :
    (s.excludedSelf facts i m g).HasUnits := by
  unfold State.excludedSelf
  extract_lets _ _ _ _ _ _ _ s1 s2 s3
  have h2 : s2.HasUnits := h.put.markRanges.modPartition
  have h3 : s3.HasUnits := .ite (.ite h2.bumpBasin h) h.bumpBasin
  exact .ite h.bumpBasin.completeMember (.ite h3.completeMember (.ite h3.completeMember h3.modMember))

theorem onExcluded {facts : ExcludedFacts} (h : s.HasUnits) : (State.onExcluded facts s p ctx msg).HasUnits := by
  unfold State.onExcluded
  extract_lets
  split
  · exact h
  · refine .ite ?_ (by split; exact h.settleJoins.answerOrphan; exact h.settleJoins)
    split
    · split
      · exact h.settleJoins.excludedSelf
      · exact h.settleJoins
    · exact h.settleJoins

theorem orphanBytes {i : Inst} {m : MemberPart} (h : s.HasUnits) : (s.orphanBytes i m msg).HasUnits := by
  unfold State.orphanBytes
  extract_lets _ _ _ _ s1
  have h1 : s1.HasUnits := h.put.foldl fun _ _ hu => .ite hu.markRange hu
  exact .ite (.ite h.completeMember h.completeMember) (.ite h1.completeMember h1.modMember)

theorem endMember {i : Inst} {m : MemberPart} (h : s.HasUnits) : (s.endMember i m g).HasUnits := by
  unfold State.endMember
  extract_lets _ s1
  have h1 : s1.HasUnits := .ite (h.foldl fun _ _ hu => hu.put) h
  exact .foldl (.congr rfl (.completeMember (.ite h1.modPartition h1))) fun _ _ hu => hu.answerOrphan

theorem onEnd (h : s.HasUnits) : (s.onEnd p ctx msg).HasUnits := by
  unfold State.onEnd
  split
  · split
    · exact h.endMember
    · exact h
  · exact h

theorem collProgress (h : s.HasUnits) : s.collProgress.HasUnits :=
  h.foldl fun _ _ hu => by split; exact .ite hu.modMember.sendUp hu; exact hu

theorem onData {type : Nat} {go : State → Inst → MemberPart → GroupRec → Msg → State}
    (h : s.HasUnits) (hgo : ∀ u x1 x2 x3 x4, u.HasUnits → (go u x1 x2 x3 x4).HasUnits) :
    (s.onData type go).HasUnits := by
  unfold State.onData
  split
  · exact h
  · extract_lets
    split
    · exact .collProgress (hgo _ _ _ _ _ h.take)
    · exact h.take

theorem rsBlocks {i : Inst} {m : MemberPart} (h : s.HasUnits) : (s.rsBlocks i m g msg).HasUnits := by
  refine .ite h (.modMember (.ringFlush ?_))
  exact List.foldlRecOn (motive := fun r : RingRun => r.s.HasUnits) _ _ h fun _ hr _ _ => hr.ringArrive

theorem scaleEcho {i : Inst} {m : MemberPart} (h : s.HasUnits) : (s.scaleEcho i m g msg).HasUnits := by
  refine .ite h (.modMember (.ringFlush ?_))
  exact List.foldlRecOn (motive := fun r : RingRun => r.s.HasUnits) _ _ h fun _ hr _ _ => hr.ringScale

theorem shardData {i : Inst} {m : MemberPart} (h : s.HasUnits) : (s.shardData i m g msg).HasUnits :=
  .ite h.orphanBytes (.ite h.gatherUnits (.ite h.reshardBytes h))

theorem lateRow (h : s.HasUnits) : (s.lateRow p m).HasUnits := .ite h.bumpBasin h

theorem onRow {type : Nat} {go : State → RingJob → Inst → MemberPart → List Msg → State}
    (h : s.HasUnits) (hgo : ∀ u x1 x2 x3 x4, u.HasUnits → (go u x1 x2 x3 x4).HasUnits) :
    (s.onRow type go).HasUnits := by
  unfold State.onRow
  split
  · exact h
  · extract_lets _ u1
    have h1 : u1.HasUnits := h.foldl fun _ _ hu => hu.take
    split
    · exact .collProgress (hgo _ _ _ _ _ h1)
    · exact h1.lateRow

theorem execJoin (h : s.HasUnits) : NextHasUnits (execJoin t s) :=
  h.runWriter fun _ hu => hu.onMessage fun _ _ _ _ hv => hv.onJoin

theorem execCollStart (h : s.HasUnits) : NextHasUnits (execCollStart t s) :=
  h.runWriter fun _ hu => .collProgress (hu.onMessage fun _ _ _ _ hv => hv.onStart)

theorem execExcluded {joined late adopter : Nat} (h : s.HasUnits) :
    NextHasUnits (execExcluded t joined late adopter s) :=
  h.runWriter fun _ hu => hu.onMessage fun _ _ _ _ hv => hv.onExcluded

theorem execCollDone (h : s.HasUnits) : NextHasUnits (execCollDone t s) :=
  h.runWriter fun _ hu => hu.onMessage fun _ _ _ _ hv => hv.onDone

theorem execCollEnd (h : s.HasUnits) : NextHasUnits (execCollEnd t s) :=
  h.runWriter fun _ hu => by split; exact hu; exact hu.take.onEnd

theorem execCollBreak (h : s.HasUnits) : NextHasUnits (execCollBreak t s) :=
  h.runWriter fun _ hu => hu.onMessage fun _ _ _ _ hv => hv.onBreak

theorem execWeirClose {gid seq : Nat} (h : s.HasUnits) : NextHasUnits (execWeirClose t p gid seq s) :=
  h.runWriter fun _ hu => hu.weirClose

theorem execRsBlocks (h : s.HasUnits) : NextHasUnits (execRsBlocks t s) :=
  h.runWriter fun _ hu => hu.onData fun _ _ _ _ _ hv => hv.rsBlocks

theorem execScaleEcho (h : s.HasUnits) : NextHasUnits (execScaleEcho t s) :=
  h.runWriter fun _ hu => hu.onData fun _ _ _ _ _ hv => hv.scaleEcho

theorem execNormValue (h : s.HasUnits) : NextHasUnits (execNormValue t s) := by
  refine h.runWriter fun _ hu => ?_
  split
  · exact hu
  · extract_lets
    split
    · exact hu.take.onNormValue.collProgress
    · exact hu.take

theorem execShardData (h : s.HasUnits) : NextHasUnits (execShardData t s) :=
  h.runWriter fun _ hu => hu.onData fun _ _ _ _ _ hv => hv.shardData

theorem execDispatchRow (h : s.HasUnits) : NextHasUnits (execDispatchRow t s) :=
  h.runWriter fun _ hu => hu.onRow fun _ _ _ _ _ hv => hv.dispatchRow

theorem execReturnRow (h : s.HasUnits) : NextHasUnits (execReturnRow t s) :=
  h.runWriter fun _ hu => hu.onRow fun _ _ _ _ _ hv => hv.returnRow

end

/-! ### Images, captures and restores -/

section

variable {s : State} {p a t ctx : Nat} {m : Msg} {ck : Bool}

theorem postCapture {code step time d0 d1 d2 d3 : Nat} (h : s.HasUnits) :
    (s.postCapture p code step time d0 d1 d2 d3).HasUnits :=
  h.post

theorem allDirty (h : s.HasUnits) : (s.allDirty p).HasUnits := h.modPartition

theorem setCapture {c : Option Capture} (h : s.HasUnits) : (s.setCapture p ck c).HasUnits := h.modPartition

theorem abandonCapture (h : s.HasUnits) : (s.abandonCapture p ck).HasUnits := by
  unfold State.abandonCapture
  split
  · exact h
  · exact h.frame.setCapture.allDirty.postCapture

theorem openCapture {t : CaptureTarget} {cold : List Nat} {c : Capture} (h : s.HasUnits) :
    (s.openCapture p ck t cold c).HasUnits :=
  h.modPartition.modPartition.setCapture.sendTo

theorem captureTo {kind : CaptureKind} {own : Nat} {m : Bytes} {pages : List (Nat × Bool × Nat)} {t : CaptureTarget}
    (h : s.HasUnits) :
    (s.captureTo p ck kind own m pages t).HasUnits := by
  unfold State.captureTo
  extract_lets _ s1
  have h1 : s1.HasUnits := .ite h h.allDirty
  split
  · exact h1.modPartition.allDirty.postCapture
  · exact .ite h1.modPartition.freeNat.allDirty.postCapture h1.modPartition.openCapture

theorem captureFrom {kind : CaptureKind} {own : Nat} {m : Bytes} (h : s.HasUnits) :
    (s.captureFrom p ck kind own m).HasUnits := by
  unfold State.captureFrom
  extract_lets
  split
  · exact h.postCapture
  · split
    · exact h
    · exact .ite h.postCapture (.ite h.postCapture h.captureTo)

theorem beginCapture {kind : CaptureKind} (h : s.HasUnits) : (s.beginCapture p ck kind).HasUnits := by
  unfold State.beginCapture
  split
  · exact h
  · exact h.captureFrom

theorem captureProgress (h : s.HasUnits) : (s.captureProgress p ck).HasUnits := by
  unfold State.captureProgress
  split
  · exact h
  · exact .ite h (h.setCapture.foldl fun _ _ hu => hu.sendTo)

theorem capturesProgress (h : s.HasUnits) : s.capturesProgress.HasUnits :=
  h.foldl fun _ _ hu => hu.captureProgress.captureProgress

theorem refreshInterval (h : s.HasUnits) : (s.refreshInterval p).HasUnits := h.modPartition

theorem captureToTC2 {c : Capture} (h : s.HasUnits) : (s.captureToTC2 p c).HasUnits := by
  unfold State.captureToTC2
  extract_lets
  split
  · exact h.setCapture
  · exact h.setCapture.modCtx.sendQueued

theorem startFlush (h : s.HasUnits) : (s.startFlush p).HasUnits :=
  .ite h (by split; exact h.beginCapture; exact h.captureToTC2)

theorem endCapture {c : Capture} (h : s.HasUnits) : (s.endCapture p ck c).HasUnits := by
  unfold State.endCapture
  extract_lets _ s1 s2
  have h1 : s1.HasUnits := h.setCapture.postCapture
  have h2 : s2.HasUnits := .ite h1 h1.modPartition
  exact .ite h2.refreshInterval.startFlush h2.refreshInterval

theorem captureCommit (h : s.HasUnits) : (s.captureCommit p ck).HasUnits := by
  unfold State.captureCommit
  split
  · exact h
  · exact .ite h (.ite h.endCapture h.setCapture.sendTo)

theorem stageEight (h : s.HasUnits) : (s.stageEight p).HasUnits := by
  unfold State.stageEight
  extract_lets _ s1 _ s2
  have h1 : s1.HasUnits := by
    unfold s1
    split
    · exact .ite h.modPartition.beginCapture h.modPartition
    · exact h.modPartition
  have h2 : s2.HasUnits := by
    unfold s2
    split
    · exact .ite h1.beginCapture h1
    · exact h1
  exact .ite h2.modPartition.startFlush h2.modPartition

theorem putOver {rs : List Range} {bs : Bytes} (h : s.HasUnits) : (s.putOver rs bs).HasUnits := by
  induction rs generalizing s bs with
  | nil => exact h
  | cons r rs ih => exact ih h.put

theorem onImageBegin (h : s.HasUnits) : (s.onImageBegin p ctx m).HasUnits := .ite h.frame.putOver h

theorem onImagePage (h : s.HasUnits) : (s.onImagePage p ctx m).HasUnits := by
  unfold State.onImagePage
  extract_lets
  split
  · exact h.bumpBasin
  · exact .ite h.bumpBasin (h.putOver.foldl fun _ _ hu => .ite hu.markRanges hu)

theorem onImageCommit (h : s.HasUnits) : (s.onImageCommit p ctx m).HasUnits := by
  unfold State.onImageCommit
  extract_lets
  split
  · exact h
  · exact h.putOver.putOver.frame.postCapture

theorem onFeedQuery (h : s.HasUnits) : (s.onFeedQuery p ctx m).HasUnits := by
  refine .ite (.sendTo (.ite h.frame h)) ?_
  extract_lets
  split
  · split
    · exact .ite h.finish h.frame.respond
    · exact h
  · exact h

theorem partnerConfirm {accepted : Bool} (h : s.HasUnits) : (s.partnerConfirm p accepted).HasUnits := by
  unfold State.partnerConfirm
  split
  · exact h
  · split
    · exact .ite h.modPartition.finish h.modPartition.finish
    · exact h

theorem sendSags (h : s.HasUnits) : s.sendSags.HasUnits := h.foldl fun _ _ hu => hu.sendTo

theorem onRestoreAsk (h : s.HasUnits) : (s.onRestoreAsk p ctx m).HasUnits := by
  unfold State.onRestoreAsk
  extract_lets
  split
  · exact h
  · exact h.foldl fun _ _ hu => hu.sendTo

theorem forgetRoots {step : Nat} (h : s.HasUnits) : (s.forgetRoots p step).HasUnits := h.frame

theorem restoreDone {o : OpenCmd} {record area : Bytes} (h : s.HasUnits) :
    (s.restoreDone p o record area).HasUnits :=
  h.modPartition.forgetRoots.finish

theorem putPage {r : Restore} {o : Nat} (h : s.HasUnits) : (s.putPage r o a).HasUnits := h.put.markRanges

theorem restoreProgress {o : OpenCmd} {record area : Bytes} {r : Restore} (h : s.HasUnits) :
    (s.restoreProgress p o record area r).HasUnits := by
  refine .ite h.modPartition ?_
  refine .ite h.modPartition.finish ?_
  extract_lets _ _ _ _ s1
  have h1 : s1.HasUnits := h.foldl fun _ _ hu => hu.putPage
  exact .ite h1.modPartition.finish (.ite h1.restoreDone h1.modPartition)

theorem onRestorePage (h : s.HasUnits) : (s.onRestorePage p ctx m).HasUnits := by
  unfold State.onRestorePage
  split
  · split
    · exact .ite h h.restoreProgress
    · exact h
  · exact h

theorem soundingUpdate (h : s.HasUnits) : s.soundingUpdate.HasUnits :=
  .ite (h.frame.frame.raise.foldl fun _ _ hu => .ite hu (.ite hu.startFlush hu.modPartition)) h.frame.frame

theorem execImageBegin (h : s.HasUnits) : NextHasUnits (execImageBegin t s) :=
  h.runWriter fun _ hu => hu.onMessage fun _ _ _ _ hv => hv.onImageBegin

theorem execImagePage (h : s.HasUnits) : NextHasUnits (execImagePage t s) :=
  h.runWriter fun _ hu => hu.onMessage fun _ _ _ _ hv => hv.onImagePage

theorem execImageCommit (h : s.HasUnits) : NextHasUnits (execImageCommit t s) :=
  h.runWriter fun _ hu => hu.onMessage fun _ _ _ _ hv => hv.onImageCommit

theorem execCaptureCommit {checkpoint : Bool} (h : s.HasUnits) :
    NextHasUnits (execCaptureCommit t p checkpoint s) :=
  h.runAlive fun _ hu => hu.captureCommit

theorem execFeedQuery (h : s.HasUnits) : NextHasUnits (execFeedQuery t s) :=
  h.runAlive fun _ hu => hu.onMessage fun _ _ _ _ hv => hv.onFeedQuery

theorem execPartnerConfirm {accepted : Bool} (h : s.HasUnits) : NextHasUnits (execPartnerConfirm t p accepted s) :=
  h.runAlive fun _ hu => hu.partnerConfirm

theorem execSag (h : s.HasUnits) : NextHasUnits (execSag t s) :=
  h.runAlive fun _ hu => hu.onMessage fun _ _ _ _ hv => hv.frame

theorem execRestoreAsk (h : s.HasUnits) : NextHasUnits (execRestoreAsk t s) :=
  h.runAlive fun _ hu => hu.onMessage fun _ _ _ _ hv => hv.onRestoreAsk

theorem execRestorePage (h : s.HasUnits) : NextHasUnits (execRestorePage t s) :=
  h.runWriter fun _ hu => hu.onMessage fun _ _ _ _ hv => hv.onRestorePage

theorem execSoundingUpdate (h : s.HasUnits) : NextHasUnits (execSoundingUpdate t s) :=
  h.runAlive fun _ hu => hu.soundingUpdate

theorem execReturnMessage (h : s.HasUnits) : NextHasUnits (execReturnMessage t s) := by
  refine h.runAlive fun _ hu => ?_
  split
  · exact hu.take.onReturn.capturesProgress.guarded fun _ hv => hv.collProgress
  · exact hu

end

/-! ### Stills -/

section

variable {s : State} {b p pos t ctx : Nat} {m : Msg}

theorem advanceOpen {scope idx : Nat} (h : s.HasUnits) : (s.advanceOpen scope idx pos).HasUnits := h.freeNat.bump

theorem advanceWaits (h : s.HasUnits) : (s.advanceWaits b).HasUnits := .ite h (h.foldl fun _ _ hu => hu.advanceOpen)

theorem snapshotStage (h : s.HasUnits) : (s.snapshotStage p).HasUnits :=
  .foldl (.modPartition (.congr rfl (h.foldl fun _ _ hu => hu.advanceWaits))) fun _ _ hu => .ite hu.modBasin hu

theorem lateStage (h : s.HasUnits) : (s.lateStage p).HasUnits :=
  .congr rfl (.modPartition (h.foldl fun _ _ hu => hu.bumpBasin))

theorem expertStages (h : s.HasUnits) : (s.expertStages p).HasUnits :=
  h.foldl fun _ _ hu => .ite (hu.modBasin fun _ hx => { hx with experts := (List.length_map _).trans hx.experts }) hu

theorem finishStill (h : s.HasUnits) : (s.finishStill p).HasUnits :=
  h.snapshotStage.lateStage.expertStages.modPartition.stageEight

theorem sendStill {t : TreeRec} {body : Bytes} (h : s.HasUnits) : (s.sendStill p t body).HasUnits :=
  h.foldl fun _ _ hu => hu.sendTo

theorem startStill (h : s.HasUnits) : (s.startStill p).HasUnits := by
  unfold State.startStill
  extract_lets _ _ s1 s2
  have h1 : s1.HasUnits := .ite h.modPartition.frame h.modPartition
  have h2 : s2.HasUnits := by
    unfold s2
    split
    · split
      · exact .ite h1.sendStill h1
      · exact h1
    · exact h1
  exact .ite h2 h2.finishStill

theorem stillDue (h : s.HasUnits) : (s.stillDue p).HasUnits := .ite h.startStill h.modPartition

theorem stillResume (h : s.HasUnits) : (s.stillResume p).HasUnits :=
  .ite (.ite h.finishStill.modPartition.startStill h.finishStill) h

theorem bumpPartition (h : s.HasUnits) : (s.bumpPartition p pos).HasUnits := h.bump

theorem pulse (h : s.HasUnits) : (s.pulse p).HasUnits := .ite h.stillDue h.bumpPartition

theorem pulses {f : Nat → PulseSource → Bool} (h : s.HasUnits) : (s.pulses f).HasUnits :=
  h.foldl fun _ _ hu => .ite hu.pulse hu

theorem onStill (h : s.HasUnits) : (s.onStill p ctx m).HasUnits := by
  unfold State.onStill
  extract_lets
  split
  · exact h
  · exact .ite h h.sendStill.pulses

theorem plannedStill (h : s.HasUnits) : (s.plannedStill p).HasUnits := .ite h.stillDue h

theorem stillWindowEnd (h : s.HasUnits) : (s.stillWindowEnd p).HasUnits := .ite h.bumpPartition.stillDue h

theorem execStill (h : s.HasUnits) : NextHasUnits (execStill t s) :=
  h.runAlive fun _ hu => hu.onMessage fun _ _ _ _ hv => hv.onStill

theorem execStillSyncInPulse (h : s.HasUnits) : NextHasUnits (execStillSyncInPulse t s) :=
  h.runAlive fun _ hu => hu.pulses

theorem execPlannedStill (h : s.HasUnits) : NextHasUnits (execPlannedStill t p s) :=
  h.runAlive fun _ hu => hu.plannedStill

theorem execStillWindowEnd (h : s.HasUnits) : NextHasUnits (execStillWindowEnd t p s) :=
  h.runAlive fun _ hu => hu.stillWindowEnd

theorem execStillResume (h : s.HasUnits) : NextHasUnits (execStillResume t p s) :=
  h.runAlive fun _ hu => hu.stillResume

end

/-! ### What is lost: contexts, basins, partitions -/

section

variable {s : State} {b p i t : Nat} {errs : List CheckErr}

theorem closeImport {x : Import} {st : Status} {result : Bytes} (h : s.HasUnits) :
    (s.closeImport p x st result).HasUnits := by
  unfold State.closeImport
  extract_lets
  split
  · exact h.modPartition.finish
  · exact h.modPartition

theorem failImports {f : Import → Bool} (h : s.HasUnits) : (s.failImports p f).HasUnits :=
  h.foldl fun _ _ hu => hu.closeImport

theorem failOpens {f : OpenKind → Bool} (h : s.HasUnits) : (s.failOpens f).HasUnits :=
  h.foldl fun _ _ hu => hu.finish

theorem loseContext {c : PeerCtx} (h : s.HasUnits) : (s.loseContext p c).HasUnits := by
  unfold State.loseContext
  extract_lets _ _ _ _ s1 s2 _ _ s3 _ s4
  have h1 : s1.HasUnits := .ite h.modCtx.raise.abandonCapture h.modCtx.raise
  have h2 : s2.HasUnits := .ite h1.abandonCapture h1
  have h3 : s3.HasUnits := .ite h2.modPartition.modPartition.failOpens h2.modPartition
  have h4 : s4.HasUnits := .ite h3.modPartition.failOpens h3
  exact h4.failImports.modCtx.collLost.completeRemote.losePairs.syncRecheck.collProgress

theorem probeTimeout (h : s.HasUnits) : (s.probeTimeout i).HasUnits := by
  unfold State.probeTimeout
  split
  · split
    · exact h
    · exact .ite h (.ite h.modCtx h.loseContext)
  · exact h

theorem clearBasin (h : s.HasUnits) : (s.clearBasin b).HasUnits :=
  h.clearUnits.foldl fun _ _ hu => hu.freeCells.abandonBarriers

theorem emptyBasin (h : s.HasUnits) : (s.emptyBasin b).HasUnits :=
  .zeroPools (.flushCache (h.modBasin fun _ hx =>
    { hx with tables := List.length_replicate, experts := List.length_replicate }))

theorem freeSlots (h : s.HasUnits) : (s.freeSlots b).HasUnits :=
  h.modBasin fun _ hx => { hx with slots := (List.length_map _).trans hx.slots }

theorem stopBasin (h : s.HasUnits) : (s.stopBasin b).HasUnits :=
  h.foldl fun _ _ hu => by split; exact hu; exact hu; exact .ite hu hu.stopSlot

theorem commitRecord {type : Nat} {payload : Bytes} (h : s.HasUnits) : (s.commitRecord type payload).HasUnits :=
  h.frame

theorem commitRetired (h : s.HasUnits) : s.commitRetired.HasUnits := h.commitRecord

theorem abandonWrites {f : Flight} (h : s.HasUnits) : (s.abandonWrites f).HasUnits :=
  h.foldl fun _ _ hu => hu.frame.put

theorem abandonFlight {f : Flight} (h : s.HasUnits) : (s.abandonFlight f).HasUnits :=
  .ite (by extract_lets; split; exact h.frame.memberGivesUp; exact h.frame.dropFlight) h.dropFlight.abandonWrites

theorem basinFault (h : s.HasUnits) : (s.basinFault b).HasUnits := by
  unfold State.basinFault
  extract_lets _ _ staged s1 s2 s3 s4 s5 _ s6 s7 s8 s9 s10
  have h1 : s1.HasUnits := .foldl (h.foldl fun _ _ hu => hu.abandonFlight) fun _ _ hu => hu.dropStaged
  have h2 : s2.HasUnits := by
    unfold s2
    clear_value staged
    split
    · exact h1.dropStaged
    · exact h1
  have h4 : s4.HasUnits := h2.modBasin.foldl fun _ _ hu => hu.halt
  have h5 : s5.HasUnits := h4.foldl fun _ _ hu => hu.halt
  have h6 : s6.HasUnits := h5.clearBasin.freeSlots.emptyBasin.modBasin.raise
  have h7 : s7.HasUnits := by
    unfold s7
    clear_value s6
    split
    · exact h6.failImports.modPartition
    · exact h6
  have h8 : s8.HasUnits := h7.frame
  have h10 : s10.HasUnits := h8.failOpens.commitRetired
  exact .ite h (.ite h10.enterFault h10)

theorem checkWear (h : s.HasUnits) : (s.checkWear i).HasUnits := .ite h.basinFault h

theorem checkStacks (h : s.HasUnits) : (s.checkStacks errs).HasUnits := h.foldl fun _ _ hu => hu.checkWear

theorem leavePartition (h : s.HasUnits) : (s.leavePartition b).HasUnits :=
  h.clearBasin.emptyBasin.startWipe.modBasin fun _ hx =>
    { hx with slots := (List.length_map _).trans hx.slots, cells := List.length_replicate }

theorem breakAll (h : s.HasUnits) : (s.breakAll p).HasUnits := by
  refine h.foldl fun _ _ hu => ?_
  extract_lets s1
  have h1 : s1.HasUnits := .ite hu.rootBreak hu
  split
  · exact h1.memberGivesUp
  · exact h1

theorem closePartition (h : s.HasUnits) : (s.closePartition p).HasUnits :=
  .modPartition (h.breakAll.failImports.abandonCapture.abandonCapture.failOpens.foldl fun _ _ hu => hu.stopBasin)

theorem erasePartition (h : s.HasUnits) : (s.erasePartition p).HasUnits :=
  .modPartition (.congr rfl (.mapPorts (.foldl (h.foldl fun _ _ hu => hu.leavePartition)
    fun _ _ hu => hu.flushPortLines)))

theorem closeComplete (h : s.HasUnits) : (s.closeComplete p).HasUnits := by
  unfold State.closeComplete
  split
  · exact h
  · exact .ite h h.erasePartition.finish

theorem execProbeTimeout {ctx : Nat} (h : s.HasUnits) : NextHasUnits (execProbeTimeout t ctx s) :=
  h.runAlive fun _ hu => hu.probeTimeout

theorem execBasinFault (h : s.HasUnits) : NextHasUnits (execBasinFault t b s) :=
  h.run fun _ hu => .ite hu.basinFault hu

theorem execPartitionCloseComplete (h : s.HasUnits) : NextHasUnits (execPartitionCloseComplete t p s) :=
  h.runAlive fun _ hu => hu.closeComplete

end

/-! ### The checks of a command -/

section

variable {s : State} {f t fn mb : Nat} {c : Bytes} {buf : Option Bytes}

theorem takeCommand {m : Nat} (h : s.HasUnits) : (s.takeCommand f m).HasUnits :=
  .ite h.modMailbox.refreshOldest h.modMailbox.refreshOldest.frame

theorem decide {m : Nat} {isOp : Nat → Bool} {go : State → Ticket → Bytes → State}
    (h : s.HasUnits) (hgo : ∀ u x1 x2, u.HasUnits → (go u x1 x2).HasUnits) :
    (s.decide f m isOp go).HasUnits :=
  .ite (.ite (hgo _ _ _ h.takeCommand) h) h

theorem command {m : Nat} {k : CmdSpec} {go : State → Ticket → Bytes → State}
    (h : s.HasUnits) (hgo : ∀ u x1 x2, u.HasUnits → (go u x1 x2).HasUnits) :
    (s.command f m k go).HasUnits :=
  h.decide fun _ _ _ hu => by split; exact hu.respond; exact hgo _ _ _ hu

theorem reply {t : Ticket} {st : Status} {result : Bytes} (h : s.HasUnits) : (s.reply t st result).HasUnits :=
  h.respond

theorem accept {t : Ticket} {k : OpenKind} {go : State → State}
    (h : s.HasUnits) (hgo : ∀ u, u.HasUnits → (go u).HasUnits) :
    (s.accept t k go).HasUnits :=
  .ite h.reply (.respond (hgo _ h.openCommand))

theorem withInput {t : Ticket} {off : Nat} {len : Nat → Bool} {go : Bytes → State}
    (h : s.HasUnits) (hgo : ∀ x0, (go x0).HasUnits) :
    (s.withInput t c off len buf go).HasUnits := by
  unfold State.withInput
  split
  · exact h.reply
  · exact .ite h.reply (by split; exact h.reply; exact hgo _)

theorem withOutput {t : Ticket} {off : Nat} {out : Bytes} {outOk : Bool} {result : Bytes} (h : s.HasUnits) :
    (s.withOutput t c off out outOk result).HasUnits := by
  unfold State.withOutput
  split
  · exact h.reply
  · exact .ite h.reply (.ite h.reply h.frame.reply)

theorem execUndefinedOpcode (h : s.HasUnits) : NextHasUnits (execUndefinedOpcode t fn mb s) :=
  h.run fun _ hu => hu.decide fun _ _ _ hv => hv.reply

end

/-! ### Folham links and the router -/

section

variable {s : State} {m : Msg} {i pos t sp : Nat} {fec : FecOutcome} {raw : Bytes}

theorem enqueue {vc routerVc : Nat} {origin : Option HeldInput} (h : s.HasUnits) :
    (s.enqueue i m vc routerVc origin).HasUnits := by
  unfold State.enqueue
  extract_lets _ _ _ _ s1
  have h1 : s1.HasUnits := .ite h.bumpFolham h
  exact .modSub (.ite h1.frame h1)

theorem freeInput {o : Option HeldInput} (h : s.HasUnits) : (s.freeInput o).HasUnits := by
  unfold State.freeInput
  split
  · exact h.modSub
  · exact h

theorem route {vc : Nat} {origin : Option HeldInput} (h : s.HasUnits) : (s.route m vc origin).HasUnits := by
  unfold State.route
  split
  · exact h.freeInput.bumpDevice
  · split
    · exact .ite h.enqueue h.enqueue.frame
    · exact h.frame

theorem retryWaiting (h : s.HasUnits) : s.retryWaiting.HasUnits :=
  h.frame.foldl fun _ _ hu => .ite hu.route hu.frame

theorem atRouter {vc : Nat} {fromLink : Bool} {origin : Option HeldInput} (h : s.HasUnits) :
    (s.atRouter m vc fromLink origin).HasUnits :=
  .ite h.freeInput.bumpDevice (.ite h.freeInput.deliver h.route)

theorem noteMsgCrc {bad : Bool} (h : s.HasUnits) : (s.noteMsgCrc m bad).HasUnits :=
  .ite (by split; exact h.bumpBasin.raise; exact h) h

theorem forgetInput (h : s.HasUnits) : (s.forgetInput i).HasUnits := h.mapSubs.frame

theorem leaveUp {st : SubState} (h : s.HasUnits) : (s.leaveUp i st).HasUnits :=
  .foldl (h.forgetInput.modSub.foldl fun _ _ hu => hu.noteMsgCrc.atRouter) fun _ _ hu => hu.route

theorem retrain (h : s.HasUnits) : (s.retrain i).HasUnits := .ite h.leaveUp.modSub h

theorem sendFrame (h : s.HasUnits) : (s.sendFrame i).HasUnits := by
  refine .ite h ?_
  split
  · exact h.bumpFolham.modSub
  · extract_lets
    split
    · split
      extract_lets
      split
      exact h.modSub.foldl fun _ _ hu => hu.freeInput
    · split <;> exact h.modSub

theorem sendControl (h : s.HasUnits) : (s.sendControl i).HasUnits := .ite h.modSub h

theorem crcFailed (h : s.HasUnits) : (s.crcFailed i).HasUnits := .ite h.modSub.retrain h.modSub

theorem linkCount (h : s.HasUnits) : (s.linkCount i pos).HasUnits := h.frame.bumpFolham

theorem noteFec (h : s.HasUnits) : (s.noteFec i fec).HasUnits := by
  unfold State.noteFec
  extract_lets s1
  have h1 : s1.HasUnits := .ite h.bumpFolham h
  exact .ite h1.bumpFolham h1

theorem receiveData (h : s.HasUnits) : (s.receiveData i raw).HasUnits := by
  refine .ite ?_ ?_
  · extract_lets s1
    have h1 : s1.HasUnits := h.linkCount.modSub
    exact .ite h1.retrain h1
  · refine .ite ?_ (.ite h.modSub.modSub h.modSub.modSub)
    extract_lets s2
    have h2 : s2.HasUnits := h.modSub.modSub.crcFailed
    exact .ite h2 (.ite h2.modSub.bumpFolham.raise h2.modSub)

theorem dataFrame (h : s.HasUnits) : (s.dataFrame i raw fec).HasUnits := .ite h.noteFec.receiveData h

theorem nakFrame (h : s.HasUnits) : (s.nakFrame i raw fec).HasUnits := .ite h.noteFec.receiveData.linkCount.modSub h

theorem plainFrame {kind : Nat} {go : SubPort → SubPort} (h : s.HasUnits) :
    (s.plainFrame i kind raw fec go).HasUnits :=
  .ite (.ite h.noteFec.modSub h.noteFec.crcFailed) h

theorem controlFrame (h : s.HasUnits) : (s.controlFrame i raw fec).HasUnits := h.plainFrame

theorem idleFrame (h : s.HasUnits) : (s.idleFrame i raw fec).HasUnits := h.plainFrame

theorem forward {src : MsgSource} (h : s.HasUnits) : (s.forward src).HasUnits := by
  unfold State.forward
  split
  · split
    · exact h
    · exact h.frame.atRouter
  · refine .ite h ?_
    split
    · exact h
    · extract_lets
      split
      · exact h.modSub.noteMsgCrc.atRouter
      · exact h.modSub.freeInput

theorem startTraining {is : List Nat} (h : s.HasUnits) : (s.startTraining is).HasUnits :=
  h.foldl fun _ _ hu => hu.leaveUp.modSub

theorem finishPortCommands (h : s.HasUnits) : s.finishPortCommands.HasUnits :=
  h.foldl fun _ _ hu => .ite hu (.ite hu.finish (.ite hu.finish hu))

theorem trained {failed : List Nat} (h : s.HasUnits) : (s.trained i failed).HasUnits :=
  .ite (by split; exact h; exact .finishPortCommands (.retryWaiting (.ite h.modSub h.modSub.raise))) h

theorem trainingFailed (h : s.HasUnits) : (s.trainingFailed i).HasUnits :=
  .ite (.ite h.modSub h.modSub.raise.finishPortCommands) h

theorem expireWaiting (h : s.HasUnits) : s.expireWaiting.HasUnits := by
  unfold State.expireWaiting
  split
  · exact h
  · exact .ite h.frame.freeInput.bumpDevice h

theorem execDataFrame (h : s.HasUnits) : NextHasUnits (execDataFrame t sp raw fec s) :=
  h.runAlive fun _ hu => hu.dataFrame

theorem execDataFrameNak (h : s.HasUnits) : NextHasUnits (execDataFrameNak t sp raw fec s) :=
  h.runAlive fun _ hu => hu.nakFrame

theorem execControlFrame (h : s.HasUnits) : NextHasUnits (execControlFrame t sp raw fec s) :=
  h.runAlive fun _ hu => hu.controlFrame

theorem execIdleFrame (h : s.HasUnits) : NextHasUnits (execIdleFrame t sp raw fec s) :=
  h.runAlive fun _ hu => hu.idleFrame

theorem execFrameSend (h : s.HasUnits) : NextHasUnits (execFrameSend t sp s) := h.runAlive fun _ hu => hu.sendFrame

theorem execControlFrameSend (h : s.HasUnits) : NextHasUnits (execControlFrameSend t sp s) :=
  h.runAlive fun _ hu => hu.sendControl

theorem execMessageForward {src : MsgSource} (h : s.HasUnits) : NextHasUnits (execMessageForward t src s) :=
  h.runAlive fun _ hu => hu.forward

theorem execRouteWaitExpiry (h : s.HasUnits) : NextHasUnits (execRouteWaitExpiry t s) :=
  h.runAlive fun _ hu => hu.expireWaiting

theorem execUndefinedTypeMessage (h : s.HasUnits) : NextHasUnits (execUndefinedTypeMessage t s) :=
  h.runAlive fun _ hu => by split; exact hu.take; exact hu

theorem execReturnSend {ctx : Nat} (h : s.HasUnits) : NextHasUnits (execReturnSend t ctx s) :=
  h.runAlive fun _ hu => by split; exact .ite hu.sendReturn hu; exact hu

theorem execProbe (h : s.HasUnits) : NextHasUnits (execProbe t s) :=
  h.runAlive fun _ hu => by split; exact hu.take.sendReturn; exact hu

theorem execResendTimeout {ctx cls : Nat} (h : s.HasUnits) : NextHasUnits (execResendTimeout t ctx cls s) :=
  h.runAlive fun _ hu => hu.resend

theorem execLossOfLock (h : s.HasUnits) : NextHasUnits (execLossOfLock t sp s) := h.runAlive fun _ hu => hu.retrain

theorem execTrainingComplete {failedLanes : List Nat} (h : s.HasUnits) :
    NextHasUnits (execTrainingComplete t sp failedLanes s) :=
  h.runAlive fun _ hu => hu.trained

theorem execTrainingAttemptFailed (h : s.HasUnits) : NextHasUnits (execTrainingAttemptFailed t sp s) :=
  h.runAlive fun _ hu => hu.trainingFailed

end

/-! ### Device, partition and memory commands -/

section

variable {s : State} {b t fn mb : Nat} {x : Ticket} {c : Bytes} {buf : Option Bytes}

theorem deviceQuery (h : s.HasUnits) : (s.deviceQuery x c).HasUnits := .ite h.reply (.ite h.reply h.reply)

theorem trainAll (h : s.HasUnits) : s.trainAll.HasUnits := h.startTraining

theorem settle {point : Nat} (h : s.HasUnits) : (s.settle point).HasUnits := h.freeNat.frame

theorem operatingPointSet (h : s.HasUnits) : (s.operatingPointSet x c).HasUnits :=
  .ite h.reply (.ite h.reply (.ite h.reply (.ite h.reply (h.accept fun _ hu => hu.frame))))

theorem pointSettled (h : s.HasUnits) : s.pointSettled.HasUnits := by
  unfold State.pointSettled
  split
  · exact h
  · exact .ite (by split; exact h.settle.finish; exact h.settle) h.settle

theorem redrawKeys {q : Nat} (h : s.HasUnits) : (s.redrawKeys q).HasUnits := .ite h h.sealPort.drawKeys

theorem partitionOpen (h : s.HasUnits) : (s.partitionOpen x c).HasUnits := by
  refine .ite h.reply (.ite h.reply ?_)
  exact .reply (.congr rfl (.foldl (h.random.modPartition.foldl fun _ _ hu => hu.modBasin)
    fun _ _ hu => hu.redrawKeys))

theorem partitionClose (h : s.HasUnits) : (s.partitionClose x c).HasUnits :=
  .ite h.reply (.ite h.reply (h.accept fun _ hu => hu.closePartition))

theorem poolModeSet (h : s.HasUnits) : (s.poolModeSet x c).HasUnits :=
  .ite h.reply (.ite h.reply (.ite h.reply (.ite h.reply (h.accept fun _ hu => hu.flushCache))))

theorem poolModeComplete (h : s.HasUnits) : (s.poolModeComplete b).HasUnits := by
  unfold State.poolModeComplete
  split
  · exact h
  · split
    · exact h.zeroRange.modBasin.finish
    · exact h

theorem segmentSet (h : s.HasUnits) : (s.segmentSet x c buf).HasUnits :=
  .ite h.reply (h.withInput fun _ => .ite h.reply (.ite h.reply h.modSlot.reply))

theorem cxlAttach (h : s.HasUnits) : (s.cxlAttach x c).HasUnits := .ite h.reply h.modPort.drawKeys.reply

theorem cxlDetach (h : s.HasUnits) : (s.cxlDetach x c).HasUnits :=
  .ite h.reply (.ite h.reply (h.accept fun _ hu => hu.flushPortLines.modPort))

theorem cxlDetachComplete {q : Nat} (h : s.HasUnits) : (s.cxlDetachComplete q).HasUnits := by
  unfold State.cxlDetachComplete
  split
  · exact h
  · exact .ite h h.sealPort.modPort.finish

theorem execDeviceQuery (h : s.HasUnits) : NextHasUnits (execDeviceQuery t fn mb s) :=
  h.run fun _ hu => hu.decide fun _ _ _ hv => .ite hv.reply (.ite hv.reply (.ite hv.reply hv.deviceQuery))

theorem execHoldRelease (h : s.HasUnits) : NextHasUnits (execHoldRelease t fn mb s) :=
  h.run fun _ hu => hu.command fun _ _ _ hv => hv.frame.trainAll.reply

theorem execOperatingPointSet (h : s.HasUnits) : NextHasUnits (execOperatingPointSet t fn mb s) :=
  h.run fun _ hu => hu.command fun _ _ _ hv => hv.operatingPointSet

theorem execPointSettled (h : s.HasUnits) : NextHasUnits (execPointSettled t s) := h.run fun _ hu => hu.pointSettled

theorem execPartitionOpen (h : s.HasUnits) : NextHasUnits (execPartitionOpen t fn mb s) :=
  h.run fun _ hu => hu.command fun _ _ _ hv => hv.partitionOpen

theorem execPartitionClose (h : s.HasUnits) : NextHasUnits (execPartitionClose t fn mb s) :=
  h.run fun _ hu => hu.command fun _ _ _ hv => hv.partitionClose

theorem execPoolModeSet (h : s.HasUnits) : NextHasUnits (execPoolModeSet t fn mb s) :=
  h.run fun _ hu => hu.command fun _ _ _ hv => hv.poolModeSet

theorem execPoolModeChangeComplete (h : s.HasUnits) : NextHasUnits (execPoolModeChangeComplete t b s) :=
  h.runAlive fun _ hu => hu.poolModeComplete

theorem execSegmentSet {buf : HostBuf} (h : s.HasUnits) : NextHasUnits (execSegmentSet t fn mb buf s) :=
  h.run fun _ hu => hu.command fun _ _ _ hv => hv.segmentSet

theorem execCxlPortAttach (h : s.HasUnits) : NextHasUnits (execCxlPortAttach t fn mb s) :=
  h.run fun _ hu => hu.command fun _ _ _ hv => hv.cxlAttach

theorem execCxlPortDetach (h : s.HasUnits) : NextHasUnits (execCxlPortDetach t fn mb s) :=
  h.run fun _ hu => hu.command fun _ _ _ hv => hv.cxlDetach

theorem execCxlDetachComplete {port : Nat} (h : s.HasUnits) : NextHasUnits (execCxlDetachComplete t port s) :=
  h.runAlive fun _ hu => hu.cxlDetachComplete

end

/-! ### Moves -/

section

variable {s : State} {b k t : Nat} {d : Bytes} {errs : List CheckErr}

theorem moveIssue (h : s.HasUnits) : (s.moveIssue b k errs d).HasUnits := by
  refine .ite h.haltIllegal ?_
  refine .ite h.haltIllegal ?_
  refine .ite h ?_
  extract_lets _ _ _ _ _ _ _ s1
  have h1 : s1.HasUnits := .ite (h.noteErrs.foldl fun _ _ hu => hu.noteLostReads) h.noteErrs
  refine .issued (.markFailedChunks (.markOutputs ?_))
  exact .ite h1.touchAccesses.put (h1.touchAccesses.foldl fun _ _ hu => hu.put)

theorem moveAt (h : s.HasUnits) : (s.moveAt b errs k).HasUnits := h.atHead fun _ => .ite h (h.checked h.moveIssue)

theorem moveStep {isOp : Nat → Bool} (h : s.HasUnits) : (s.moveStep b k errs isOp).HasUnits :=
  .ite (h.inTurn fun _ => h.moveAt) h

theorem execMoveComplete (h : s.HasUnits) : NextHasUnits (execMoveComplete t b s) :=
  h.runAlive fun _ hu => hu.completeNth

end

/-! ### The units that read stacks -/

section

variable {s : State} {b k t : Nat} {errs : List CheckErr}

theorem execMerePassStage {lanesFree : Bool} (h : s.HasUnits) :
    NextHasUnits (execMerePassStage t b k lanesFree errs s) :=
  h.runAlive fun _ hu => hu.stagePass.checkStacks

theorem execGather (h : s.HasUnits) : NextHasUnits (execGather t b k errs s) :=
  h.runAlive fun _ hu => hu.weaveStep.checkStacks

theorem execCopy {lowered : List (Nat × Nat)} (h : s.HasUnits) : NextHasUnits (execCopy t b k lowered errs s) :=
  h.runWriter fun _ hu => hu.lowerCounts.moveStep.checkStacks

theorem execZero {lowered : List (Nat × Nat)} (h : s.HasUnits) : NextHasUnits (execZero t b k lowered errs s) :=
  h.runWriter fun _ hu => hu.lowerCounts.moveStep.checkStacks

theorem execReduceScatter (h : s.HasUnits) : NextHasUnits (execReduceScatter t b k errs s) :=
  h.runWriter fun _ hu => hu.collStep.checkStacks

theorem execAllGather (h : s.HasUnits) : NextHasUnits (execAllGather t b k errs s) :=
  h.runWriter fun _ hu => hu.collStep.checkStacks

theorem execNorm (h : s.HasUnits) : NextHasUnits (execNorm t b k errs s) :=
  h.runWriter fun _ hu => hu.collStep.checkStacks

theorem execReshard (h : s.HasUnits) : NextHasUnits (execReshard t b k errs s) :=
  h.runWriter fun _ hu => hu.collStep.checkStacks

theorem execDispatch (h : s.HasUnits) : NextHasUnits (execDispatch t b k errs s) :=
  h.runWriter fun _ hu => hu.collStep.checkStacks

theorem execCollReturn (h : s.HasUnits) : NextHasUnits (execCollReturn t b k errs s) :=
  h.runWriter fun _ hu => hu.collStep.checkStacks

end

/-! ### Peer and collective commands -/

section

variable {s : State} {p t fn mb : Nat} {x : Ticket} {c : Bytes} {buf : Option Bytes}

theorem routeTableLoad (h : s.HasUnits) : (s.routeTableLoad x c buf).HasUnits :=
  h.withInput fun _ => .ite h.reply h.frame.retryWaiting.reply

theorem writePeers {first : Nat} {recs : List Bytes} (h : s.HasUnits) : (s.writePeers p first recs).HasUnits :=
  .syncRecheck (.modPartition (.congr rfl (h.foldl fun _ _ hu => hu.losePairs)))

theorem peerTableLoad (h : s.HasUnits) : (s.peerTableLoad x c buf).HasUnits :=
  .ite h.reply (.ite h.reply (.ite h.reply (h.withInput fun _ => .ite h.reply (.ite h.reply h.writePeers.reply))))

theorem groupDefine (h : s.HasUnits) : (s.groupDefine x c buf).HasUnits :=
  .ite h.reply (h.withInput fun _ => .ite h.reply (.ite h.reply h.modPartition.reply))

theorem weirSet (h : s.HasUnits) : (s.weirSet x c).HasUnits := by
  unfold State.weirSet
  extract_lets
  split
  · exact h.reply
  · exact .ite h.reply h.modPartition.reply

theorem syncTreeDefine (h : s.HasUnits) : (s.syncTreeDefine x c).HasUnits :=
  .ite h.reply (.ite h.reply h.modPartition.reply)

theorem generationCancel (h : s.HasUnits) : (s.generationCancel x c).HasUnits :=
  .ite h.reply (.reply (h.foldl fun _ _ hu => hu.modBasin))

theorem setPortMode {mode : Nat} (h : s.HasUnits) : (s.setPortMode p mode).HasUnits := by
  unfold State.setPortMode
  extract_lets s1
  have h1 : s1.HasUnits := h.foldl fun _ _ hu => hu.leaveUp
  clear_value s1
  exact h1.frame.startTraining

theorem portModeSet (h : s.HasUnits) : (s.portModeSet x c).HasUnits :=
  .ite h.reply (.ite h.reply (.ite h.reply (.ite h.reply (h.accept fun _ hu => hu.setPortMode))))

theorem portRetrain (h : s.HasUnits) : (s.portRetrain x c).HasUnits :=
  .ite h.reply (.ite h.reply (.ite h.reply (h.accept fun _ hu => hu.leaveUp.modSub)))

theorem execRouteTableLoad {buf : HostBuf} (h : s.HasUnits) : NextHasUnits (execRouteTableLoad t fn mb buf s) :=
  h.run fun _ hu => hu.command fun _ _ _ hv => hv.routeTableLoad

theorem execPeerTableLoad {buf : HostBuf} (h : s.HasUnits) : NextHasUnits (execPeerTableLoad t fn mb buf s) :=
  h.run fun _ hu => hu.command fun _ _ _ hv => hv.peerTableLoad

theorem execGroupDefine {buf : HostBuf} (h : s.HasUnits) : NextHasUnits (execGroupDefine t fn mb buf s) :=
  h.run fun _ hu => hu.command fun _ _ _ hv => hv.groupDefine

theorem execWeirSet (h : s.HasUnits) : NextHasUnits (execWeirSet t fn mb s) :=
  h.run fun _ hu => hu.command fun _ _ _ hv => hv.weirSet

theorem execSyncTreeDefine (h : s.HasUnits) : NextHasUnits (execSyncTreeDefine t fn mb s) :=
  h.run fun _ hu => hu.command fun _ _ _ hv => hv.syncTreeDefine

theorem execGenerationCancel (h : s.HasUnits) : NextHasUnits (execGenerationCancel t fn mb s) :=
  h.run fun _ hu => hu.command fun _ _ _ hv => hv.generationCancel

theorem execPortModeSet (h : s.HasUnits) : NextHasUnits (execPortModeSet t fn mb s) :=
  h.run fun _ hu => hu.command fun _ _ _ hv => hv.portModeSet

theorem execPortRetrain (h : s.HasUnits) : NextHasUnits (execPortRetrain t fn mb s) :=
  h.run fun _ hu => hu.command fun _ _ _ hv => hv.portRetrain

end

/-! ### The table function units -/

section

variable {s : State} {b k n t : Nat} {errs : List CheckErr}

theorem tableIssue (h : s.HasUnits) : (s.tableIssue b errs k).HasUnits := by
  refine h.atHead fun _ => ?_
  refine .ite ?_ h
  refine h.checked ?_
  refine .ite ?_ h
  extract_lets _ _ _ s1
  have h1 : s1.HasUnits := h.noteErrs.putStored.issued
  exact .ite h1.frame h1

theorem tableStep {isOp : Nat → Bool} (h : s.HasUnits) : (s.tableStep b k errs isOp).HasUnits :=
  .ite (h.inTurn fun _ => h.tableIssue) h

theorem execFn (h : s.HasUnits) : NextHasUnits (execFn t b k errs s) := h.runAlive fun _ hu => hu.tableStep

theorem execFnSave (h : s.HasUnits) : NextHasUnits (execFnSave t b k errs s) := h.runAlive fun _ hu => hu.tableStep

theorem execDeriv (h : s.HasUnits) : NextHasUnits (execDeriv t b k errs s) := h.runAlive fun _ hu => hu.tableStep

theorem execGrad (h : s.HasUnits) : NextHasUnits (execGrad t b k errs s) := h.runAlive fun _ hu => hu.tableStep

theorem execGradMask (h : s.HasUnits) : NextHasUnits (execGradMask t b k errs s) :=
  h.runAlive fun _ hu => hu.tableStep

theorem execDropout (h : s.HasUnits) : NextHasUnits (execDropout t b k errs s) :=
  h.runAlive fun _ hu => hu.tableStep

theorem execMaxsel (h : s.HasUnits) : NextHasUnits (execMaxsel t b k errs s) := h.runAlive fun _ hu => hu.tableStep

theorem execMaxselGrad (h : s.HasUnits) : NextHasUnits (execMaxselGrad t b k errs s) :=
  h.runAlive fun _ hu => hu.tableStep

theorem execTableOperationComplete (h : s.HasUnits) : NextHasUnits (execTableOperationComplete t b n s) :=
  h.runAlive fun _ hu => hu.completeNth

end

/-! ### Program, table, task and still commands -/

section

variable {s : State} {b k n t fn mb : Nat} {x : Ticket} {c : Bytes} {buf : Option Bytes}

theorem programLoad (h : s.HasUnits) : (s.programLoad x c buf).HasUnits :=
  .ite h.reply (h.withInput fun _ => .ite h.reply (h.accept fun _ hu => hu))

theorem programLoaded (h : s.HasUnits) : (s.programLoaded b k).HasUnits := by
  unfold State.programLoaded
  split
  · exact h
  · split
    · exact h.put.modSlot.finish
    · exact h

theorem tableLoad (h : s.HasUnits) : (s.tableLoad x c buf).HasUnits :=
  .ite h.reply (h.withInput fun _ => .ite h.reply (h.accept fun _ hu => hu))

theorem tableLoaded (h : s.HasUnits) : (s.tableLoaded n).HasUnits := by
  unfold State.tableLoaded
  split
  · exact h
  · split
    · refine .finish (h.foldl fun _ _ hu => hu.modBasin fun _ hx => ?_)
      exact { hx with tables := List.length_set.trans hx.tables }
    · exact h

theorem taskStart (h : s.HasUnits) : (s.taskStart x c).HasUnits := by
  refine .ite h.reply (.ite h.reply ?_)
  exact .ite h.reply (.ite h.reply (.ite h.reply (.reply (.modSlot (h.foldl fun _ _ hu => hu.modCell)))))

theorem taskStop (h : s.HasUnits) : (s.taskStop x c).HasUnits :=
  .ite h.reply (.ite h.reply (h.accept fun _ hu => .ite hu hu.stopSlot))

theorem taskQuery (h : s.HasUnits) : (s.taskQuery x c).HasUnits := .ite h.reply h.reply

theorem stillPlan (h : s.HasUnits) : (s.stillPlan x c).HasUnits :=
  .ite h.reply (.ite h.reply (.ite h.reply (.ite h.reply h.modPartition.reply)))

theorem stillWindowSet (h : s.HasUnits) : (s.stillWindowSet x c).HasUnits :=
  .ite h.reply (.reply (.ite h.modPartition (.ite h.modPartition.frame h.modPartition.frame)))

theorem execProgramLoad {buf : HostBuf} (h : s.HasUnits) : NextHasUnits (execProgramLoad t fn mb buf s) :=
  h.run fun _ hu => hu.command fun _ _ _ hv => hv.programLoad

theorem execProgramLoadComplete (h : s.HasUnits) : NextHasUnits (execProgramLoadComplete t b k s) :=
  h.runWriter fun _ hu => hu.programLoaded

theorem execTableLoad {buf : HostBuf} (h : s.HasUnits) : NextHasUnits (execTableLoad t fn mb buf s) :=
  h.run fun _ hu => hu.command fun _ _ _ hv => hv.tableLoad

theorem execTableLoadComplete {slot : Nat} (h : s.HasUnits) : NextHasUnits (execTableLoadComplete t slot s) :=
  h.runAlive fun _ hu => hu.tableLoaded

theorem execTaskStart (h : s.HasUnits) : NextHasUnits (execTaskStart t fn mb s) :=
  h.run fun _ hu => hu.command fun _ _ _ hv => hv.taskStart

theorem execTaskStop (h : s.HasUnits) : NextHasUnits (execTaskStop t fn mb s) :=
  h.run fun _ hu => hu.command fun _ _ _ hv => hv.taskStop

theorem execTaskQuery (h : s.HasUnits) : NextHasUnits (execTaskQuery t fn mb s) :=
  h.run fun _ hu => hu.command fun _ _ _ hv => hv.taskQuery

theorem execStillPlan (h : s.HasUnits) : NextHasUnits (execStillPlan t fn mb s) :=
  h.run fun _ hu => hu.command fun _ _ _ hv => hv.stillPlan

theorem execStillWindowSet (h : s.HasUnits) : NextHasUnits (execStillWindowSet t fn mb s) :=
  h.run fun _ hu => hu.command fun _ _ _ hv => hv.stillWindowSet

end

/-! ### Security commands -/

section

variable {s : State} {p t ctx fn mb : Nat} {m : Msg} {x : Ticket} {c : Bytes} {buf : Option Bytes}

theorem attestReport (h : s.HasUnits) : (s.attestReport x c).HasUnits :=
  .ite h.reply (by split; exact h.reply; exact .ite h.reply (h.random.accept fun _ hu => hu))

theorem keepReport {report : Bytes} (h : s.HasUnits) : (s.keepReport p report).HasUnits := h.modPartition

theorem attestComplete {outOk : Bool} (h : s.HasUnits) : (s.attestComplete outOk).HasUnits := by
  unfold State.attestComplete
  split
  · exact h
  · split
    · refine .ite h.finish ?_
      extract_lets _ s1
      have h1 : s1.HasUnits := by
        unfold s1
        split
        · exact h.frame.keepReport
        · exact h.frame
      exact h1.finish
    · exact h

theorem keyAccept (h : s.HasUnits) : (s.keyAccept x c buf).HasUnits :=
  .ite h.reply (h.withInput fun _ => by split; exact h.reply; exact .ite h.reply h.modPartition.reply)

theorem weightsImport (h : s.HasUnits) : (s.weightsImport x c).HasUnits := by
  refine .ite h.reply (.ite h.reply (.ite h.reply ?_))
  exact .ite h.reply (by split; exact h.reply; exact .ite h.reply (h.accept fun _ hu => hu.modPartition))

theorem importDone {i : Import} (h : s.HasUnits) : (s.importDone p i).HasUnits := h.modPartition.closeImport

theorem onWeightData (h : s.HasUnits) : (s.onWeightData p ctx m).HasUnits := by
  unfold State.onWeightData
  split
  · exact h
  · exact .ite h.bumpBasin (.ite h.put.modPartition.importDone h.put.modPartition)

theorem debugUnlock (h : s.HasUnits) : (s.debugUnlock x c buf).HasUnits :=
  h.withInput fun _ => .ite h.reply h.frame.reply

theorem execAttestReport (h : s.HasUnits) : NextHasUnits (execAttestReport t fn mb s) :=
  h.run fun _ hu => hu.command fun _ _ _ hv => hv.attestReport

theorem execAttestReportComplete {outOk : Bool} (h : s.HasUnits) :
    NextHasUnits (execAttestReportComplete t outOk s) :=
  h.run fun _ hu => .ite hu.attestComplete hu

theorem execKeyAccept {buf : HostBuf} (h : s.HasUnits) : NextHasUnits (execKeyAccept t fn mb buf s) :=
  h.run fun _ hu => hu.command fun _ _ _ hv => hv.keyAccept

theorem execWeightsImport (h : s.HasUnits) : NextHasUnits (execWeightsImport t fn mb s) :=
  h.run fun _ hu => hu.command fun _ _ _ hv => hv.weightsImport

theorem execWeightData (h : s.HasUnits) : NextHasUnits (execWeightData t s) :=
  h.runWriter fun _ hu => hu.onMessage fun _ _ _ _ hv => hv.onWeightData

theorem execDebugUnlock {buf : HostBuf} (h : s.HasUnits) : NextHasUnits (execDebugUnlock t fn mb buf s) :=
  h.run fun _ hu => hu.command fun _ _ _ hv => hv.debugUnlock

end

/-! ### Drains, service and firmware -/

section

variable {s : State} {b k t fn mb : Nat} {x : Ticket} {c : Bytes} {buf : Option Bytes}

theorem drainSlot (h : s.HasUnits) : (s.drainSlot b k).HasUnits := .ite h (.stopSlot (.ite h.postSlot h))

theorem unstageGang (h : s.HasUnits) : (s.unstageGang b).HasUnits := by
  unfold State.unstageGang
  split
  · exact .ite h h.dropStaged.halt
  · exact h

theorem startDrain (h : s.HasUnits) : (s.startDrain b).HasUnits := by
  unfold State.startDrain
  extract_lets _ s1
  have h1 : s1.HasUnits := h.modBasin.unstageGang.foldl fun _ _ hu => hu.drainSlot
  split
  · exact h1.failImports
  · exact h1

theorem basinDrain (h : s.HasUnits) : (s.basinDrain x c).HasUnits :=
  .ite h.reply (.ite h.reply (h.accept fun _ hu => hu.startDrain))

theorem drainComplete (h : s.HasUnits) : (s.drainComplete b).HasUnits := by
  unfold State.drainComplete
  split
  · exact h
  · exact .ite h h.clearBasin.freeSlots.emptyBasin.modBasin.finish

theorem drainTimeout (h : s.HasUnits) : (s.drainTimeout b).HasUnits := by
  unfold State.drainTimeout
  split
  · exact h
  · split
    · exact .ite h (h.foldl fun _ _ hu => by split; exact hu.memberGivesUp; exact hu)
    · exact h

theorem basinService (h : s.HasUnits) : (s.basinService x c).HasUnits :=
  .ite h.reply (.ite h.reply h.emptyBasin.modBasin.reply)

theorem basinReturn (h : s.HasUnits) : (s.basinReturn x c).HasUnits := by
  refine .ite h.reply (.ite h.reply (.ite h.reply ?_))
  extract_lets s1
  have h1 : s1.HasUnits := h.modBasin fun _ hx => { hx with slots := (List.length_map _).trans hx.slots }
  exact .reply (.ite h1.commitRetired h1)

theorem basinRetire (h : s.HasUnits) : (s.basinRetire x c).HasUnits := by
  refine .ite h.reply (.ite h.reply ?_)
  extract_lets s1
  have h1 : s1.HasUnits := h.emptyBasin.modBasin.commitRetired.reply
  exact .ite h1.enterFault h1

theorem calibrate (h : s.HasUnits) : (s.calibrate x c).HasUnits := .ite h.reply (h.accept fun _ hu => hu)

theorem calibrated {failed : List Nat} (h : s.HasUnits) : (s.calibrated b failed).HasUnits := by
  unfold State.calibrated
  split
  · exact h
  · split
    · extract_lets s1 s2
      have h1 : s1.HasUnits :=
        .ite (.ite (.startWipe (.modBasin (.commitRecord (.congr rfl h)))) (.modBasin (.commitRecord (.congr rfl h)))) h
      exact .ite h.basinFault (.finish (.ite h1.modBasin h1))
    · exact h

theorem storeImage {m : Bytes} (h : s.HasUnits) : (s.storeImage m).HasUnits := .commitRecord (.ite h.frame h.frame)

theorem firmwareStage (h : s.HasUnits) : (s.firmwareStage x c buf).HasUnits :=
  h.withInput fun _ => .ite h.reply (.ite h.reply (.ite h.reply (h.accept fun _ hu => hu.storeImage)))

theorem firmwareStaged (h : s.HasUnits) : s.firmwareStaged.HasUnits := by
  unfold State.firmwareStaged
  split
  · exact h
  · split
    · exact h.finish
    · exact h

theorem firmwareSwitch (h : s.HasUnits) : (s.firmwareSwitch x c).HasUnits :=
  .ite h.reply (.ite h.reply (.ite h.reply (h.accept fun _ hu => hu)))

theorem switchImage (h : s.HasUnits) : s.switchImage.HasUnits := h.freeNat.frame.commitRecord.raise

theorem handover (h : s.HasUnits) : s.handover.HasUnits := by
  unfold State.handover
  split
  · exact h
  · split
    · exact .ite h.switchImage.finish h
    · exact h

theorem handoverLate (h : s.HasUnits) : s.handoverLate.HasUnits := h.frame

theorem handoverFails (h : s.HasUnits) : s.handoverFails.HasUnits := by
  unfold State.handoverFails
  split
  · exact h
  · split
    · exact .ite h.finish h
    · exact h

theorem execBasinDrain (h : s.HasUnits) : NextHasUnits (execBasinDrain t fn mb s) :=
  h.run fun _ hu => hu.command fun _ _ _ hv => hv.basinDrain

theorem execDrainComplete (h : s.HasUnits) : NextHasUnits (execDrainComplete t b s) :=
  h.runAlive fun _ hu => hu.drainComplete

theorem execDrainCollectiveTimeout (h : s.HasUnits) : NextHasUnits (execDrainCollectiveTimeout t b s) :=
  h.runAlive fun _ hu => hu.drainTimeout

theorem execBasinService (h : s.HasUnits) : NextHasUnits (execBasinService t fn mb s) :=
  h.run fun _ hu => hu.command fun _ _ _ hv => hv.basinService

theorem execBasinReturn (h : s.HasUnits) : NextHasUnits (execBasinReturn t fn mb s) :=
  h.run fun _ hu => hu.command fun _ _ _ hv => hv.basinReturn

theorem execBasinRetire (h : s.HasUnits) : NextHasUnits (execBasinRetire t fn mb s) :=
  h.run fun _ hu => hu.command fun _ _ _ hv => hv.basinRetire

theorem execCalibrate (h : s.HasUnits) : NextHasUnits (execCalibrate t fn mb s) :=
  h.run fun _ hu => hu.command fun _ _ _ hv => hv.calibrate

theorem execCalibrationComplete {failedStacks : List Nat} (h : s.HasUnits) :
    NextHasUnits (execCalibrationComplete t b failedStacks s) :=
  h.runAlive fun _ hu => hu.calibrated

theorem execFirmwareStage {buf : HostBuf} (h : s.HasUnits) : NextHasUnits (execFirmwareStage t fn mb buf s) :=
  h.run fun _ hu => hu.command fun _ _ _ hv => hv.firmwareStage

theorem execFirmwareStageComplete (h : s.HasUnits) : NextHasUnits (execFirmwareStageComplete t s) :=
  h.runAlive fun _ hu => hu.firmwareStaged

theorem execFirmwareSwitch (h : s.HasUnits) : NextHasUnits (execFirmwareSwitch t fn mb s) :=
  h.run fun _ hu => hu.command fun _ _ _ hv => hv.firmwareSwitch

theorem execHandoverStart (h : s.HasUnits) : NextHasUnits (execHandoverStart t s) :=
  h.runAlive fun _ hu => hu.handover

theorem execHandoverDeadline (h : s.HasUnits) : NextHasUnits (execHandoverDeadline t s) :=
  h.runAlive fun _ hu => hu.handoverLate

theorem execHandoverTimeout (h : s.HasUnits) : NextHasUnits (execHandoverTimeout t s) :=
  h.runAlive fun _ hu => hu.handoverFails

end

/-! ### The host endpoint -/

section

variable {s : State} {f a t fn mb value : Nat}

theorem doorbell {m tail : Nat} (h : s.HasUnits) : (s.doorbell f m tail).HasUnits := h.modMailbox

theorem overrunClear {m : Nat} (h : s.HasUnits) : (s.overrunClear f m value).HasUnits := h.modMailbox

theorem drainMailbox {m : Nat} (h : s.HasUnits) : (s.drainMailbox f m).HasUnits :=
  h.modMailbox.foldl fun _ _ hu => hu.signal

theorem eventHeadWrite {m : Nat} (h : s.HasUnits) : (s.eventHeadWrite f m value).HasUnits :=
  h.modMailbox.drainMailbox

theorem alertWrite (h : s.HasUnits) : (s.alertWrite f a value).HasUnits := by
  unfold State.alertWrite
  extract_lets _ s1
  have h1 : s1.HasUnits := h.modFunc fun _ hx => { hx with alerts := (List.length_modify ..).trans hx.alerts }
  exact .ite h1.mapPorts h1

theorem sendPending {v : Nat} (h : s.HasUnits) : (s.sendPending f v).HasUnits := .ite (.congr rfl h.modFunc) h

theorem msixWrite {o : Nat} (h : s.HasUnits) : (s.msixWrite f o value).HasUnits := h.modFunc.sendPending

theorem wordWrite {o : Nat} (h : s.HasUnits) : (s.wordWrite f o value).HasUnits := by
  refine .ite h.alertWrite ?_
  refine .ite h ?_
  refine .ite ?_ (.ite h.modFunc (.ite h.modFunc (.ite h.msixWrite h)))
  exact .ite h.doorbell (.ite h.overrunClear (.ite h.eventHeadWrite h))

theorem barWrite {off : Nat} {bs : Bytes} (h : s.HasUnits) : (s.barWrite f off bs).HasUnits :=
  .ite h.frame (.ite (.ite h.modMailbox h) (.ite h.wordWrite.wordWrite h.wordWrite))

theorem whenHost {up : Bool} {go : State → State} (h : s.HasUnits) (hgo : ∀ u, u.HasUnits → (go u).HasUnits) :
    (s.whenHost f up go).HasUnits :=
  .ite (hgo _ h) h

theorem levelReset (h : s.HasUnits) : (s.levelReset f).HasUnits := by
  unfold State.levelReset
  extract_lets s1
  have h1 : s1.HasUnits := h.modFunc fun _ hx => { hx with mailboxes := (List.length_map _).trans hx.mailboxes }
  exact .foldl (h1.frame.foldl fun _ _ hu => hu.stopSlot) fun _ _ hu => hu.drainMailbox

theorem configWrite {reg : Nat} (h : s.HasUnits) : (s.configWrite fn reg value).HasUnits := h.modFunc

theorem execDoorbell {tail : Nat} (h : s.HasUnits) : NextHasUnits (execDoorbell t fn mb tail s) :=
  h.run fun _ hu => hu.whenHost fun _ hv => hv.doorbell

theorem execOverrunClear (h : s.HasUnits) : NextHasUnits (execOverrunClear t fn mb value s) :=
  h.run fun _ hu => hu.whenHost fun _ hv => hv.overrunClear

theorem execEventHeadWrite (h : s.HasUnits) : NextHasUnits (execEventHeadWrite t fn mb value s) :=
  h.run fun _ hu => hu.whenHost fun _ hv => hv.eventHeadWrite

theorem execAlertRegisterWrite (h : s.HasUnits) : NextHasUnits (execAlertRegisterWrite t fn a value s) :=
  h.run fun _ hu => hu.whenHost fun _ hv => hv.alertWrite

theorem execRegisterWrite {off : Nat} {bytes : Bytes} (h : s.HasUnits) :
    NextHasUnits (execRegisterWrite t fn off bytes s) :=
  h.run fun _ hu => hu.whenHost fun _ hv => hv.barWrite

theorem execUnsupportedAccess {off size : Nat} {isWrite : Bool} (h : s.HasUnits) :
    NextHasUnits (execUnsupportedAccess t fn off size isWrite s) :=
  h.run fun _ hu => hu.whenHost fun _ hv => .ite hv hv.frame

theorem execConfigurationRequest {reg : Nat} {write : Option Nat} (h : s.HasUnits) :
    NextHasUnits (execConfigurationRequest t fn reg write s) :=
  h.run fun _ hu => .ite hu (.ite hu.frame (by split; exact hu.configWrite.frame; exact hu.frame))

theorem execFunctionLevelReset (h : s.HasUnits) : NextHasUnits (execFunctionLevelReset t fn s) :=
  h.run fun _ hu => hu.whenHost fun _ hv => hv.levelReset

end

/-! ### Sensors -/

section

variable {s : State}

theorem drawPower (h : s.HasUnits) : s.drawPower.HasUnits := .ite h.freeNat.frame h.freeNat.frame

theorem powerWindow (h : s.HasUnits) : s.powerWindow.HasUnits := h.drawPower.frame

theorem sense (h : s.HasUnits) : s.sense.HasUnits := h.freeNat.drawPower.frame

end

/-! ### Telemetry and counters -/

section

variable {s : State} {i pos t fn mb : Nat} {x : Ticket} {c : Bytes}

theorem telemetryRead {outOk : Bool} (h : s.HasUnits) : (s.telemetryRead x c outOk).HasUnits :=
  .ite h.reply (.withOutput (.ite h.sense h))

theorem advanceScope {scope : Nat} (h : s.HasUnits) : (s.advanceScope scope i).HasUnits := by
  unfold State.advanceScope
  split
  · exact h.advanceWaits
  · exact h.advanceOpen
  · exact h

theorem pollScope {scope : Nat} (h : s.HasUnits) : (s.pollScope scope i).HasUnits :=
  h.foldl fun _ _ hu => hu.pollCounter

theorem counterRead {outOk : Bool} (h : s.HasUnits) : (s.counterRead x c outOk).HasUnits := by
  refine .ite h.reply ?_
  split
  · exact h.advanceScope.pollScope.withOutput
  · split
    · exact h.reply
    · exact h.withOutput
  · exact h.withOutput

theorem execTelemetryRead {outOk : Bool} (h : s.HasUnits) : NextHasUnits (execTelemetryRead t fn mb outOk s) :=
  h.run fun _ hu => hu.command fun _ _ _ hv => hv.telemetryRead

theorem execCounterRead {outOk : Bool} (h : s.HasUnits) : NextHasUnits (execCounterRead t fn mb outOk s) :=
  h.run fun _ hu => hu.command fun _ _ _ hv => hv.counterRead

theorem execCounterPoll {scope idx : Nat} (h : s.HasUnits) : NextHasUnits (execCounterPoll t scope idx pos s) :=
  h.run fun _ hu => .ite hu.pollCounter hu

end

/-! ### I3C, stops and the test access port -/

section

variable {s : State} {t : Nat}

theorem whenI3C {go : State → State} (h : s.HasUnits) (hgo : ∀ u, u.HasUnits → (go u).HasUnits) :
    (s.whenI3C go).HasUnits :=
  .ite h (hgo _ h)

theorem manage {code : Nat} {data : Bytes} (h : s.HasUnits) : (s.manage code data).HasUnits := h.frame

theorem answer {code : Nat} {data : Bytes} (h : s.HasUnits) : (s.answer code data).HasUnits := h.frame

theorem vendorMessage {code : Nat} {request : Bytes} {go : State → State}
    (h : s.HasUnits) (hgo : ∀ u, u.HasUnits → (go u).HasUnits) :
    (s.vendorMessage code request go).HasUnits :=
  .ite h.answer (.ite h.answer (hgo _ h))

theorem stateRead (h : s.HasUnits) : s.stateRead.HasUnits := h.answer

theorem sensorRead (h : s.HasUnits) : s.sensorRead.HasUnits := h.sense.answer

theorem alertRead (h : s.HasUnits) : s.alertRead.HasUnits := h.answer

theorem stopArm (h : s.HasUnits) : s.stopArm.HasUnits := h.frame.answer

theorem stopExpire (h : s.HasUnits) : s.stopExpire.HasUnits := by
  unfold State.stopExpire
  split
  · exact .ite h.frame h
  · exact h

theorem linksDown (h : s.HasUnits) : s.linksDown.HasUnits := h.mapPorts.mapSubs

theorem emergencyStop (h : s.HasUnits) : s.emergencyStop.HasUnits := h.frame.linksDown.raise.raise.failAll

theorem stopNow (h : s.HasUnits) : s.stopNow.HasUnits := .ite h.emergencyStop.answer h.answer

theorem setEid {eid : Nat} (h : s.HasUnits) : (s.setEid eid).HasUnits := .ite h.manage h.frame.manage

theorem getEid (h : s.HasUnits) : s.getEid.HasUnits := h.manage

theorem getVersions (h : s.HasUnits) : s.getVersions.HasUnits := h.frame.manage

theorem getTypes (h : s.HasUnits) : s.getTypes.HasUnits := h.manage

theorem tapClock {tms tdi : Bool} (h : s.HasUnits) : (s.tapClock tms tdi).HasUnits :=
  .ite h.frame.freeNat.frame h.frame

theorem execStateRead {request : Bytes} (h : s.HasUnits) : NextHasUnits (execStateRead t request s) :=
  h.run fun _ hu => hu.whenI3C fun _ hv => hv.vendorMessage fun _ hw => hw.stateRead

theorem execSensorRead {request : Bytes} (h : s.HasUnits) : NextHasUnits (execSensorRead t request s) :=
  h.run fun _ hu => hu.whenI3C fun _ hv => hv.vendorMessage fun _ hw => hw.sensorRead

theorem execAlertRead {request : Bytes} (h : s.HasUnits) : NextHasUnits (execAlertRead t request s) :=
  h.run fun _ hu => hu.whenI3C fun _ hv => hv.vendorMessage fun _ hw => hw.alertRead

theorem execStopArm {request : Bytes} (h : s.HasUnits) : NextHasUnits (execStopArm t request s) :=
  h.run fun _ hu => hu.whenI3C fun _ hv => hv.vendorMessage fun _ hw => hw.stopArm

theorem execStopArmExpiry (h : s.HasUnits) : NextHasUnits (execStopArmExpiry t s) :=
  h.run fun _ hu => hu.whenI3C fun _ hv => hv.stopExpire

theorem execStop {request : Bytes} (h : s.HasUnits) : NextHasUnits (execStop t request s) :=
  h.run fun _ hu => hu.whenI3C fun _ hv => hv.vendorMessage fun _ hw => hw.stopNow

theorem execSetEndpointId {eid : Nat} (h : s.HasUnits) : NextHasUnits (execSetEndpointId t eid s) :=
  h.run fun _ hu => hu.whenI3C fun _ hv => hv.setEid

theorem execGetEndpointId (h : s.HasUnits) : NextHasUnits (execGetEndpointId t s) :=
  h.run fun _ hu => hu.whenI3C fun _ hv => hv.getEid

theorem execGetMctpVersionSupport (h : s.HasUnits) : NextHasUnits (execGetMctpVersionSupport t s) :=
  h.run fun _ hu => hu.whenI3C fun _ hv => hv.getVersions

theorem execGetMessageTypeSupport (h : s.HasUnits) : NextHasUnits (execGetMessageTypeSupport t s) :=
  h.run fun _ hu => hu.whenI3C fun _ hv => hv.getTypes

theorem execSetdasa {addr : Nat} (h : s.HasUnits) : NextHasUnits (execSetdasa t addr s) :=
  h.run fun _ hu => hu.whenI3C fun _ hv => hv.frame

theorem execEntdaa {addr : Nat} (h : s.HasUnits) : NextHasUnits (execEntdaa t addr s) :=
  h.run fun _ hu => hu.whenI3C fun _ hv => hv.frame

theorem execTestAccessPortClock {tms tdi : Bool} (h : s.HasUnits) :
    NextHasUnits (execTestAccessPortClock t tms tdi s) :=
  h.run fun _ hu => .ite hu hu.tapClock

end

/-! ### Power, faults and boot -/

section

variable {s : State} {b p t : Nat}

theorem whenResponds {go : State → State} (h : s.HasUnits) (hgo : ∀ u, u.HasUnits → (go u).HasUnits) :
    (s.whenResponds go).HasUnits :=
  .ite (hgo _ h) h

theorem closeSecond (h : s.HasUnits) : s.closeSecond.HasUnits := .ite h.frame h

theorem monitorWindow {rs : List MonitorReading} {voltageOk : Bool} (h : s.HasUnits) :
    (s.monitorWindow rs voltageOk).HasUnits := by
  unfold State.monitorWindow
  extract_lets _ _ _ s1 s2 s3
  have h1 : s1.HasUnits := h.powerWindow.frame
  have h2 : s2.HasUnits := h1.closeSecond
  have h3 : s3.HasUnits := h2.frame
  exact .ite h3.enterFault h3

theorem trim {mv : Nat} (h : s.HasUnits) : (s.trim mv).HasUnits := .ite h.frame h

theorem stepDown {target : Nat} (h : s.HasUnits) : (s.stepDown target).HasUnits :=
  .ite (h.frame.foldl fun _ _ hu => hu.finish) h.frame

theorem coolantInlet {tenths : Nat} (h : s.HasUnits) : (s.coolantInlet tenths).HasUnits :=
  .ite h.frame.frame.freeNat.stepDown.raise h.frame.frame

theorem junctionOver {celsius : Nat} (h : s.HasUnits) : (s.junctionOver b celsius).HasUnits :=
  .ite (.raise (.ite h.frame.frame.stepDown (.ite h.frame.frame.stepDown h.frame.frame))) h.frame.frame

theorem thermalTrip {celsius : Nat} (h : s.HasUnits) : (s.thermalTrip b celsius).HasUnits :=
  .ite h.frame.frame.raise.enterFault h.frame

theorem regulatorAlarm (h : s.HasUnits) : s.regulatorAlarm.HasUnits := .ite h h.frame.raise

theorem supplyWarning {centivolts : Nat} (h : s.HasUnits) : (s.supplyWarning centivolts).HasUnits := by
  unfold State.supplyWarning
  extract_lets s1 s2
  have h1 : s1.HasUnits := h.frame
  have h2 : s2.HasUnits := h1.frame.raise
  exact .ite h1 (.ite h2.sendSags h2)

theorem folhamFault (h : s.HasUnits) : (s.folhamFault p).HasUnits :=
  .ite h (.failOpens (h.frame.foldl fun _ _ hu => hu.leaveUp))

theorem cxlFault {q : Nat} (h : s.HasUnits) : (s.cxlFault q).HasUnits := h.modPort

theorem blockFault {x : SharedBlock} {cause : Nat} (h : s.HasUnits) : (s.blockFault x cause).HasUnits :=
  h.frame.enterFault

theorem sharedFault {x : SharedBlock} (h : s.HasUnits) : (s.sharedFault x).HasUnits := by
  unfold State.sharedFault
  split
  · exact h.folhamFault
  · exact h.cxlFault
  · exact h.blockFault
  · exact h.blockFault
  · exact h.blockFault
  · exact h.blockFault
  · exact h.blockFault
  · exact h.blockFault

theorem coldStart (h : s.HasUnits) : s.coldStart.HasUnits :=
  (Units.setSubs reset List.length_replicate).setPorts ((List.length_map _).trans h.cxl)

theorem perstAssert (h : s.HasUnits) : s.perstAssert.HasUnits := .ite h.frame h.frame.coldStart

theorem trainHost (h : s.HasUnits) : s.trainHost.HasUnits := h.freeNat.frame

theorem perstRelease {feed : Nat} {hold : Bool} (h : s.HasUnits) : (s.perstRelease feed hold).HasUnits :=
  .congr rfl (.ite h.trainHost h)

theorem lights (h : s.HasUnits) : s.lights.HasUnits := h.coldStart.frame

theorem powerDown (h : s.HasUnits) : s.powerDown.HasUnits := .ite h h.lights

theorem powerUp (h : s.HasUnits) : s.powerUp.HasUnits := .ite h.trainHost.freeNat.coldStart.frame h

theorem railLost (h : s.HasUnits) : s.railLost.HasUnits := h.frame

theorem takeRecords {slot : Nat} {serial : Bytes} (h : s.HasUnits) : (s.takeRecords slot serial).HasUnits :=
  .congr rfl h.freeNat.mapBasins

theorem trainStacks {bad : List Nat} (h : s.HasUnits) : (s.trainStacks bad).HasUnits := by
  unfold State.trainStacks
  extract_lets s1
  have h1 : s1.HasUnits := h.foldl fun _ _ hu => .ite hu.modBasin hu
  exact .ite h1 h1.commitRetired

theorem enterUp (h : s.HasUnits) : s.enterUp.HasUnits := .ite h.frame h.frame.trainAll

theorem bootDone {boot : BootResult} (h : s.HasUnits) : (s.bootDone boot).HasUnits := by
  refine .ite h (.ite h.enterFault ?_)
  extract_lets _ s1
  have h1 : s1.HasUnits := h.frame
  split
  · extract_lets s2 s3
    have h2 : s2.HasUnits := h1.takeRecords.trainStacks
    have h3 : s3.HasUnits := h2.enterUp.foldl fun _ _ hu => hu.raise
    exact .ite (.enterFault (.foldl h2.frame fun _ _ hu => hu.raise)) (.ite h3.raise h3)
  · exact h1.enterFault

theorem execMonitorWindow {readings : List MonitorReading} {voltageOk : Bool} (h : s.HasUnits) :
    NextHasUnits (execMonitorWindow t readings voltageOk s) :=
  h.run fun _ hu => hu.whenResponds fun _ hv => hv.monitorWindow

theorem execP3Trim {millivolts : Nat} (h : s.HasUnits) : NextHasUnits (execP3Trim t millivolts s) :=
  h.run fun _ hu => hu.whenResponds fun _ hv => hv.trim

theorem execCoolantInletHigh {tenths : Nat} (h : s.HasUnits) : NextHasUnits (execCoolantInletHigh t tenths s) :=
  h.run fun _ hu => hu.whenResponds fun _ hv => hv.coolantInlet

theorem execJunctionOverLimit {celsius : Nat} (h : s.HasUnits) :
    NextHasUnits (execJunctionOverLimit t b celsius s) :=
  h.run fun _ hu => hu.whenResponds fun _ hv => hv.junctionOver

theorem execThermalTrip {celsius : Nat} (h : s.HasUnits) : NextHasUnits (execThermalTrip t b celsius s) :=
  h.run fun _ hu => .ite hu hu.thermalTrip

theorem execRegulatorAlarm (h : s.HasUnits) : NextHasUnits (execRegulatorAlarm t s) :=
  h.run fun _ hu => hu.whenResponds fun _ hv => hv.regulatorAlarm

theorem execSupplyWarning {centivolts : Nat} (h : s.HasUnits) : NextHasUnits (execSupplyWarning t centivolts s) :=
  h.run fun _ hu => hu.whenResponds fun _ hv => hv.supplyWarning

theorem execOscillatorLoss (h : s.HasUnits) : NextHasUnits (execOscillatorLoss t s) :=
  h.run fun _ hu => .ite hu hu.enterFault

theorem execSharedBlockFault {block : SharedBlock} (h : s.HasUnits) :
    NextHasUnits (execSharedBlockFault t block s) :=
  h.run fun _ hu => .ite hu hu.sharedFault

theorem execPerstLRelease {feed : Nat} {hold : Bool} (h : s.HasUnits) :
    NextHasUnits (execPerstLRelease t feed hold s) :=
  h.run fun _ hu => hu.perstRelease

theorem execPerstLAssert (h : s.HasUnits) : NextHasUnits (execPerstLAssert t s) := h.run fun _ hu => hu.perstAssert

theorem execBootComplete {boot : BootResult} (h : s.HasUnits) : NextHasUnits (execBootComplete t boot s) :=
  h.run fun _ hu => hu.bootDone

theorem execUndervoltageLockout (h : s.HasUnits) : NextHasUnits (execUndervoltageLockout t s) :=
  h.run fun _ hu => hu.powerDown

theorem execOvervoltageCut (h : s.HasUnits) : NextHasUnits (execOvervoltageCut t s) :=
  h.run fun _ hu => hu.powerDown

theorem execPowerOff (h : s.HasUnits) : NextHasUnits (execPowerOff t s) := h.run fun _ hu => hu.powerDown

theorem execRailOutOfRegulation (h : s.HasUnits) : NextHasUnits (execRailOutOfRegulation t s) :=
  h.run fun _ hu => hu.railLost

end

/-! ### Reflection commands and failure notices -/

section

variable {s : State} {x : Ticket} {c : Bytes} {t fn mb : Nat}

theorem reflectUnpair (h : s.HasUnits) : (s.reflectUnpair x c).HasUnits :=
  .ite h.reply (.ite h.reply h.modPartition.reply)

theorem reflectMake (h : s.HasUnits) : (s.reflectMake x c).HasUnits := by
  unfold State.reflectMake
  extract_lets
  split
  · exact h.reply
  · exact .ite h.reply (.ite h.reply (.ite h.modPartition.reply h.openCommand.sendTo))

theorem reflectPairing (h : s.HasUnits) : (s.reflectPairing x c).HasUnits :=
  .ite h.reply (.ite h.reflectUnpair h.reflectMake)

theorem reflectIntervalSet (h : s.HasUnits) : (s.reflectIntervalSet x c).HasUnits := by
  refine .ite h.reply ?_
  extract_lets
  split
  · exact .ite h.modPartition.reply h.modPartition.freeNat.reply
  · exact h.modPartition.freeNat.reply

theorem soundingThresholdSet (h : s.HasUnits) : (s.soundingThresholdSet x c).HasUnits := .ite h.reply h.frame.reply

theorem noteFailure {dev : Nat} (h : s.HasUnits) : (s.noteFailure dev).HasUnits :=
  h.mapPartitions.frame.foldl fun _ _ hu => hu.refreshInterval.collLost

theorem failureNotice (h : s.HasUnits) : (s.failureNotice x c).HasUnits :=
  .ite h.reply h.noteFailure.collProgress.reply

theorem restoreBegin {found : Option RestoreAnswer} (h : s.HasUnits) : (s.restoreBegin x c found).HasUnits := by
  refine .ite h.reply (.ite h.reply (.ite h.reply ?_))
  extract_lets
  split
  · exact h.sendTo.reply
  · exact .ite h.sendTo.reply (h.sendTo.accept fun _ hu => hu.abandonCapture.abandonCapture.allDirty.modPartition)

theorem replayVerify (h : s.HasUnits) : (s.replayVerify x c).HasUnits := .ite h.reply (.ite h.reply h.reply)

theorem execReflectPair (h : s.HasUnits) : NextHasUnits (execReflectPair t fn mb s) :=
  h.run fun _ hu => hu.command fun _ _ _ hv => hv.reflectPairing

theorem execReflectIntervalSet (h : s.HasUnits) : NextHasUnits (execReflectIntervalSet t fn mb s) :=
  h.run fun _ hu => hu.command fun _ _ _ hv => hv.reflectIntervalSet

theorem execSoundingThresholdSet (h : s.HasUnits) : NextHasUnits (execSoundingThresholdSet t fn mb s) :=
  h.run fun _ hu => hu.command fun _ _ _ hv => hv.soundingThresholdSet

theorem execFailureNotice (h : s.HasUnits) : NextHasUnits (execFailureNotice t fn mb s) :=
  h.run fun _ hu => hu.command fun _ _ _ hv => hv.failureNotice

theorem execRestoreBegin {found : Option RestoreAnswer} (h : s.HasUnits) :
    NextHasUnits (execRestoreBegin t fn mb found s) :=
  h.run fun _ hu => hu.command fun _ _ _ hv => hv.restoreBegin

theorem execReplayVerify (h : s.HasUnits) : NextHasUnits (execReplayVerify t fn mb s) :=
  h.run fun _ hu => hu.command fun _ _ _ hv => hv.replayVerify

end

/-! ### CXL ports and stacks -/

section

variable {s : State} {b i a t : Nat}

theorem cxlLinkUp {q capacity gts lanes : Nat} {prsnt : Bool} (h : s.HasUnits) :
    (s.cxlLinkUp q capacity gts lanes prsnt).HasUnits :=
  .ite h.modPort h.modPort.modPort.raise

theorem cxlLinkDown {q : Nat} (h : s.HasUnits) : (s.cxlLinkDown q).HasUnits := h.modPort

theorem cxlRecover {q : Nat} (h : s.HasUnits) : (s.cxlRecover q).HasUnits := h.modPort

theorem cxlLost {q : Nat} (h : s.HasUnits) : (s.cxlLost q).HasUnits :=
  h.modBasin.bump.modPort.raise.mapPartitions.failOpens

theorem cxlLoss {q : Nat} (h : s.HasUnits) : (s.cxlLoss q).HasUnits := by
  unfold State.cxlLoss
  split
  · exact .ite h.cxlLost h
  · exact h

theorem cxlUnplug {q : Nat} (h : s.HasUnits) : (s.cxlUnplug q).HasUnits := h.modPort

theorem cxlReadDone {q : Nat} {poison : Bool} (h : s.HasUnits) : (s.cxlReadDone q a poison).HasUnits := by
  unfold State.cxlReadDone
  split
  · exact .ite h.markStored.bump.raise h
  · exact h

theorem patrol {symbols position : Nat} (h : s.HasUnits) : (s.patrol i symbols position).HasUnits :=
  .ite h h.modStack.stackRead.checkWear

theorem recalibrate {restored : Bool} (h : s.HasUnits) : (s.recalibrate i restored).HasUnits :=
  .ite h (.ite h.modStack h.modStack.basinFault)

theorem execCxlLinkUp {port capacity gts lanes : Nat} {prsnt : Bool} (h : s.HasUnits) :
    NextHasUnits (execCxlLinkUp t port capacity gts lanes prsnt s) :=
  h.runAlive fun _ hu => hu.cxlLinkUp

theorem execCxlLinkDown {port : Nat} (h : s.HasUnits) : NextHasUnits (execCxlLinkDown t port s) :=
  h.runAlive fun _ hu => hu.cxlLinkDown

theorem execCxlLinkLoss {port : Nat} (h : s.HasUnits) : NextHasUnits (execCxlLinkLoss t port s) :=
  h.runAlive fun _ hu => hu.cxlLoss

theorem execCxlLinkRetrainRecovery {port : Nat} (h : s.HasUnits) :
    NextHasUnits (execCxlLinkRetrainRecovery t port s) :=
  h.runAlive fun _ hu => hu.cxlRecover

theorem execCxlUnplug {port : Nat} (h : s.HasUnits) : NextHasUnits (execCxlUnplug t port s) :=
  h.runAlive fun _ hu => hu.cxlUnplug

theorem execCxlReadCompletion {port addr : Nat} {poison : Bool} (h : s.HasUnits) :
    NextHasUnits (execCxlReadCompletion t port addr poison s) :=
  h.runAlive fun _ hu => hu.cxlReadDone

theorem execPatrolScrub {stack symbols position : Nat} (h : s.HasUnits) :
    NextHasUnits (execPatrolScrub t stack symbols position s) :=
  h.runAlive fun _ hu => hu.patrol

theorem execStackRecalibration {stack : Nat} {restored : Bool} (h : s.HasUnits) :
    NextHasUnits (execStackRecalibration t stack restored s) :=
  h.runAlive fun _ hu => hu.recalibrate

theorem execStackWipeComplete (h : s.HasUnits) : NextHasUnits (execStackWipeComplete t b s) :=
  h.runAlive fun _ hu => hu.modBasin

end

/-! ### Every command -/

section

variable {s : State}

theorem exec {c : Instr} (h : s.HasUnits) : NextHasUnits (exec c s) := by
  cases c with
  | doorbell => exact h.execDoorbell
  | overrunClear => exact h.execOverrunClear
  | eventHeadWrite => exact h.execEventHeadWrite
  | alertRegisterWrite => exact h.execAlertRegisterWrite
  | registerWrite => exact h.execRegisterWrite
  | unsupportedAccess => exact h.execUnsupportedAccess
  | undefinedOpcode => exact h.execUndefinedOpcode
  | deviceQuery => exact h.execDeviceQuery
  | holdRelease => exact h.execHoldRelease
  | operatingPointSet => exact h.execOperatingPointSet
  | pointSettled => exact h.execPointSettled
  | partitionOpen => exact h.execPartitionOpen
  | partitionClose => exact h.execPartitionClose
  | partitionCloseComplete => exact h.execPartitionCloseComplete
  | poolModeSet => exact h.execPoolModeSet
  | poolModeChangeComplete => exact h.execPoolModeChangeComplete
  | segmentSet => exact h.execSegmentSet
  | cxlPortAttach => exact h.execCxlPortAttach
  | cxlPortDetach => exact h.execCxlPortDetach
  | cxlDetachComplete => exact h.execCxlDetachComplete
  | programLoad => exact h.execProgramLoad
  | programLoadComplete => exact h.execProgramLoadComplete
  | tableLoad => exact h.execTableLoad
  | tableLoadComplete => exact h.execTableLoadComplete
  | taskStart => exact h.execTaskStart
  | taskStop => exact h.execTaskStop
  | clearingComplete => exact h.execClearingComplete
  | taskQuery => exact h.execTaskQuery
  | stillPlan => exact h.execStillPlan
  | stillWindowSet => exact h.execStillWindowSet
  | routeTableLoad => exact h.execRouteTableLoad
  | peerTableLoad => exact h.execPeerTableLoad
  | groupDefine => exact h.execGroupDefine
  | weirSet => exact h.execWeirSet
  | syncTreeDefine => exact h.execSyncTreeDefine
  | generationCancel => exact h.execGenerationCancel
  | portModeSet => exact h.execPortModeSet
  | portRetrain => exact h.execPortRetrain
  | reflectPair => exact h.execReflectPair
  | partnerConfirm => exact h.execPartnerConfirm
  | reflectIntervalSet => exact h.execReflectIntervalSet
  | soundingThresholdSet => exact h.execSoundingThresholdSet
  | failureNotice => exact h.execFailureNotice
  | restoreBegin => exact h.execRestoreBegin
  | replayVerify => exact h.execReplayVerify
  | attestReport => exact h.execAttestReport
  | attestReportComplete => exact h.execAttestReportComplete
  | keyAccept => exact h.execKeyAccept
  | weightsImport => exact h.execWeightsImport
  | debugUnlock => exact h.execDebugUnlock
  | telemetryRead => exact h.execTelemetryRead
  | counterRead => exact h.execCounterRead
  | basinDrain => exact h.execBasinDrain
  | drainComplete => exact h.execDrainComplete
  | drainCollectiveTimeout => exact h.execDrainCollectiveTimeout
  | basinService => exact h.execBasinService
  | basinReturn => exact h.execBasinReturn
  | basinRetire => exact h.execBasinRetire
  | calibrate => exact h.execCalibrate
  | calibrationComplete => exact h.execCalibrationComplete
  | firmwareStage => exact h.execFirmwareStage
  | firmwareStageComplete => exact h.execFirmwareStageComplete
  | firmwareSwitch => exact h.execFirmwareSwitch
  | handoverStart => exact h.execHandoverStart
  | handoverDeadline => exact h.execHandoverDeadline
  | handoverTimeout => exact h.execHandoverTimeout
  | stateRead => exact h.execStateRead
  | sensorRead => exact h.execSensorRead
  | alertRead => exact h.execAlertRead
  | stopArm => exact h.execStopArm
  | stopArmExpiry => exact h.execStopArmExpiry
  | stop => exact h.execStop
  | setEndpointId => exact h.execSetEndpointId
  | getEndpointId => exact h.execGetEndpointId
  | getMctpVersionSupport => exact h.execGetMctpVersionSupport
  | getMessageTypeSupport => exact h.execGetMessageTypeSupport
  | setdasa => exact h.execSetdasa
  | entdaa => exact h.execEntdaa
  | functionLevelReset => exact h.execFunctionLevelReset
  | unknownClassDescriptor => exact h.execUnknownClassDescriptor
  | merePassStage => exact h.execMerePassStage
  | merePassIssue => exact h.execMerePassIssue
  | merePassComplete => exact h.execMerePassComplete
  | spmm => exact h.execSpmm
  | gather => exact h.execGather
  | scatterAdd => exact h.execScatterAdd
  | merge => exact h.execMerge
  | tilePack => exact h.execTilePack
  | tileUnpack => exact h.execTileUnpack
  | tarnOperationComplete => exact h.execTarnOperationComplete
  | rank => exact h.execRank
  | place => exact h.execPlace
  | combine => exact h.execCombine
  | retire => exact h.execRetire
  | maskBuild => exact h.execMaskBuild
  | maskApply => exact h.execMaskApply
  | add => exact h.execAdd
  | mul => exact h.execMul
  | fma => exact h.execFma
  | axpy => exact h.execAxpy
  | scale => exact h.execScale
  | convert => exact h.execConvert
  | max2 => exact h.execMax2
  | min2 => exact h.execMin2
  | div => exact h.execDiv
  | sqrt => exact h.execSqrt
  | rsqrt => exact h.execRsqrt
  | sum => exact h.execSum
  | sumsq => exact h.execSumsq
  | max => exact h.execMax
  | min => exact h.execMin
  | argmax => exact h.execArgmax
  | meanVar => exact h.execMeanVar
  | meanVarMerge => exact h.execMeanVarMerge
  | vectorOperationComplete => exact h.execVectorOperationComplete
  | fn => exact h.execFn
  | fnSave => exact h.execFnSave
  | deriv => exact h.execDeriv
  | grad => exact h.execGrad
  | gradMask => exact h.execGradMask
  | dropout => exact h.execDropout
  | maxsel => exact h.execMaxsel
  | maxselGrad => exact h.execMaxselGrad
  | tableOperationComplete => exact h.execTableOperationComplete
  | copy => exact h.execCopy
  | zero => exact h.execZero
  | moveComplete => exact h.execMoveComplete
  | syncSetCell => exact h.execSyncSetCell
  | setRemote => exact h.execSetRemote
  | arm => exact h.execArm
  | wait => exact h.execWait
  | barrier => exact h.execBarrier
  | pair => exact h.execPair
  | waitStep => exact h.execWaitStep
  | layerMark => exact h.execLayerMark
  | skippedDescriptor => exact h.execSkippedDescriptor
  | taskRunEnd => exact h.execTaskRunEnd
  | taskFinish => exact h.execTaskFinish
  | reduceScatter => exact h.execReduceScatter
  | allGather => exact h.execAllGather
  | norm => exact h.execNorm
  | reshard => exact h.execReshard
  | dispatch => exact h.execDispatch
  | collReturn => exact h.execCollReturn
  | join => exact h.execJoin
  | collStart => exact h.execCollStart
  | excluded => exact h.execExcluded
  | collDone => exact h.execCollDone
  | collEnd => exact h.execCollEnd
  | collBreak => exact h.execCollBreak
  | weirClose => exact h.execWeirClose
  | rsBlocks => exact h.execRsBlocks
  | scaleEcho => exact h.execScaleEcho
  | normValue => exact h.execNormValue
  | shardData => exact h.execShardData
  | dispatchRow => exact h.execDispatchRow
  | returnRow => exact h.execReturnRow
  | syncSet => exact h.execSyncSet
  | arrive => exact h.execArrive
  | release => exact h.execRelease
  | pairArrive => exact h.execPairArrive
  | still => exact h.execStill
  | stillSyncInPulse => exact h.execStillSyncInPulse
  | plannedStill => exact h.execPlannedStill
  | stillWindowEnd => exact h.execStillWindowEnd
  | stillResume => exact h.execStillResume
  | dataFrame => exact h.execDataFrame
  | dataFrameNak => exact h.execDataFrameNak
  | controlFrame => exact h.execControlFrame
  | idleFrame => exact h.execIdleFrame
  | frameSend => exact h.execFrameSend
  | controlFrameSend => exact h.execControlFrameSend
  | messageForward => exact h.execMessageForward
  | routeWaitExpiry => exact h.execRouteWaitExpiry
  | undefinedTypeMessage => exact h.execUndefinedTypeMessage
  | returnMessage => exact h.execReturnMessage
  | returnSend => exact h.execReturnSend
  | probe => exact h.execProbe
  | resendTimeout => exact h.execResendTimeout
  | probeTimeout => exact h.execProbeTimeout
  | lossOfLock => exact h.execLossOfLock
  | trainingComplete => exact h.execTrainingComplete
  | trainingAttemptFailed => exact h.execTrainingAttemptFailed
  | cxlLinkUp => exact h.execCxlLinkUp
  | cxlLinkDown => exact h.execCxlLinkDown
  | cxlLinkLoss => exact h.execCxlLinkLoss
  | cxlUnplug => exact h.execCxlUnplug
  | cxlReadCompletion => exact h.execCxlReadCompletion
  | imageBegin => exact h.execImageBegin
  | imagePage => exact h.execImagePage
  | imageCommit => exact h.execImageCommit
  | captureCommit => exact h.execCaptureCommit
  | feedQuery => exact h.execFeedQuery
  | sag => exact h.execSag
  | restoreAsk => exact h.execRestoreAsk
  | restorePage => exact h.execRestorePage
  | weightData => exact h.execWeightData
  | soundingUpdate => exact h.execSoundingUpdate
  | monitorWindow => exact h.execMonitorWindow
  | p3Trim => exact h.execP3Trim
  | coolantInletHigh => exact h.execCoolantInletHigh
  | junctionOverLimit => exact h.execJunctionOverLimit
  | thermalTrip => exact h.execThermalTrip
  | regulatorAlarm => exact h.execRegulatorAlarm
  | supplyWarning => exact h.execSupplyWarning
  | counterPoll => exact h.execCounterPoll
  | patrolScrub => exact h.execPatrolScrub
  | stackRecalibration => exact h.execStackRecalibration
  | basinFault => exact h.execBasinFault
  | oscillatorLoss => exact h.execOscillatorLoss
  | powerOn => exact .next h.powerUp
  | perstLRelease => exact h.execPerstLRelease
  | perstLAssert => exact h.execPerstLAssert
  | bootComplete => exact h.execBootComplete
  | undervoltageLockout => exact h.execUndervoltageLockout
  | overvoltageCut => exact h.execOvervoltageCut
  | powerOff => exact h.execPowerOff
  | railOutOfRegulation => exact h.execRailOutOfRegulation
  | sharedBlockFault => exact h.execSharedBlockFault
  | cxlLinkRetrainRecovery => exact h.execCxlLinkRetrainRecovery
  | stackWipeComplete => exact h.execStackWipeComplete
  | testAccessPortClock => exact h.execTestAccessPortClock
  | configurationRequest => exact h.execConfigurationRequest

end

/-! ### A step -/

section

variable {s : State}

theorem step (h : s.HasUnits) : NextHasUnits (Machine.step s) := by
  unfold Machine.step
  split
  · exact h.next
  · exact h.frame.exec

end

end State.HasUnits

/-! ### The obligations -/

/-- No partition is open after reset. -/
theorem reset_partition (p : Nat) : State.reset.partition p = {} := by
  simp only [State.partition, State.reset, List.getD_eq_getElem?_getD, List.getElem?_replicate]
  split
  · rfl
  · rfl

theorem reset_not_holdsBasin (p b : Nat) : ¬ State.reset.holdsBasin p b = true := by
  rw [State.holdsBasin, reset_partition]
  exact Bool.false_ne_true

theorem reset_exclusive : State.reset.exclusive :=
  ⟨fun p _ b h => absurd h (reset_not_holdsBasin p b), fun p b h => absurd h (reset_not_holdsBasin p b)⟩

/-- Settles O3: the memory and the units are evaluated, and no basin is held because no partition is open. -/
theorem resetInvariants : Obligations.ResetInvariants :=
  ⟨by decide +kernel, State.shaped_iff.2 .reset, reset_exclusive⟩

/-- Settles O5: `State.HasUnits` is what `State.shaped` tests, and the front command's own lemma keeps it. -/
theorem stepKeepsUnits : Obligations.StepKeepsUnits := by
  unfold Obligations.StepKeepsUnits
  intro s u hs hu
  have h : s.HasUnits := State.shaped_iff.1 hs
  exact State.shaped_iff.2 (h.step u hu)

end Sys2Proof.Machine

/-! ## Segment records and the size of the home cache (R191, R192, R209) -/

namespace Sys2Proof.Machine

/-! ### A mailbox command that is answered at once

`State.taken` is the state a command goes on in after its gate; what a command's own rule answers there is its response. -/

/-- A command that passes its gate and answers at once leaves `v` beside its answer. -/
theorem State.run_command_replies {s v : State} {t f m : Nat} {k : CmdSpec} {go : State → Ticket → Bytes → State}
    {st : Status} {r : Bytes} (h : s.passes f m k) (hv : v.pending = s.pending)
    (hgo : ∀ o, go (s.taken s t f m o) (s.headTicket f m) (s.headCommand f m) =
      (v.taken s t f m o).reply (s.headTicket f m) st r) :
    ∃ u, s.run t (fun w => w.command f m k go) = .next u ∧ Replies s v u t f m st r := by
  obtain ⟨o, ho⟩ := s.takeCommand_taken t f m
  have ⟨_, hnext, _, _⟩ := h
  have hcmd : (s.now t).command f m k go = (v.taken s t f m o).reply (s.headTicket f m) st r := by
    rw [State.command_passes s t f m k go h, ho, hgo o]
  refine ⟨_, s.run_next t _, ?_⟩
  have hrep := State.replies (st := st) (r := r) (w := v.taken s t f m o) hnext rfl hv
  rw [← hcmd] at hrep
  exact hrep

/-! ### Input buffers (R333) -/

section
variable {s : State} {x : Ticket} {c : Bytes} {off n a : Nat} {go : Bytes → State}

/-- No legal buffer reference of `n` bytes. -/
theorem State.withInput_refused {buf : Option Bytes} (h : ∀ a, bufferAt c off ≠ some (a, n)) :
    s.withInput x c off (· == n) buf go = s.reply x .badArgument := by
  unfold State.withInput
  split
  · rfl
  · next a l e =>
    have hl : l ≠ n := fun hl => h a (hl ▸ e)
    simp [hl]

/-- The transfer failed. -/
theorem State.withInput_failed (h : bufferAt c off = some (a, n)) :
    s.withInput x c off (· == n) none go = s.reply x .hardwareFault := by
  simp [State.withInput, h]

/-- The whole buffer is there. -/
theorem State.withInput_bytes {bs : Bytes} (h : bufferAt c off = some (a, n)) (hlen : bs.length = n) :
    s.withInput x c off (· == n) (some bs) go = go bs := by
  have hs : sliceB bs 0 n = bs := by simp [sliceB, zeros, ← hlen]
  simp [State.withInput, h, hs]

end

/-! ### Which segment records are legal (R192, Table 8.6) -/

section
variable {s : State} {p : Nat} {r : SegRec}

theorem segReservedZero_iff {bs : Bytes} {off : Nat} : segReservedZero bs off = true ↔
    fieldB bs (off + 6) 2 = 0 ∧ fieldB bs (off + 14) 1 < 4 ∧ fieldB bs (off + 15) 1 = 0 := by
  simp [segReservedZero, and_assoc]

theorem State.mem_basinsOf {b : Nat} : b ∈ s.basinsOf p ↔ b < 8 ∧ s.holdsBasin p b = true := by
  simp [State.basinsOf]

theorem State.segInKind_pool : s.segInKind p r 0 = true ↔ r.base + r.size ≤ 0x40000000 := by
  simp [State.segInKind]

theorem State.segInKind_stack :
    s.segInKind p r 1 = true ↔ 0x20000000000 ≤ r.base ∧ r.base + r.size ≤ 0x40000000000 := by
  have hwindow : windowBase 0 = 0x20000000000 ∧ windowBase 8 = 0x40000000000 := ⟨rfl, rfl⟩
  simp only [State.segInKind, hwindow, Bool.and_eq_true, decide_eq_true_eq]

theorem State.segInKind_cxl : s.segInKind p r 2 = true ↔ ∃ q < 8, s.holdsPort p q = true ∧ (s.port q).state = .online ∧
    cxlBase q ≤ r.base ∧ r.base + r.size ≤ cxlBase q + (s.port q).mapped := by
  simp [State.segInKind, and_assoc]

/-- A cache grown from nothing takes the last sections (R189). -/
theorem changedSections_from_none (b n : Nat) : changedSections b 0 n = cacheSections b n := by
  simp [changedSections, cacheSections]

theorem State.segMeetsCache_eq_false : s.segMeetsCache p r = false ↔ ∀ b < 8, s.holdsBasin p b = true →
    rangesMeet (r.base, r.size) (cacheSections b (s.basin b).cache.size) = false := by
  simp [State.segMeetsCache, changedSections_from_none, State.mem_basinsOf]

/-- What the command tests of a record is what R192 asks of it. -/
theorem State.segLegal_iff {i : Nat} (hi : i < 4) : s.segLegal p r i = true ↔ LegalSegment s p r i := by
  unfold State.segLegal LegalSegment
  by_cases hz : r.size = 0
  · simp [hz]
  · match i, hi with
    | 0, _ | 1, _ | 2, _ | 3, _ =>
      simp [hz, State.segMeetsCache_eq_false, State.segInKind_pool, State.segInKind_stack, State.segInKind_cxl, and_assoc]

end

/-! ### SEGMENT_SET (R192) -/

/-- The four records of a SEGMENT_SET buffer (Table 8.5). -/
def segRecords (bs : Bytes) : List SegRec := (List.range 4).map fun i => segRecAt bs (16 * i)

/-- The four records are legal for a slot of basin `b`. -/
def State.segmentsLegal (s : State) (b : Nat) (bs : Bytes) : Bool :=
  (List.range 4).all fun i => segReservedZero bs (16 * i) && s.segLegal ((s.partitionOf b).getD 8) (segRecAt bs (16 * i)) i

theorem State.segmentsLegal_iff {s : State} {b : Nat} {bs : Bytes} : s.segmentsLegal b bs = true ↔
    ∀ i < 4, fieldB bs (16 * i + 6) 2 = 0 ∧ fieldB bs (16 * i + 14) 1 < 4 ∧ fieldB bs (16 * i + 15) 1 = 0 ∧
      LegalSegment s ((s.partitionOf b).getD 8) (segRecAt bs (16 * i)) i := by
  simp only [State.segmentsLegal, List.all_eq_true, List.mem_range, Bool.and_eq_true, segReservedZero_iff, and_assoc]
  refine forall₂_congr fun i hi => ?_
  rw [State.segLegal_iff hi]

theorem Slot.isUsed_eq (y : Slot) :
    (y.state == .running || y.state == .halted || y.state == .finished || y.clearing) = y.isUsed := by
  simp only [Slot.isUsed, Bool.or_comm, Bool.or_left_comm]

theorem State.HasUnits.basin {s : State} (h : s.HasUnits) {b : Nat} (hb : b < 8) : (s.basin b).HasUnits := by
  have hlen : b < s.basins.length := h.basins ▸ hb
  rw [State.basin, List.getD_eq_getElem?_getD, List.getElem?_eq_getElem hlen, Option.getD_some]
  exact h.basinsHave _ (List.getElem_mem hlen)

section
variable {s : State} {x : Ticket} {c : Bytes} {buf : Option Bytes}

/-- A slot beyond the device's, or no legal buffer reference of 64 bytes. -/
theorem State.segmentSet_refused
    (h : 7 < fieldB c 8 1 ∨ 15 < fieldB c 9 1 ∨ ∀ a, bufferAt c 16 ≠ some (a, 64)) :
    s.segmentSet x c buf = s.reply x .badArgument := by
  unfold State.segmentSet
  by_cases hout : 7 < fieldB c 8 1 ∨ 15 < fieldB c 9 1
  · simp [hout]
  · have hbuf := (or_assoc.2 h).resolve_left hout
    simp [hout, State.withInput_refused hbuf]

variable {a : Nat} (hb : fieldB c 8 1 < 8) (hk : fieldB c 9 1 < 16) (hbuf : bufferAt c 16 = some (a, 64))
include hb hk hbuf

theorem State.segmentSet_failed : s.segmentSet x c none = s.reply x .hardwareFault := by
  have hin : ¬ (7 < fieldB c 8 1 ∨ 15 < fieldB c 9 1) := by omega
  simp [State.segmentSet, hin, State.withInput_failed hbuf]

variable {bs : Bytes} (hlen : bs.length = 64)
include hlen

/-- With its buffer read, the command tests the records, then the slot. -/
theorem State.segmentSet_read : s.segmentSet x c (some bs) =
    if !s.segmentsLegal (fieldB c 8 1) bs then s.reply x .badArgument
    else if (s.slot (fieldB c 8 1) (fieldB c 9 1)).isUsed then s.reply x .busy
    else (s.modSlot (fieldB c 8 1) (fieldB c 9 1) fun y => { y with segs := segRecords bs }).reply x .done := by
  have hin : ¬ (7 < fieldB c 8 1 ∨ 15 < fieldB c 9 1) := by omega
  have hlegal : (List.range 4).all (fun i => segReservedZero bs (16 * i) &&
      s.segLegal ((s.partitionOf (fieldB c 8 1)).getD 8) ((segRecords bs).getD i {}) i) =
      s.segmentsLegal (fieldB c 8 1) bs := by
    simp [State.segmentsLegal, segRecords, List.range, List.range.loop]
  unfold State.segmentSet
  simp only [Bool.or_eq_true, decide_eq_true_eq, hin, if_false, State.withInput_bytes hbuf hlen, Slot.isUsed_eq]
  rw [← hlegal]
  rfl

theorem State.segmentSet_illegal (hl : s.segmentsLegal (fieldB c 8 1) bs = false) :
    s.segmentSet x c (some bs) = s.reply x .badArgument := by
  rw [State.segmentSet_read hb hk hbuf hlen]
  simp [hl]

theorem State.segmentSet_used (hl : s.segmentsLegal (fieldB c 8 1) bs = true)
    (hu : (s.slot (fieldB c 8 1) (fieldB c 9 1)).isUsed = true) : s.segmentSet x c (some bs) = s.reply x .busy := by
  rw [State.segmentSet_read hb hk hbuf hlen]
  simp [hl, hu]

theorem State.segmentSet_free (hl : s.segmentsLegal (fieldB c 8 1) bs = true)
    (hu : (s.slot (fieldB c 8 1) (fieldB c 9 1)).isUsed = false) : s.segmentSet x c (some bs) =
    (s.modSlot (fieldB c 8 1) (fieldB c 9 1) fun y => { y with segs := segRecords bs }).reply x .done := by
  rw [State.segmentSet_read hb hk hbuf hlen]
  simp [hl, hu]

end

/-- Settles O20: after the gate one rule of the command answers (`segmentSet_refused`, `segmentSet_failed`,
`segmentSet_illegal`, `segmentSet_used`, `segmentSet_free`), and what it tests of the records is `LegalSegment`. -/
theorem segmentsSet : Obligations.SegmentsSet := by
  unfold Obligations.SegmentsSet
  intro s t f m buf hpass hshape c b k p run
  constructor
  · intro hbad
    exact State.run_command_replies hpass rfl fun _ => State.segmentSet_refused hbad
  intro a hb hk hbuf
  constructor
  · rintro rfl
    exact State.run_command_replies hpass rfl fun _ => State.segmentSet_failed hb hk hbuf
  rintro bs rfl hlen legal
  have hlegal_iff : s.segmentsLegal b bs = true ↔ legal := State.segmentsLegal_iff
  refine ⟨fun hillegal => ?_, fun hlegal hused => ?_, fun hlegal hfree => ?_⟩
  · have hl := Bool.eq_false_iff.2 (mt hlegal_iff.1 hillegal)
    exact State.run_command_replies hpass rfl fun _ => State.segmentSet_illegal hb hk hbuf hlen hl
  · have hl := hlegal_iff.2 hlegal
    exact State.run_command_replies hpass rfl fun _ => State.segmentSet_used hb hk hbuf hlen hl hused
  · have hl := hlegal_iff.2 hlegal
    have hunits : s.HasUnits := State.shaped_iff.1 hshape
    have hb' : b < s.basins.length := hunits.basins ▸ hb
    have hk' : k < (s.basin b).slots.length := (hunits.basin hb).slots ▸ hk
    let v : State := s.modSlot b k fun y => { y with segs := segRecords bs }
    have hdone : ∃ u, run = .next u ∧ Replies s v u t f m .done [] :=
      State.run_command_replies hpass rfl fun _ => State.segmentSet_free hb hk hbuf hlen hl hfree
    obtain ⟨u, hu, hrep⟩ := hdone
    refine ⟨u, v, hu, hrep, rfl, fun e he => s.basin_modBasin_ne b e _ he.symm, ?_,
      fun j hj => s.slot_modSlot_ne b k j _ hj.symm, s.slot_modSlot b k _ hb' hk'⟩
    rw [show v.basin b = _ from s.basin_modBasin b _ hb']

/-! ### POOL_MODE_CHANGE_COMPLETE (R191)

The sections that change mode lie in the basin's pools when neither size is above 8. POOL_MODE_SET opens no change to a size
above 4, but an open command of any size is a state of the model. -/

/-- After reset, a change of basin 7's cache to 9 sections is open. From size 0 its range is 0x38000000 to 0x40FFFFFF, past
the pools and into the sync space. -/
def oversizedChange : OpenCmd := ⟨{ fn := 0, mb := 0, index := 0, opcode := 0x0301, tag := 0 }, .poolMode 7 9⟩

/-- The state after reset with the oversized change open. -/
def changingPastPools : State := { State.reset with opens := [oversizedChange] }

theorem changingPastPools_shaped : changingPastPools.shaped = true :=
  State.shaped_iff.2 State.HasUnits.reset

theorem changingPastPools_ticketOk : changingPastPools.ticketOk oversizedChange.ticket := by
  refine ⟨rfl, ?_, ?_⟩ <;> decide

/-- Byte 2 of the sync space belongs to the first cell of basin 0, so it does not depend on the pools (Table 13.2). -/
theorem State.readByte_firstCell (s : State) :
    s.readByte 0x40000002 = (toLE 8 ((s.basin 0).cells.getD 0 {}).word).getD 2 0 := rfl

/-- Refutes O21, in its second part: nothing bounds the size of the open change. In `changingPastPools` the sections that
change mode reach address 0x40000002, where the target of basin 0's first cell is read, 1 after reset. That cell is as
before, so the byte is not 0. -/
theorem not_poolModeChanges : ¬ Obligations.PoolModeChanges := by
  unfold Obligations.PoolModeChanges
  rintro ⟨-, hcomplete⟩
  obtain ⟨_, v, -, -, -, hothers, -, hzero, -⟩ := hcomplete changingPastPools 0 7 9 oversizedChange rfl
    changingPastPools_shaped (by decide) rfl rfl changingPastPools_ticketOk
  have hread : v.readByte 0x40000002 = 0 := hzero 0x40000002 (by decide) (by decide)
  have hcell : v.basin 0 = {} := hothers 0 (by decide)
  rw [State.readByte_firstCell, hcell] at hread
  exact absurd hread (by decide)

end Sys2Proof.Machine
